-- ==== Sys2Proof/Word.lean ====
section
/-! DEFINITION. The word types of the HB440 and the finite index types of its ports, channels and slots. -/

namespace Sys2Proof

/-- A 32-bit word of the store, of a packet's payload or of a descriptor (ch10). -/
abbrev Word := BitVec 32

/-- A byte of a packet header or of the store. -/
abbrev Byte := BitVec 8

/-- A 16-bit setting value (R170) or an encoded handle (section 10.2). -/
abbrev Half := BitVec 16

/-- A port link, 0 to 3. -/
abbrev Port := Fin 4

/-- A transfer channel, CH0 to CH7. -/
abbrev Channel := Fin 8

/-- A slot of the Lock Table, 0 to 31. -/
abbrev LockSlot := Fin 32

/-- One of the eight hub-request slots of a Link Controller. -/
abbrev HubSlot := Fin 8

end Sys2Proof
end

