-- ==== Sys2Proof/Syntax.lean ====
section
/-! DEFINITION. The commands of the hub: one constructor of Instr for each row of spec/opcode_table.json. -/

namespace Sys2Proof

/-- The condition of a store word with respect to its check code (R1). -/
inductive Condition where
  | clean
  | singleBit
  | uncorrectable
  deriving DecidableEq, Repr, Inhabited

/-- A packet as it stands on a link, less its check word (Table 10.1). The header's payload length is the
length of `payload`. -/
structure Packet where
  kind    : Byte
  tag     : Byte
  flags   : Byte
  payload : List Word
  deriving DecidableEq, Repr

/-- The operations and events of spec/opcode_table.json. The rows name no operands; each constructor carries
what tells one occurrence of the row from another (log entry 4): the port, channel or slot concerned, and what
arrives from outside. The contents of a request come from the packet that REQUEST_RECEIVED brought in. -/
inductive Instr where
  /-- PWROK_FALL (R182). -/
  | pwrokFall
  /-- PWROK_RISE (R7). -/
  | pwrokRise
  /-- INIT_COMPLETE (R7). -/
  | initComplete
  /-- HRST_ASSERT (R182). -/
  | hrstAssert
  /-- HRST_RELEASE (R182). -/
  | hrstRelease
  /-- SUPSEL_CHANGE (R171): the port number the straps now give. -/
  | supselChange (straps : Port)
  /-- PRSTN_ASSERT (R149). -/
  | prstnAssert (p : Port)
  /-- PRSTN_RELEASE (R149). -/
  | prstnRelease (p : Port)
  /-- BIT_DISTURBANCE (R1): word number and the condition the disturbance brings it to. -/
  | bitDisturbance (w : BitVec 16) (c : Condition)
  /-- TIMEBASE_BOUNDARY (R179). -/
  | timebaseBoundary
  /-- LEASE_EXPIRY (R43). -/
  | leaseExpiry (k : LockSlot)
  /-- WAIT_EXPIRY (R44). -/
  | waitExpiry (k : LockSlot)
  /-- ORPHAN_EXPIRY (R74). -/
  | orphanExpiry (k : LockSlot)
  /-- STALL_EXPIRY (R125). -/
  | stallExpiry (c : Channel)
  /-- TRAIN_WINDOW_EXPIRY (R152). -/
  | trainWindowExpiry (p : Port)
  /-- SLOT_TIMEOUT (R160). -/
  | slotTimeout (p : Port) (h : HubSlot)
  /-- HELLO (R150). Its payload is ignored (R184). -/
  | hello (p : Port)
  /-- READY (R151): its one payload word (R184). -/
  | ready (p : Port) (word : Word)
  /-- LOSS_OF_SIGNAL (R161). -/
  | lossOfSignal (p : Port)
  /-- BAD_CHECK_PACKET (R161). -/
  | badCheckPacket (p : Port)
  /-- REQUEST_RECEIVED (R154): the packet received. -/
  | requestReceived (p : Port) (pkt : Packet)
  /-- FETCH_REPLY (R159): its tag byte and payload. -/
  | fetchReply (p : Port) (tag : Byte) (payload : List Word)
  /-- STORE_REPLY (R159): its tag byte and payload. -/
  | storeReply (p : Port) (tag : Byte) (payload : List Word)
  /-- RESPONSE_SENT (R156). -/
  | responseSent (p : Port)
  /-- NOTICE_SENT (R139). -/
  | noticeSent (p : Port)
  /-- HUB_REQUEST_SENT (R158). -/
  | hubRequestSent (p : Port)
  /-- READ (R12): taken by port p's dispatcher. -/
  | read (p : Port)
  /-- WRITE (R13). -/
  | write (p : Port)
  /-- FETCH_ADD (R14). -/
  | fetchAdd (p : Port)
  /-- SWAP (R14). -/
  | swap (p : Port)
  /-- COMPARE_SWAP (R15). -/
  | compareSwap (p : Port)
  /-- ARBITER_GRANT (R17). -/
  | arbiterGrant
  /-- ACCESS_COMPLETE (R19). -/
  | accessComplete
  /-- LEASE_RESTART_REPORT (R42). -/
  | leaseRestartReport
  /-- LOCK (R28): taken from port p. -/
  | lock (p : Port)
  /-- UNLOCK (R37). -/
  | unlock (p : Port)
  /-- RENEW (R39). -/
  | renew (p : Port)
  /-- ADOPT (R75). -/
  | adopt (p : Port)
  /-- RECLAIM (R77). -/
  | reclaim (p : Port)
  /-- FORCE_RELEASE (R79). -/
  | forceRelease (p : Port)
  /-- LOCK_QUERY (R40). -/
  | lockQuery (p : Port)
  /-- LOCK_PORT_DOWN (R68): the port that went down. -/
  | lockPortDown (p : Port)
  /-- ARBITER_PORT_DOWN (R20). -/
  | arbiterPortDown (p : Port)
  /-- CHANNEL_START (R91). -/
  | channelStart (p : Port)
  /-- CHANNEL_STOP (R103). -/
  | channelStop (p : Port)
  /-- CHANNEL_RELEASE (R104). -/
  | channelRelease (p : Port)
  /-- CHANNEL_QUERY (R105). -/
  | channelQuery (p : Port)
  /-- DESCRIPTOR_REPLY (R94): the next claim handed by port p's Link Controller. -/
  | descriptorReply (p : Port)
  /-- LOOKAHEAD_REPLY (R95). -/
  | lookaheadReply (p : Port)
  /-- CHUNK_FETCH_REPLY (R117). -/
  | chunkFetchReply (p : Port)
  /-- CHUNK_STORE_REPLY (R118). -/
  | chunkStoreReply (p : Port)
  /-- CHANNEL_HUB_TIMEOUT (R127). -/
  | channelHubTimeout (p : Port)
  /-- HUB_REQUEST_DROP (R128). -/
  | hubRequestDrop (p : Port)
  /-- CHANNEL_ACCESS_OUTCOME (R122). -/
  | channelAccessOutcome (c : Channel)
  /-- RELEASE_ANNOUNCEMENT (R124). -/
  | releaseAnnouncement
  /-- CHANNEL_PORT_DOWN (R106). -/
  | channelPortDown (p : Port)
  /-- NOTICE_EVENT (R136): which of the waiting actions' events is taken next (log entry 12). -/
  | noticeEvent (k : Nat)
  /-- NOTICE_ACK (R141). -/
  | noticeAck (p : Port)
  /-- NOTICE_REWIND (R142). -/
  | noticeRewind (p : Port)
  /-- NOTICE_QUEUE_EMPTY (R143). -/
  | noticeQueueEmpty (p : Port)
  /-- CONFIG_READ (R175). -/
  | configRead (p : Port)
  /-- CONFIG_WRITE (R176) of a setting without a row of its own. -/
  | configWrite (p : Port)
  /-- CONFIG_WRITE_SUPERVISOR (R173). -/
  | configWriteSupervisor (p : Port)
  /-- CONFIG_WRITE_TIMEBASE (R179). -/
  | configWriteTimebase (p : Port)
  /-- FENCE (R180): the port that sent it. -/
  | fence (p : Port)
  /-- UNFENCE (R181): the port that sent it. -/
  | unfence (p : Port)
  deriving DecidableEq, Repr

end Sys2Proof
end

