-- ==== Sys2Proof/Config.lean ====
section
/-! DEFINITION. The values the spec leaves open: constants without a body, so that nothing can be proved about
which value they have. Each is applied to a number that tells one use from another: the count of resets that
State holds (field fresh), and a word number or a byte address. -/

namespace Sys2Proof

/-- The byte at an address when power comes up, at the given cold reset (R7: unknown values). Log entry 6. -/
opaque Config.powerUpByte (reset : Nat) (address : Nat) : Byte

/-- The condition of a word when power comes up, at the given cold reset (R7). Log entry 6. -/
opaque Config.powerUpCondition (reset : Nat) (word : Nat) : Condition

/-- How many words INIT had written when HRST stopped it (R8). Log entry 6. -/
opaque Config.initProgress (reset : Nat) : Nat

/-- Whether a word that a cut access would have written holds the new value (R9). Log entry 7. -/
opaque Config.cutWritten (reset : Nat) (word : Nat) : Bool

/-- Whether a single-bit-error word that a cut access had read was corrected (R9). Log entry 7. -/
opaque Config.cutCorrected (reset : Nat) (word : Nat) : Bool

/-- Whether the granule of a cut access that met an uncorrectable word joined the poison set (R9). Log entry 7. -/
opaque Config.cutPoisoned (reset : Nat) : Bool

/-- The value, with a valid check code, of an uncorrectable word that a cut access left unwritten (R9 gives the
word its old value, which R1 says cannot be recovered). Log entry 7. -/
opaque Config.cutLostValue (reset : Nat) (word : Nat) : Word

/-- Whether a descriptor that becomes current has its lookahead FETCH handed before the FETCHes of its chunks
(R94, R95 and R113 leave the order open). Log entry 13. -/
opaque Config.lookaheadFirst : Bool

end Sys2Proof
end

