-- ==== Sys2Proof/Machine/State.lean ====
section
/-! DEFINITION. Everything the hub holds, as plain data, and the hub right after cold reset. The blocks' records
come first, then the claims handed between blocks and not yet taken, then State. -/

namespace Sys2Proof.Machine

/-- A refusal of a command. No meaning answers with one. -/
inductive Refusal where
  /-- Raised by exec for a command that has no meaning yet. Safe: the machine stops. -/
  | notModelled (mnemonic : String)
  deriving DecidableEq, Repr

/-- A fault of the machine. The spec names none that stops the hub: every error is an answer, a channel fault
code or a notice, so this type has no constructor and nothing raises a fault. -/
inductive Fault where
  deriving DecidableEq, Repr

/-! ### Handles and requests -/

/-- A lock slot with a generation: the name of one lock entry (R23). -/
structure Handle where
  slot : LockSlot
  gen  : Byte
  deriving DecidableEq, Repr

/-- A lock mode (R24). `priv` is PRIVATE. -/
inductive LockMode where
  | shared
  | exclusive
  | priv
  deriving DecidableEq, Repr

/-- A request whose encoding is sound (Table 10.3, R185), its fields pulled apart. -/
inductive Request where
  | read (addr len : Word) (guard : Option Handle)
  | write (addr len : Word) (data : List Word) (guard : Option Handle)
  | fetchAdd (addr operand : Word) (guard : Option Handle)
  | swap (addr value : Word) (guard : Option Handle)
  | compareSwap (addr expected new : Word) (guard : Option Handle)
  | lock (first count : Nat) (mode : LockMode) (wait : Bool) (limit lease : Nat)
  | unlock (h : Handle)
  | renew (h : Handle) (lease : Nat)
  | adopt (h : Handle)
  | reclaim (h : Handle)
  | forceRelease (k : LockSlot)
  | lockQuery (k : LockSlot)
  | channelStart (chan : Byte) (list : Word) (guard : Option Handle)
  | channelStop (chan : Byte)
  | channelRelease (chan : Byte)
  | channelQuery (chan : Byte)
  | noticeAck (seq : Byte)
  | configRead (n : Byte)
  | configWrite (n : Byte) (v : Half)
  | fence (q : Port)
  | unfence (q : Port)
  deriving DecidableEq, Repr

/-- The status of a response (Table 10.6). -/
inductive Status where
  | ok | granted | queued | malformed | badLength | badAddress | badRange | badChannel | badSetting
  | staleHandle | locked | dataError | poisoned | notOwner | notOrphaned | notSupervisor | notReady | badSequence
  | quota | tableFull | selfConflict | conflict | waitBusy | wouldDeadlock | channelBusy | badStateForLock
  | badChannelState
  deriving DecidableEq, Repr

/-- A response in a response queue (section 10.3): the request's tag and kind byte, the status, the 16-bit
detail where there is one, and the result words. -/
structure Response where
  tag    : BitVec 4
  kind   : Byte
  status : Status
  detail : Option Half
  words  : List Word
  deriving DecidableEq, Repr

/-! ### The Shared Store -/

/-- What a byte or word of the store holds where nothing is listed: zero and clean below word `filled`, where
INIT has written, and the unknown contents of the given cold reset above (R7, R8). -/
structure Background where
  reset  : Nat
  filled : Nat
  deriving DecidableEq, Repr

/-- The Shared Store: its bytes by address and the conditions of its words by word number (R1), each a list in
canonical form over the background. -/
structure Store where
  bytes      : List Host.Cell
  conditions : List (Nat × Condition)
  background : Background
  deriving DecidableEq, Repr

/-! ### Store accesses and the arbiter -/

/-- What a store access does to its words (R52). -/
inductive AccessOp where
  | read (n : Nat)
  | write (data : List Word)
  | fetchAdd (operand : Word)
  | swap (value : Word)
  | compareSwap (expected new : Word)
  deriving DecidableEq, Repr

/-- A store access as presented: its store address, what it does, and the guard it carries. -/
structure StoreAccess where
  addr  : Nat
  op    : AccessOp
  guard : Option Handle
  deriving DecidableEq, Repr

/-- A channel's store access, with the chunk it serves, named by the chunk's store address. -/
structure ChannelAccess where
  chunk  : Nat
  access : StoreAccess
  deriving DecidableEq, Repr

/-- A member of a port's group at the arbiter (R16). -/
inductive Member where
  | dispatcher
  | chan (c : Channel)
  deriving DecidableEq, Repr

/-- R18. -/
inductive PriorityTurn where
  | priority
  | rotation
  deriving DecidableEq, Repr

/-- The class of a lock refusal handed to a channel (R55). -/
inductive RefusalClass where
  | ownPort
  | otherPort
  deriving DecidableEq, Repr

/-- The outcome of a granted access (R11, R122). -/
inductive AccessOutcome where
  | done (data : List Word) (swapped : Option Bool)
  | guardFailed
  | lockRefused (slot : LockSlot) (cls : RefusalClass)
  | dataError
  | poisoned
  deriving DecidableEq, Repr

/-- The access in progress (R17, R19): the port and member granted, the chunk for a channel, the access, and the
entries its lease restart report will name (R60). -/
structure Granted where
  port   : Port
  member : Member
  chunk  : Nat
  access : StoreAccess
  report : List Handle
  deriving DecidableEq, Repr

/-- The Store Access Arbiter (R17, R18) and the channels' accesses at it. -/
structure Arbiter where
  lastPort   : Port
  lastMember : Vector Member 4
  turn       : PriorityTurn
  inProgress : Option Granted
  /-- The waiting access of each channel (R16). -/
  waiting    : Vector (Option ChannelAccess) 8
  /-- The outcome of each channel's last granted access, handed and not yet taken (R122). -/
  outcomes   : Vector (Option (ChannelAccess × AccessOutcome)) 8
  deriving DecidableEq, Repr

/-! ### The Lock Unit -/

/-- The fields that an entry has in WAITING, HELD and ORPHANED (Table 2.1). -/
structure Claim where
  owner      : Port
  mode       : LockMode
  first      : Nat
  count      : Nat
  leaseLen   : Nat
  leaseLeft  : Nat
  deriving DecidableEq, Repr

/-- The state of an entry with the fields present in it (Table 2.1). -/
inductive EntryState where
  | free
  | waiting (c : Claim) (waitLeft : Nat)
  | held (c : Claim)
  | orphaned (c : Claim) (orphanLeft : Nat) (adoptable : Bool)
  deriving DecidableEq, Repr

/-- An entry of the Lock Table (R21). -/
structure LockEntry where
  gen   : Byte
  state : EntryState
  deriving DecidableEq, Repr

/-- The 32 entries (R21). -/
abbrev LockTable := Vector LockEntry 32

/-- The Lock Table and the waiting order (R31). An entry's arrival number is its place in the order. -/
structure LockUnit where
  table : LockTable
  order : List LockSlot
  deriving DecidableEq, Repr

/-- A range of granules: first and count (R21). -/
structure GranuleRange where
  first : Nat
  count : Nat
  deriving DecidableEq, Repr

/-! ### The Channel Engine -/

/-- R89. -/
inductive ChanState where
  | idle | loading | running | stalled | aborting | complete | faulted | stopped
  deriving DecidableEq, Repr

/-- A descriptor's kind (Table 5.4). -/
inductive DescKind where
  | toStore | fromStore | storeCopy | storeFill
  deriving DecidableEq, Repr

/-- A valid descriptor (Table 5.4). -/
structure Descriptor where
  kind       : DescKind
  last       : Bool
  notify     : Bool
  haltOnLock : Bool
  count      : Nat
  store      : Nat
  far        : Word
  deriving DecidableEq, Repr

/-- Channel fault codes (Table 5.5). -/
inductive FaultCode where
  | badDescriptor | listTooLong | masterError | masterTimeout | locked | lockTimeout | selfLocked | guardLost
  | dataError | poisoned | portDown
  deriving DecidableEq, Repr

/-- The next-descriptor field when present (Table 5.1). -/
inductive Lookahead where
  | fetching
  | valid (d : Descriptor)
  | invalid (code : FaultCode)
  deriving DecidableEq, Repr

/-- R112. -/
inductive ChunkState where
  | requested | dataHeld | writing | readDone | storeSent
  deriving DecidableEq, Repr

/-- A chunk record (R112): store address, far part, length, buffer, state. -/
structure Chunk where
  store  : Nat
  far    : Word
  len    : Nat
  buffer : List Word
  state  : ChunkState
  deriving DecidableEq, Repr

/-- The fault record (Table 5.1). -/
structure FaultRecord where
  code  : FaultCode
  index : Nat
  addr  : Option Nat
  deriving DecidableEq, Repr

/-- The stall record (R123), with the refused access that a retry presents again (R124). -/
structure StallRecord where
  granule : Nat
  time    : Nat
  limit   : Nat
  refused : ChannelAccess
  deriving DecidableEq, Repr

/-- R101. -/
inductive EndMode where
  | keep
  | unbind
  deriving DecidableEq, Repr

/-- A channel context (Table 5.1). -/
structure ChannelContext where
  state      : ChanState
  owner      : Option Port
  list       : Option Word
  guard      : Option Handle
  index      : Nat
  current    : Option Descriptor
  next       : Option Lookahead
  position   : Nat
  chunks     : List Chunk
  bytesMoved : Nat
  fault      : Option FaultRecord
  stall      : Option StallRecord
  endMode    : Option EndMode
  deriving DecidableEq, Repr

/-- What a hub request fetches or stores for its channel (R115). -/
inductive Purpose where
  /-- The FETCH of descriptor 0 (R92). -/
  | first
  /-- The FETCH of the lookahead (R95). -/
  | lookahead
  /-- A chunk's FETCH or STORE, the chunk named by its store address. -/
  | chunk (store : Nat)
  deriving DecidableEq, Repr

/-- The packet of a hub request (R158). -/
inductive HubOp where
  | fetch (addr : Word) (len : Nat)
  | store (addr : Word) (data : List Word)
  deriving DecidableEq, Repr

/-- A hub request of a channel (R115). -/
structure HubRequest where
  chan    : Channel
  purpose : Purpose
  op      : HubOp
  deriving DecidableEq, Repr

/-- How a hub request ended (R127). -/
inductive Ending where
  | replyOk (data : List Word)
  | replyFailed
  | timeout
  | dropped
  deriving DecidableEq, Repr

/-- Soft or hard loss (R162). -/
inductive Loss where
  | soft
  | hard
  deriving DecidableEq, Repr

/-- A claim that a Link Controller hands to the Channel Engine (R127, R163). -/
inductive ChannelClaim where
  | ending (req : HubRequest) (how : Ending)
  | portDown (loss : Loss)
  deriving DecidableEq, Repr

/-! ### The Notice Unit -/

/-- Lock causes (section 10.3). -/
inductive LockCause where
  | lease | forced | orphanExpired | waitLimit | portDown
  deriving DecidableEq, Repr

/-- Down causes (R148). -/
inductive DownCause where
  | hubReset | linkLoss | linkError | overrun | tagReuse | portReset | fence
  deriving DecidableEq, Repr

/-- The outcome of a run (R102). -/
inductive RunOutcome where
  | complete
  | faulted (code : FaultCode)
  | stopped
  deriving DecidableEq, Repr

/-- A notice event: kind and detail (Table 7.3). -/
inductive NoticeEvent where
  | lockGranted (h : Handle)
  | lockWaitEnded (h : Handle) (cause : LockCause)
  | lockBroken (h : Handle) (cause : LockCause)
  | lockOrphaned (h : Handle) (former : Port) (adoptable : Bool)
  | lockOrphanReleased (h : Handle) (former : Port) (cause : LockCause)
  | channelMark (c : Channel) (index : Nat)
  | channelEnd (c : Channel) (outcome : RunOutcome) (bytes : Nat)
  | peerDown (q : Port) (cause : DownCause)
  | peerUp (q : Port)
  | storePoison (granule : Nat)
  deriving DecidableEq, Repr

/-- The subject of a notice (R134). -/
inductive Subject where
  | lock (k : LockSlot)
  | channel (c : Channel)
  | peer (q : Port)
  | store
  deriving DecidableEq, Repr

/-- A notice record (Table 7.1): kind and detail, occurrences, and the sequence number of a SENT record; a PENDING
record has none. The subject follows from the kind and detail (R134). -/
structure NoticeRecord where
  event       : NoticeEvent
  occurrences : Nat
  sent        : Option Byte
  deriving DecidableEq, Repr

/-- An event handed for a port. -/
abbrev Handed := Port × NoticeEvent

/-! ### The Link Controllers -/

/-- R148. -/
inductive LinkState where
  | off | down | training | up | fenced
  deriving DecidableEq, Repr

/-- How far the request in service has come (R155, R164): handed to its block, presented to the arbiter, or granted
there. -/
inductive Stage where
  | handed | presented | granted
  deriving DecidableEq, Repr

/-- The request in service: the packet it came in, its contents, its stage and its discard mark (R148). -/
structure Service where
  pkt     : Packet
  req     : Request
  stage   : Stage
  discard : Bool
  deriving DecidableEq, Repr

/-- An outstanding hub request: the timer is present once it has been sent (R158). -/
structure Outstanding where
  req   : HubRequest
  timer : Option Nat
  deriving DecidableEq, Repr

/-- A hub-request slot (R158): free when it holds no request. -/
structure HubSlotState where
  seq  : BitVec 4
  held : Option Outstanding
  deriving DecidableEq, Repr

/-- R157. -/
inductive OutboundTurn where
  | hub
  | other
  deriving DecidableEq, Repr

/-- A Link Controller (Table 8.1). -/
structure LinkController where
  link         : LinkState
  /-- The port reset level: true when PRSTn is asserted. -/
  prst         : Bool
  trainTimer   : Option Nat
  readyTaken   : Option Bool
  slotsAllowed : Nat
  inbound      : List Packet
  /-- The dispatcher: IDLE when none. -/
  service      : Option Service
  responses    : List Response
  heldCount    : Nat
  tags         : List Nat
  slots        : Vector HubSlotState 8
  /-- The slots given and not yet sent, oldest grant first (R157). -/
  unsent       : List HubSlot
  /-- The slot waiting list of each channel (R115). -/
  waiting      : Vector (List HubRequest) 8
  lastServed   : Channel
  turn         : OutboundTurn
  noticeSeq    : Byte
  downCause    : DownCause
  deriving DecidableEq, Repr

/-- The port-down event of a port handed to the Lock Unit, the Notice Unit and the arbiter and not yet taken by
each (step 6 of R163). The Channel Engine's stands among its claims. -/
structure PortDownClaims where
  lock    : Option Loss
  notice  : Option Loss
  arbiter : Bool
  deriving DecidableEq, Repr

/-! ### The Control Unit -/

/-- R182. -/
inductive SeqState where
  | cold | fill | fillHeld | held | run
  deriving DecidableEq, Repr

/-- The writable settings (Table 9.2). -/
structure Settings where
  supervisor      : Port
  timebase        : Half
  priorityPort    : Half
  quota           : Vector Half 4
  waitDefault     : Half
  orphanHold      : Half
  responseTimeout : Half
  stallLimit      : Half
  trainWindow     : Half
  deriving DecidableEq, Repr

/-- The timebase unit in progress (R179): its length and the time elapsed in it, in ticks of 10 µs. -/
structure TimeUnit where
  length  : Nat
  elapsed : Nat
  deriving DecidableEq, Repr

/-! ### The state -/

/-- The state of the hub. -/
structure State where
  /-- The commands that are waiting, first in, first out. -/
  pending       : List Instr
  seqState      : SeqState
  /-- The level of HRST: true when asserted. -/
  hrst          : Bool
  /-- The port number SUPSEL1:0 gives (R171). -/
  straps        : Port
  settings      : Settings
  timebase      : Option TimeUnit
  store         : Store
  /-- The poison set (R4), granules in rising order. -/
  poison        : List Nat
  arbiter       : Arbiter
  locks         : LockUnit
  channels      : Vector ChannelContext 8
  links         : Vector LinkController 4
  notices       : Vector (List NoticeRecord) 4
  /-- Events handed to the Notice Unit and not yet taken, a list for each action that handed some (R137). -/
  events        : List (List Handed)
  /-- Release announcements handed and not yet taken (R36). -/
  announcements : List GranuleRange
  /-- Lease restart reports handed and not yet taken (R60). -/
  reports       : List (List Handle)
  /-- What each Link Controller has handed to the Channel Engine, oldest first (R163). -/
  claims        : Vector (List ChannelClaim) 4
  /-- Port-down events handed and not yet taken. -/
  portDowns     : Vector PortDownClaims 4
  /-- The packets sent on each transmit pair, oldest first (the model's own record of the pins). -/
  tx            : Vector (List Packet) 4
  /-- How many resets have taken free values (the model's own counter). -/
  fresh         : Nat
  deriving DecidableEq, Repr

/-! ### Reset values -/

/-- R20. -/
def Arbiter.reset : Arbiter where
  lastPort := 3
  lastMember := Vector.replicate 4 (.chan 7)
  turn := .priority
  inProgress := none
  waiting := Vector.replicate 8 none
  outcomes := Vector.replicate 8 none

/-- R50. -/
def LockUnit.reset : LockUnit where
  table := Vector.replicate 32 ⟨0#8, .free⟩
  order := []

/-- R110. -/
def ChannelContext.reset : ChannelContext where
  state := .idle
  owner := none
  list := none
  guard := none
  index := 0
  current := none
  next := none
  position := 0
  chunks := []
  bytesMoved := 0
  fault := none
  stall := none
  endMode := none

/-- Table 8.1: OFF where the port reset line is asserted, otherwise DOWN. -/
def LinkController.reset (prst : Bool) : LinkController where
  link := if prst then .off else .down
  prst := prst
  trainTimer := none
  readyTaken := none
  slotsAllowed := 8
  inbound := []
  service := none
  responses := []
  heldCount := 0
  tags := []
  slots := Vector.replicate 8 ⟨0#4, none⟩
  unsent := []
  waiting := Vector.replicate 8 []
  lastServed := 7
  turn := .other
  noticeSeq := 0#8
  downCause := .hubReset

/-- Table 9.2, with SUPERVISOR at the port the straps give (R171). -/
def Settings.reset (straps : Port) : Settings where
  supervisor := straps
  timebase := 2#16
  priorityPort := 4#16
  quota := Vector.replicate 4 8#16
  waitDefault := 2000#16
  orphanHold := 5000#16
  responseTimeout := 20#16
  stallLimit := 500#16
  trainWindow := 100#16

/-- No port-down event waits. -/
def PortDownClaims.none : PortDownClaims := ⟨.none, .none, false⟩

/-- The hub after cold reset, PWROK low: COLD, the store unknown, every block at its value after cold reset
(log entries 1 and 2). -/
def State.reset : State where
  pending := []
  seqState := .cold
  hrst := false
  straps := 0
  settings := Settings.reset 0
  timebase := none
  store := ⟨[], [], ⟨0, 0⟩⟩
  poison := []
  arbiter := Arbiter.reset
  locks := LockUnit.reset
  channels := Vector.replicate 8 ChannelContext.reset
  links := Vector.replicate 4 (LinkController.reset false)
  notices := Vector.replicate 4 []
  events := []
  announcements := []
  reports := []
  claims := Vector.replicate 4 []
  portDowns := Vector.replicate 4 PortDownClaims.none
  tx := Vector.replicate 4 []
  fresh := 1

end Sys2Proof.Machine
end

