-- ==== Sys2Proof/Decode.lean ====
section
/-! DEFINITION. Reading what comes in on a link: requests (section 10.2, R185), handles, guards and transfer
descriptors (R93, R186); and decodeTableWord. The rows of the opcode table have no bits, so no word spells a
command and there is no encoder. -/

namespace Sys2Proof

open Machine

/-- The n bits of a word from bit lo up, as a number. -/
def field (w : Word) (lo n : Nat) : Nat := (w.extractLsb' lo n).toNat

/-- No bit of a word outside the mask is set (fault 5 of R185). -/
def within (w mask : Word) : Bool := (w &&& ~~~mask) == 0#32

/-- The handle in bits 15 to 0 of a word (section 10.2). -/
def handleOf (w : Word) : Handle := ⟨Fin.ofNat 32 (field w 0 5), w.extractLsb' 8 8⟩

/-- A payload word that is a handle alone: bits 31 to 16 and 7 to 5 zero. -/
def decodeHandle (w : Word) : Option Handle := if within w 0x0000FF1F#32 then some (handleOf w) else none

/-- A payload with its guard taken off, for a kind that allows one. The flags byte is 0 or 1 (R185). -/
def splitGuard (flags : Byte) (payload : List Word) : Option (List Word × Option Handle) :=
  if flags = 0#8 then some (payload, none)
  else match payload.getLast? with
    | none => none
    | some g => match decodeHandle g with
      | none => none
      | some h => some (payload.dropLast, some h)

/-- The payload of a kind that allows no guard. -/
def unguarded (flags : Byte) (payload : List Word) : Option (List Word) :=
  if flags = 0#8 then some payload else none

/-- A LOCK mode field (Table 10.3). -/
def decodeMode : Nat → Option LockMode
  | 0 => some .shared
  | 1 => some .exclusive
  | 2 => some .priv
  | _ => none

/-- READ: store address, length, guard allowed. -/
def decodeRead (flags : Byte) (payload : List Word) : Option Request :=
  match splitGuard flags payload with
  | some ([a, len], g) => some (.read a len g)
  | _ => none

/-- WRITE: store address, length, data words whose bytes are the length; guard allowed. The count of data words
is not limited here: a length of 0 or above 64 is BAD_LENGTH (R185; log entry 28). -/
def decodeWrite (flags : Byte) (payload : List Word) : Option Request :=
  match splitGuard flags payload with
  | some (a :: len :: data, g) => if 4 * data.length = len.toNat then some (.write a len data g) else none
  | _ => none

/-- FETCH_ADD: store address, operand. -/
def decodeFetchAdd (flags : Byte) (payload : List Word) : Option Request :=
  match splitGuard flags payload with
  | some ([a, v], g) => some (.fetchAdd a v g)
  | _ => none

/-- SWAP: store address, value. -/
def decodeSwap (flags : Byte) (payload : List Word) : Option Request :=
  match splitGuard flags payload with
  | some ([a, v], g) => some (.swap a v g)
  | _ => none

/-- COMPARE_SWAP: store address, expected value, new value. -/
def decodeCompareSwap (flags : Byte) (payload : List Word) : Option Request :=
  match splitGuard flags payload with
  | some ([a, e, n], g) => some (.compareSwap a e n g)
  | _ => none

/-- LOCK: first granule, count, mode and wait in word 0; wait limit and lease in word 1. -/
def decodeLock (flags : Byte) (payload : List Word) : Option Request :=
  match unguarded flags payload with
  | some [w, t] =>
    if within w 0x137F0FFF#32 then
      match decodeMode (field w 24 2) with
      | some m => some (.lock (field w 0 12) (field w 16 7) m (field w 28 1 == 1) (field t 0 16) (field t 16 16))
      | none => none
    else none
  | _ => none

/-- A request whose one word is a handle. -/
def decodeHandleRequest (f : Handle → Request) (flags : Byte) (payload : List Word) : Option Request :=
  match unguarded flags payload with
  | some [w] => (decodeHandle w).map f
  | _ => none

/-- RENEW: handle and new lease. -/
def decodeRenew (flags : Byte) (payload : List Word) : Option Request :=
  match unguarded flags payload with
  | some [w] => if within w 0xFFFFFF1F#32 then some (.renew (handleOf w) (field w 16 16)) else none
  | _ => none

/-- A request whose one word has a single field in bits 7 to 0. -/
def decodeByteRequest (f : Byte → Option Request) (flags : Byte) (payload : List Word) : Option Request :=
  match unguarded flags payload with
  | some [w] => if within w 0x000000FF#32 then f (w.extractLsb' 0 8) else none
  | _ => none

/-- A lock slot of a FORCE_RELEASE or LOCK_QUERY: above 31 it is a fault of encoding (R185). -/
def decodeSlot (f : LockSlot → Request) (b : Byte) : Option Request :=
  if b.toNat ≤ 31 then some (f (Fin.ofNat 32 b.toNat)) else none

/-- A port of a FENCE or UNFENCE: above 3 it is a fault of encoding (R185). -/
def decodePort (f : Port → Request) (b : Byte) : Option Request :=
  if b.toNat ≤ 3 then some (f (Fin.ofNat 4 b.toNat)) else none

/-- CHANNEL_START: channel, list address, guard allowed. -/
def decodeChannelStart (flags : Byte) (payload : List Word) : Option Request :=
  match splitGuard flags payload with
  | some ([c, l], g) => if within c 0x000000FF#32 then some (.channelStart (c.extractLsb' 0 8) l g) else none
  | _ => none

/-- CONFIG_WRITE: setting number and value. -/
def decodeConfigWrite (flags : Byte) (payload : List Word) : Option Request :=
  match unguarded flags payload with
  | some [w] => if within w 0xFFFF00FF#32 then some (.configWrite (w.extractLsb' 0 8) (w.extractLsb' 16 16)) else none
  | _ => none

/-- The payload of a request by its kind byte (Tables 10.2 and 10.3). -/
def decodePayload (kind : Nat) (flags : Byte) (payload : List Word) : Option Request :=
  match kind with
  | 0x01 => decodeRead flags payload
  | 0x02 => decodeWrite flags payload
  | 0x03 => decodeFetchAdd flags payload
  | 0x04 => decodeSwap flags payload
  | 0x05 => decodeCompareSwap flags payload
  | 0x08 => decodeLock flags payload
  | 0x09 => decodeHandleRequest .unlock flags payload
  | 0x0A => decodeRenew flags payload
  | 0x0B => decodeHandleRequest .adopt flags payload
  | 0x0C => decodeHandleRequest .reclaim flags payload
  | 0x0D => decodeByteRequest (decodeSlot .forceRelease) flags payload
  | 0x0E => decodeByteRequest (decodeSlot .lockQuery) flags payload
  | 0x10 => decodeChannelStart flags payload
  | 0x11 => decodeByteRequest (fun b => some (.channelStop b)) flags payload
  | 0x12 => decodeByteRequest (fun b => some (.channelRelease b)) flags payload
  | 0x13 => decodeByteRequest (fun b => some (.channelQuery b)) flags payload
  | 0x18 => decodeByteRequest (fun b => some (.noticeAck b)) flags payload
  | 0x19 => decodeByteRequest (fun b => some (.configRead b)) flags payload
  | 0x1A => decodeConfigWrite flags payload
  | 0x1B => decodeByteRequest (decodePort .fence) flags payload
  | 0x1C => decodeByteRequest (decodePort .unfence) flags payload
  | _ => none

/-- The dispatcher's encoding check (R185): the request a packet spells, or none where it is MALFORMED. -/
def decodeRequest (pkt : Packet) : Option Request :=
  if 16 ≤ pkt.tag.toNat ∨ 2 ≤ pkt.flags.toNat then none
  else decodePayload pkt.kind.toNat pkt.flags pkt.payload

/-- A descriptor kind (Table 10.7). -/
def decodeKind : Nat → Option DescKind
  | 0 => some .toStore
  | 1 => some .fromStore
  | 2 => some .storeCopy
  | 3 => some .storeFill
  | _ => none

/-- The far field's condition by kind (conditions 4 to 6 of R93). -/
def farValid (k : DescKind) (far count : Nat) : Bool :=
  match k with
  | .toStore | .fromStore => far % 4 == 0 && decide (far + count - 1 ≤ 0xFFFFFFFF)
  | .storeCopy => far % 4 == 0 && decide (far + count - 1 ≤ 0x3FFFF)
  | .storeFill => true

/-- Conditions 1 to 7 of R93 on the fields of a descriptor whose kind is known. -/
def descriptorValid (k : DescKind) (flags count store far lastWord : Nat) : Bool :=
  decide (flags < 8) && decide (4 ≤ count) && decide (count ≤ 65532) && count % 4 == 0
    && store % 4 == 0 && decide (store + count - 1 ≤ 0x3FFFF) && farValid k far count && lastWord == 0

/-- The descriptor that four fetched words hold (Table 10.7, R186), or none where it is invalid (R93). -/
def decodeDescriptor (ws : List Word) : Option Descriptor :=
  match ws with
  | [w0, w1, w2, w3] =>
    match decodeKind (field w0 0 8) with
    | some k =>
      if descriptorValid k (field w0 8 8) (field w0 16 16) w1.toNat w2.toNat w3.toNat then
        some { kind := k, last := w0.getLsbD 8, notify := w0.getLsbD 9, haltOnLock := w0.getLsbD 10,
               count := field w0 16 16, store := w1.toNat, far := w2 }
      else none
    | none => none
  | _ => none

/-- The command that a word of the opcode table spells: the table gives no row bits, so no word spells one. -/
def decodeTableWord (_nbits _w : Nat) : Option Instr := none

end Sys2Proof
end

