-- ==== Sys2Proof/Machine/Ops.lean ====
section
/-! DEFINITION. The named operations that every block's meanings are written with: sparse memory in canonical
form, sets, cyclic orders, the store's words, and reading and updating one part of State. -/

namespace Sys2Proof.Machine

/-! ### Sparse data over a background -/

/-- What the list holds at an address, or the background where it lists nothing. -/
def cellsRead {α : Type} (bg : Nat → α) : List (Nat × α) → Nat → α
  | [], a => bg a
  | (k, v) :: rest, a => if a = k then v else cellsRead bg rest a

/-- The list with a new value at an address: addresses rising, no entry equal to the background. -/
def cellsWrite {α : Type} [DecidableEq α] (bg : Nat → α) : List (Nat × α) → Nat → α → List (Nat × α)
  | [], a, v => if v = bg a then [] else [(a, v)]
  | (k, u) :: rest, a, v =>
    if a < k then (if v = bg a then (k, u) :: rest else (a, v) :: (k, u) :: rest)
    else if a = k then (if v = bg a then rest else (a, v) :: rest)
    else (k, u) :: cellsWrite bg rest a v

/-- Every entry's address is above the given one (a bound that starts the check of rising addresses). -/
def cellsRising {α : Type} : List (Nat × α) → Bool
  | [] => true
  | (k, _) :: rest => rest.all (fun e => decide (k < e.1)) && cellsRising rest

/-- The canonical form: addresses strictly rising and no entry equal to the background. -/
def cellsWf {α : Type} [DecidableEq α] (bg : Nat → α) (l : List (Nat × α)) : Bool :=
  cellsRising l && l.all (fun e => decide (e.2 ≠ bg e.1))

/-! ### Sets of numbers, in rising order -/

/-- The set with a number put in. -/
def setInsert (n : Nat) : List Nat → List Nat
  | [] => [n]
  | k :: rest => if n < k then n :: k :: rest else if n = k then k :: rest else k :: setInsert n rest

/-- The set with a number taken out. -/
def setErase (n : Nat) (l : List Nat) : List Nat := l.filter (fun k => k != n)

/-- The canonical form of a set: strictly rising. -/
def setRising : List Nat → Bool
  | [] => true
  | k :: rest => rest.all (fun j => decide (k < j)) && setRising rest

/-! ### Cyclic orders -/

/-- The members of a cyclic order from the one after `last` round to `last` itself (R17, R116). -/
def cyclicAfter {α : Type} [DecidableEq α] (order : List α) (last : α) : List α :=
  (order.dropWhile (fun x => decide (x ≠ last))).drop 1 ++ order.takeWhile (fun x => decide (x ≠ last)) ++ [last]

/-- All ports in order. -/
def allPorts : List Port := [0, 1, 2, 3]

/-- All channels in order. -/
def allChannels : List Channel := [0, 1, 2, 3, 4, 5, 6, 7]

/-- All hub-request slots in order. -/
def allHubSlots : List HubSlot := [0, 1, 2, 3, 4, 5, 6, 7]

/-- All lock slots in order. -/
def allLockSlots : List LockSlot := List.finRange 32

/-- The members of a port's group in order (R17). -/
def allMembers : List Member := .dispatcher :: allChannels.map .chan

/-- A vector with a function applied to every place. -/
def mapVector {α : Type} {n : Nat} (f : α → α) (v : Vector α n) : Vector α n :=
  ⟨⟨v.toList.map f⟩, by simp⟩

/-! ### The Shared Store -/

/-- A store byte where nothing is listed (R7, R8). -/
def Background.byte (b : Background) (a : Nat) : Byte :=
  if a / 4 < b.filled then 0#8 else Config.powerUpByte b.reset a

/-- A word's condition where nothing is listed (R7, R8). -/
def Background.condition (b : Background) (w : Nat) : Condition :=
  if w < b.filled then .clean else Config.powerUpCondition b.reset w

/-- The byte at a store address. -/
def Store.byte (st : Store) (a : Nat) : Byte := cellsRead st.background.byte st.bytes a

/-- The value of word w: the byte at 4×w+k is its bits 8k+7 to 8k (ch10). -/
def Store.word (st : Store) (w : Nat) : Word :=
  st.byte (4 * w + 3) ++ st.byte (4 * w + 2) ++ st.byte (4 * w + 1) ++ st.byte (4 * w)

/-- The condition of word w (R1). -/
def Store.condition (st : Store) (w : Nat) : Condition := cellsRead st.background.condition st.conditions w

/-- The store with one byte written. -/
def Store.writeByte (st : Store) (a : Nat) (b : Byte) : Store :=
  { st with bytes := cellsWrite st.background.byte st.bytes a b }

/-- The store with a word's condition set. -/
def Store.setCondition (st : Store) (w : Nat) (c : Condition) : Store :=
  { st with conditions := cellsWrite st.background.condition st.conditions w c }

/-- The store with the value of word w written, its condition left. -/
def Store.setValue (st : Store) (w : Nat) (v : Word) : Store :=
  (((st.writeByte (4 * w) (v.extractLsb' 0 8)).writeByte (4 * w + 1) (v.extractLsb' 8 8)).writeByte (4 * w + 2)
    (v.extractLsb' 16 8)).writeByte (4 * w + 3) (v.extractLsb' 24 8)

/-- An access writes word w: the new value with a fresh check code (R3). -/
def Store.writeWord (st : Store) (w : Nat) (v : Word) : Store := (st.setValue w v).setCondition w .clean

/-- An access writes consecutive words from word w up (R13). -/
def Store.writeWords (st : Store) (w : Nat) : List Word → Store
  | [] => st
  | v :: rest => (st.writeWord w v).writeWords (w + 1) rest

/-- An access reads word w: a single-bit error is corrected and written back (R2). -/
def Store.correct (st : Store) (w : Nat) : Store :=
  match st.condition w with
  | .clean => st
  | .singleBit => st.setCondition w .clean
  | .uncorrectable => st

/-- The n words from word w up, in ascending order (R12). -/
def Store.words (st : Store) (w : Nat) : Nat → List Word
  | 0 => []
  | n + 1 => st.word w :: st.words (w + 1) n

/-- Every single-bit-error word among n words from w up is corrected (R2). -/
def Store.correctAll (st : Store) (w : Nat) : Nat → Store
  | 0 => st
  | n + 1 => (st.correct w).correctAll (w + 1) n

/-- Some word among n words from w up is uncorrectable (R2). -/
def Store.anyUncorrectable (st : Store) (w : Nat) : Nat → Bool
  | 0 => false
  | n + 1 => decide (st.condition w = .uncorrectable) || st.anyUncorrectable (w + 1) n

/-- Both lists of the store are in canonical form and lie inside the store (R1). -/
def Store.wf (st : Store) : Bool :=
  cellsWf st.background.byte st.bytes && st.bytes.all (fun e => decide (e.1 < 0x40000))
    && cellsWf st.background.condition st.conditions && st.conditions.all (fun e => decide (e.1 < 0x10000))

/-- The poison set as a canonical set of granule numbers (R4). -/
def poisonWf (l : List Nat) : Bool := setRising l && l.all (fun g => decide (g < 4096))

/-- The granule of a store address. -/
def granuleOf (addr : Nat) : Nat := addr / 64

/-! ### Parts of State -/

/-- LCn. -/
def State.link (s : State) (p : Port) : LinkController := s.links[p]

/-- A channel's context. -/
def State.chan (s : State) (c : Channel) : ChannelContext := s.channels[c]

/-- A port's notice queue. -/
def State.queue (s : State) (p : Port) : List NoticeRecord := s.notices[p]

/-- What LCp has handed to the Channel Engine. -/
def State.claimsOf (s : State) (p : Port) : List ChannelClaim := s.claims[p]

/-- The port-down event of port p still to be taken. -/
def State.portDown (s : State) (p : Port) : PortDownClaims := s.portDowns[p]

/-- The packets sent to port p's master. -/
def State.sentTo (s : State) (p : Port) : List Packet := s.tx[p]

/-- The port that holds the supervisor role (R170). -/
def State.supervisor (s : State) : Port := s.settings.supervisor

/-- HUBRDY is high in RUN alone (R182). -/
def State.hubrdy (s : State) : Bool := decide (s.seqState = .run)

/-- PWROK is low in COLD alone (R182). -/
def State.pwrok (s : State) : Bool := decide (s.seqState ≠ .cold)

def State.setLink (s : State) (p : Port) (lc : LinkController) : State := { s with links := s.links.set p lc }

def State.setChan (s : State) (c : Channel) (ctx : ChannelContext) : State := { s with channels := s.channels.set c ctx }

def State.setQueue (s : State) (p : Port) (q : List NoticeRecord) : State := { s with notices := s.notices.set p q }

def State.setClaims (s : State) (p : Port) (l : List ChannelClaim) : State := { s with claims := s.claims.set p l }

def State.setPortDown (s : State) (p : Port) (d : PortDownClaims) : State := { s with portDowns := s.portDowns.set p d }

def State.setArbiter (s : State) (a : Arbiter) : State := { s with arbiter := a }

def State.setLocks (s : State) (u : LockUnit) : State := { s with locks := u }

def State.setStore (s : State) (st : Store) : State := { s with store := st }

def State.setPoison (s : State) (l : List Nat) : State := { s with poison := l }

def State.setSettings (s : State) (t : Settings) : State := { s with settings := t }

/-- A packet goes out on port p's transmit pair. -/
def State.send (s : State) (p : Port) (pkt : Packet) : State := { s with tx := s.tx.set p (s.tx[p] ++ [pkt]) }

/-- One action's events are handed to the Notice Unit, in order (R137). -/
def State.hand (s : State) (l : List Handed) : State :=
  { s with events := if l = [] then s.events else s.events ++ [l] }

/-- Release announcements are handed to the Channel Engine (R36). -/
def State.announce (s : State) (l : List GranuleRange) : State := { s with announcements := s.announcements ++ l }

/-- A lease restart report is handed to the Lock Unit; one that names no entry is not (R60). -/
def State.report (s : State) (l : List Handle) : State :=
  { s with reports := if l = [] then s.reports else s.reports ++ [l] }

/-- A claim is handed to the Channel Engine by LCp (R163). -/
def State.claim (s : State) (p : Port) (cl : ChannelClaim) : State := s.setClaims p (s.claimsOf p ++ [cl])

/-- A channel's waiting access at the arbiter, if any (R16). -/
def State.waitingAccess (s : State) (c : Channel) : Option ChannelAccess := s.arbiter.waiting[c]

/-- A channel's access outcome handed and not yet taken, if any (R122). -/
def State.outcomeOf (s : State) (c : Channel) : Option (ChannelAccess × AccessOutcome) := s.arbiter.outcomes[c]

/-- A channel presents an access, or withdraws it (R16). -/
def State.setWaiting (s : State) (c : Channel) (a : Option ChannelAccess) : State :=
  { s with arbiter := { s.arbiter with waiting := s.arbiter.waiting.set c a } }

/-- The arbiter hands a channel an outcome, or the channel takes it. -/
def State.setOutcome (s : State) (c : Channel) (o : Option (ChannelAccess × AccessOutcome)) : State :=
  { s with arbiter := { s.arbiter with outcomes := s.arbiter.outcomes.set c o } }

end Sys2Proof.Machine
end

