-- ==== Sys2Proof/Machine/Operands.lean ====
section
/-! DEFINITION. What the operands of requests and accesses name, and the checks made on them: lock entries and
handles, conflict of ranges and modes, the lock, guard and poison checks of an access, and the dispatcher's
length and address checks. -/

namespace Sys2Proof.Machine

/-! ### Lock entries -/

/-- The fields present in WAITING, HELD and ORPHANED (R21). -/
def EntryState.claim? : EntryState → Option Claim
  | .free => none
  | .waiting c _ => some c
  | .held c => some c
  | .orphaned c _ _ => some c

/-- The claim of an entry in HELD or ORPHANED state. -/
def EntryState.standing? : EntryState → Option Claim
  | .free => none
  | .waiting _ _ => none
  | .held c => some c
  | .orphaned c _ _ => some c

/-- The claim of an entry in WAITING state. -/
def EntryState.waiting? : EntryState → Option Claim
  | .free => none
  | .waiting c _ => some c
  | .held _ => none
  | .orphaned _ _ _ => none

/-- The claim of an entry in HELD state. -/
def EntryState.held? : EntryState → Option Claim
  | .free => none
  | .waiting _ _ => none
  | .held c => some c
  | .orphaned _ _ _ => none

/-- The granule lies in the entry's range (R21). -/
def Claim.covers (c : Claim) (g : Nat) : Bool := decide (c.first ≤ g) && decide (g < c.first + c.count)

/-- The entry's range. -/
def Claim.range (c : Claim) : GranuleRange := ⟨c.first, c.count⟩

/-- Two ranges share a granule. -/
def rangesMeet (f₁ n₁ f₂ n₂ : Nat) : Bool := decide (f₁ < f₂ + n₂) && decide (f₂ < f₁ + n₁)

/-- Two entries conflict (R24): by range and mode alone. -/
def Claim.conflicts (a b : Claim) : Bool :=
  rangesMeet a.first a.count b.first b.count && !(decide (a.mode = .shared) && decide (b.mode = .shared))

/-- The entry in a slot. -/
def LockUnit.entry (u : LockUnit) (k : LockSlot) : LockEntry := u.table[k]

/-- The Lock Unit with the entry of a slot replaced. -/
def LockUnit.setEntry (u : LockUnit) (k : LockSlot) (e : LockEntry) : LockUnit := { u with table := u.table.set k e }

/-- The handle that names the entry in a slot now. -/
def LockUnit.handleAt (u : LockUnit) (k : LockSlot) : Handle := ⟨k, (u.entry k).gen⟩

/-- The state of the entry a handle names when it is honoured: outside FREE, same generation (R23). -/
def LockUnit.honoured (u : LockUnit) (h : Handle) : Option EntryState :=
  if (u.entry h.slot).gen = h.gen ∧ (u.entry h.slot).state ≠ .free then some (u.entry h.slot).state else none

/-- The entries a port owns, by slot (R25). -/
def LockUnit.ownedBy (u : LockUnit) (p : Port) : List LockSlot :=
  allLockSlots.filter fun k => match (u.entry k).state.claim? with
    | some c => decide (c.owner = p)
    | none => false

/-- The entries outside FREE (R25, LOCKS_IN_USE). -/
def LockUnit.inUse (u : LockUnit) : List LockSlot :=
  allLockSlots.filter fun k => (u.entry k).state.claim?.isSome

/-- The slot of a port's WAITING entry, if it owns one (R21). -/
def LockUnit.waitingOf (u : LockUnit) (p : Port) : Option LockSlot :=
  allLockSlots.find? fun k => match (u.entry k).state.waiting? with
    | some c => decide (c.owner = p)
    | none => false

/-- The slots of the HELD entries of a port, ascending. -/
def LockUnit.heldBy (u : LockUnit) (p : Port) : List LockSlot :=
  allLockSlots.filter fun k => match (u.entry k).state.held? with
    | some c => decide (c.owner = p)
    | none => false

/-- The slots whose entries, outside FREE, conflict with a request and whose owner passes a test. -/
def LockUnit.conflicting (u : LockUnit) (r : Claim) (own : Port → Bool) : List LockSlot :=
  allLockSlots.filter fun k => match (u.entry k).state.claim? with
    | some c => own c.owner && c.conflicts r
    | none => false

/-- An entry's position in the waiting order, 1 for the oldest (R31). -/
def LockUnit.arrival (u : LockUnit) (k : LockSlot) : Option Nat := (u.order.idxOf? k).map (· + 1)

/-! ### The checks at a grant -/

/-- An atomic is a write for the lock check whatever its outcome (R52). -/
def AccessOp.isWrite : AccessOp → Bool
  | .read _ => false
  | .write _ => true
  | .fetchAdd _ => true
  | .swap _ => true
  | .compareSwap _ _ => true

/-- How many words an access touches. -/
def AccessOp.count : AccessOp → Nat
  | .read n => n
  | .write data => data.length
  | .fetchAdd _ => 1
  | .swap _ => 1
  | .compareSwap _ _ => 1

/-- A granule's guard check (R57): honoured, HELD, owned by the requesting port. -/
def LockUnit.guardHolds (u : LockUnit) (p : Port) (h : Handle) : Bool :=
  match u.honoured h with
  | some (.held c) => decide (c.owner = p)
  | _ => false

/-- One covering entry refuses an access by port p (Table 3.2). -/
def EntryState.refuses (e : EntryState) (p : Port) (isWrite : Bool) : Bool :=
  match e with
  | .free => false
  | .waiting _ _ => false
  | .held c =>
    match c.mode with
    | .shared => isWrite
    | .exclusive => isWrite && decide (c.owner ≠ p)
    | .priv => decide (c.owner ≠ p)
  | .orphaned c _ _ =>
    match c.mode with
    | .shared => isWrite
    | .exclusive => isWrite
    | .priv => true

/-- The slots whose entries cover granule g and refuse the access, ascending (R53, R54). -/
def LockUnit.refusers (u : LockUnit) (p : Port) (g : Nat) (isWrite : Bool) : List LockSlot :=
  allLockSlots.filter fun k => match (u.entry k).state.standing? with
    | some c => c.covers g && (u.entry k).state.refuses p isWrite
    | none => false

/-- The entry in a slot names the port in its owner field. -/
def LockUnit.ownerIs (u : LockUnit) (p : Port) (k : LockSlot) : Bool :=
  match (u.entry k).state.claim? with
  | some c => decide (c.owner = p)
  | none => false

/-- The class of a refusal (R55): OWN_PORT when some refusing entry names the port. -/
def LockUnit.refusalClass (u : LockUnit) (p : Port) (refusing : List LockSlot) : RefusalClass :=
  if refusing.any (u.ownerIs p) then .ownPort else .otherPort

/-- An access writes all 64 bytes of a granule (R5, R6). -/
def StoreAccess.fullGranule (a : StoreAccess) : Bool :=
  match a.op with
  | .write data => data.length == 16 && a.addr % 64 == 0
  | .read _ => false
  | .fetchAdd _ => false
  | .swap _ => false
  | .compareSwap _ _ => false

/-- The refusal of the poison check (Table 1.1), if any. -/
def poisonCheck (poison : List Nat) (a : StoreAccess) : Option AccessOutcome :=
  if granuleOf a.addr ∈ poison then
    if a.op.isWrite then (if a.fullGranule then none else some .poisoned) else some .dataError
  else none

/-- The lock check's refusal (R53 to R55), if any: the lowest-numbered refusing slot and the class. -/
def lockCheck (u : LockUnit) (p : Port) (a : StoreAccess) : Option AccessOutcome :=
  match u.refusers p (granuleOf a.addr) a.op.isWrite with
  | [] => none
  | k :: rest => some (.lockRefused k (u.refusalClass p (k :: rest)))

/-- The guard check's refusal (R57, R58), if any. -/
def guardCheck (u : LockUnit) (p : Port) (a : StoreAccess) : Option AccessOutcome :=
  match a.guard with
  | none => none
  | some h => if u.guardHolds p h then none else some .guardFailed

/-- The checks made at a grant, in order: guard, lock, poison (Table 1.2). -/
def grantCheck (u : LockUnit) (poison : List Nat) (p : Port) (a : StoreAccess) : Option AccessOutcome :=
  (guardCheck u p a).or ((lockCheck u p a).or (poisonCheck poison a))

/-- The entries a successful access's lease restart report names (R60): the HELD leased entries of the port that
cover the granule, and the guard's entry, once. -/
def leaseReport (u : LockUnit) (p : Port) (a : StoreAccess) : List Handle :=
  let covering := (allLockSlots.filter fun k => match (u.entry k).state.held? with
    | some c => decide (c.owner = p) && c.covers (granuleOf a.addr) && decide (c.leaseLen ≠ 0)
    | none => false).map u.handleAt
  match a.guard with
  | none => covering
  | some h => if h ∈ covering then covering else covering ++ [h]

/-! ### The dispatcher's checks -/

/-- Length (check 1 of R10): 4 to 64 and a multiple of 4. -/
def lengthOk (len : Word) : Bool := decide (4 ≤ len.toNat) && decide (len.toNat ≤ 64) && len.toNat % 4 == 0

/-- Address (check 2 of R10): 4-aligned, in the store, and all the bytes in one granule. -/
def addressOk (addr : Word) (len : Nat) : Bool :=
  addr.toNat % 4 == 0 && decide (addr.toNat ≤ 0x3FFFF)
    && granuleOf (addr.toNat + len - 1) == granuleOf addr.toNat

/-- The store access a direct request asks for, with its length where it carries one (R10). -/
def Request.access? : Request → Option (StoreAccess × Option Word)
  | .read a len g => some (⟨a.toNat, .read (len.toNat / 4), g⟩, some len)
  | .write a len data g => some (⟨a.toNat, .write data, g⟩, some len)
  | .fetchAdd a v g => some (⟨a.toNat, .fetchAdd v, g⟩, none)
  | .swap a v g => some (⟨a.toNat, .swap v, g⟩, none)
  | .compareSwap a e n g => some (⟨a.toNat, .compareSwap e n, g⟩, none)
  | _ => none

/-- The first of R10's checks that a direct request fails, with the address word it carries. -/
def directCheck (addr : Word) (len : Option Word) : Option Status :=
  match len with
  | some l => if lengthOk l then (if addressOk addr l.toNat then none else some .badAddress) else some .badLength
  | none => if addressOk addr 4 then none else some .badAddress

end Sys2Proof.Machine
end

