-- ==== Sys2Proof/Machine/Flags.lean ====
section
/-! DEFINITION. The codes of chapter 10 and the packets, details and report words made of them. -/

namespace Sys2Proof.Machine

/-! ### Codes -/

/-- Table 10.6. -/
def Status.code : Status → Byte
  | .ok => 0x00#8
  | .granted => 0x01#8
  | .queued => 0x02#8
  | .malformed => 0x03#8
  | .badLength => 0x04#8
  | .badAddress => 0x05#8
  | .badRange => 0x06#8
  | .badChannel => 0x07#8
  | .badSetting => 0x08#8
  | .staleHandle => 0x0A#8
  | .locked => 0x0B#8
  | .dataError => 0x0C#8
  | .poisoned => 0x0D#8
  | .notOwner => 0x0E#8
  | .notOrphaned => 0x0F#8
  | .notSupervisor => 0x10#8
  | .notReady => 0x11#8
  | .badSequence => 0x12#8
  | .quota => 0x14#8
  | .tableFull => 0x15#8
  | .selfConflict => 0x16#8
  | .conflict => 0x17#8
  | .waitBusy => 0x18#8
  | .wouldDeadlock => 0x19#8
  | .channelBusy => 0x1A#8
  | .badStateForLock => 0x1B#8
  | .badChannelState => 0x1C#8

/-- Lock causes (section 10.3). -/
def LockCause.code : LockCause → Nat
  | .lease => 1
  | .forced => 2
  | .orphanExpired => 3
  | .waitLimit => 4
  | .portDown => 5

/-- Down causes (section 10.3). -/
def DownCause.code : DownCause → Nat
  | .hubReset => 0
  | .linkLoss => 1
  | .linkError => 2
  | .overrun => 3
  | .tagReuse => 4
  | .portReset => 5
  | .fence => 6

/-- Channel fault codes (section 10.3). -/
def FaultCode.code : FaultCode → Nat
  | .badDescriptor => 1
  | .listTooLong => 2
  | .masterError => 3
  | .masterTimeout => 4
  | .locked => 5
  | .lockTimeout => 6
  | .selfLocked => 7
  | .guardLost => 8
  | .dataError => 9
  | .poisoned => 10
  | .portDown => 11

/-- Mode field values (Table 10.3). -/
def LockMode.code : LockMode → Nat
  | .shared => 0
  | .exclusive => 1
  | .priv => 2

/-- Channel state values (Table 10.5). -/
def ChanState.code : ChanState → Nat
  | .idle => 0
  | .loading => 1
  | .running => 2
  | .stalled => 3
  | .aborting => 4
  | .complete => 5
  | .faulted => 6
  | .stopped => 7

/-- LINK_STATE_Pn values (Table 9.2). -/
def LinkState.code : LinkState → Nat
  | .off => 0
  | .down => 1
  | .training => 2
  | .up => 3
  | .fenced => 4

/-! ### Words -/

/-- A word with a number laid in its bits from `lo` up. Words are put together with OR. -/
def lay (lo v : Nat) : Word := BitVec.ofNat 32 v <<< lo

/-- A flag in one bit of a word. -/
def layBit (lo : Nat) (b : Bool) : Word := lay lo b.toNat

/-- A handle as its 16 bits: slot in bits 4 to 0, generation in bits 15 to 8 (section 10.2). -/
def Handle.encode (h : Handle) : Half := h.gen ++ BitVec.ofNat 8 h.slot.val

/-- A handle in bits 15 to 0 of a word. -/
def layHandle (h : Handle) : Word := h.encode.setWidth 32

/-- A slot as a response detail (section 10.3). -/
def slotDetail (k : LockSlot) : Option Half := some (BitVec.ofNat 16 k.val)

/-! ### Responses -/

/-- The response to a request packet: its tag, its kind byte, the answer (section 10.3). -/
def respond (pkt : Packet) (st : Status) (detail : Option Half) (words : List Word) : Response :=
  ⟨pkt.tag.setWidth 4, pkt.kind, st, detail, words⟩

/-- Word 0 of a response. -/
def Response.word0 (r : Response) : Word :=
  (r.detail.getD 0xFFFF#16) ++ r.kind ++ r.status.code

/-- The response as a packet. -/
def Response.packet (r : Response) : Packet := ⟨0x40#8, r.tag.setWidth 8, 0#8, r.word0 :: r.words⟩

/-! ### Reports -/

/-- The four words of the lock entry report (Table 10.5), the arrival number given. -/
def lockReport (e : LockEntry) (arrival : Option Nat) : List Word :=
  let common (code : Nat) (c : Claim) (flags : Nat) : Word :=
    lay 0 code ||| lay 2 c.owner.val ||| lay 4 c.mode.code ||| lay 8 e.gen.toNat ||| lay 24 flags
  let rangeWord (c : Claim) : Word := lay 0 c.first ||| lay 16 c.count
  let leaseWord (c : Claim) : Word := lay 0 c.leaseLen ||| lay 16 c.leaseLeft
  match e.state with
  | .free => [lay 8 e.gen.toNat, 0#32, 0#32, 0#32]
  | .waiting c left => [common 1 c 7 ||| lay 16 (arrival.getD 0), rangeWord c, leaseWord c, lay 0 left]
  | .held c => [common 2 c 1, rangeWord c, leaseWord c, 0#32]
  | .orphaned c left ad => [common 3 c 9 ||| layBit 6 ad, rangeWord c, leaseWord c, lay 16 left]

/-- The three words of the channel report (Table 10.5); an absent field reads as zero (log entry 34). -/
def channelReport (ctx : ChannelContext) : List Word :=
  let ownerBits : Word := match ctx.owner with
    | none => 0#32
    | some p => lay 4 p.val ||| layBit 6 true
  let faultBits : Word := match ctx.fault with
    | none => 0#32
    | some f => layBit 7 true ||| lay 16 f.code.code ||| layBit 24 f.addr.isSome
  let faultAddr : Word := match ctx.fault with
    | none => 0#32
    | some f => lay 0 (f.addr.getD 0)
  [lay 0 ctx.state.code ||| lay 8 ctx.index ||| ownerBits ||| faultBits, lay 0 ctx.bytesMoved, faultAddr]

/-! ### Notices -/

/-- The subject of an event (Table 7.2). -/
def NoticeEvent.subject : NoticeEvent → Subject
  | .lockGranted h => .lock h.slot
  | .lockWaitEnded h _ => .lock h.slot
  | .lockBroken h _ => .lock h.slot
  | .lockOrphaned h _ _ => .lock h.slot
  | .lockOrphanReleased h _ _ => .lock h.slot
  | .channelMark c _ => .channel c
  | .channelEnd c _ _ => .channel c
  | .peerDown q _ => .peer q
  | .peerUp q => .peer q
  | .storePoison _ => .store

/-- The notice kind byte (Table 10.4). -/
def NoticeEvent.code : NoticeEvent → Nat
  | .lockGranted _ => 0x01
  | .lockWaitEnded _ _ => 0x02
  | .lockBroken _ _ => 0x03
  | .lockOrphaned _ _ _ => 0x04
  | .lockOrphanReleased _ _ _ => 0x05
  | .channelMark _ _ => 0x06
  | .channelEnd _ _ _ => 0x07
  | .peerDown _ _ => 0x08
  | .peerUp _ => 0x09
  | .storePoison _ => 0x0A

/-- Subject class and number, in bits 15 to 8 and 23 to 16 of word 0 (section 10.3). -/
def Subject.lay : Subject → Word
  | .lock k => Machine.lay 16 k.val
  | .channel c => Machine.lay 8 1 ||| Machine.lay 16 c.val
  | .peer q => Machine.lay 8 2 ||| Machine.lay 16 q.val
  | .store => Machine.lay 8 3

/-- A run's outcome and fault code in word 1 of CHANNEL_END (Table 10.4). -/
def RunOutcome.word : RunOutcome → Word
  | .complete => 0#32
  | .faulted code => lay 0 1 ||| lay 8 code.code
  | .stopped => lay 0 2

/-- Words 1 and 2 of a notice (Table 10.4). -/
def NoticeEvent.words : NoticeEvent → List Word
  | .lockGranted h => [layHandle h, 0#32]
  | .lockWaitEnded h cause => [layHandle h ||| lay 16 cause.code, 0#32]
  | .lockBroken h cause => [layHandle h ||| lay 16 cause.code, 0#32]
  | .lockOrphaned h former ad => [layHandle h ||| lay 16 former.val ||| layBit 24 ad, 0#32]
  | .lockOrphanReleased h former cause => [layHandle h ||| lay 16 former.val ||| lay 24 cause.code, 0#32]
  | .channelMark _ index => [lay 0 index, 0#32]
  | .channelEnd _ outcome bytes => [outcome.word, lay 0 bytes]
  | .peerDown q cause => [lay 0 q.val ||| lay 8 cause.code, 0#32]
  | .peerUp q => [lay 0 q.val, 0#32]
  | .storePoison g => [lay 0 g, 0#32]

/-- The notice packet of a record sent with a sequence number (section 10.3). -/
def noticePacket (r : NoticeRecord) (seq : Byte) : Packet :=
  ⟨0x41#8, seq, 0#8, (lay 0 r.event.code ||| r.event.subject.lay ||| lay 24 r.occurrences) :: r.event.words⟩

/-! ### The hub's HELLO and hub requests -/

/-- The hub's HELLO (R150, R184): part code, port, supervisor port; credits 16, window 4, slots 8. -/
def helloPacket (p sup : Port) : Packet :=
  ⟨0x60#8, 0#8, 0#8, [lay 0 0x0440 ||| lay 16 p.val ||| lay 24 sup.val, lay 0 16 ||| lay 8 4 ||| lay 16 8]⟩

/-- The tag byte of a hub request: slot in bits 6 to 4, sequence in bits 3 to 0 (Table 10.1). -/
def hubTag (h : HubSlot) (seq : BitVec 4) : Byte := BitVec.ofNat 4 h.val ++ seq

/-- A FETCH or STORE packet (R184). -/
def HubOp.packet (op : HubOp) (tag : Byte) : Packet :=
  match op with
  | .fetch addr len => ⟨0x50#8, tag, 0#8, [addr, lay 0 len]⟩
  | .store addr data => ⟨0x51#8, tag, 0#8, addr :: data⟩

/-! ### Settings -/

/-- The value of a setting as a CONFIG_READ returns it (Table 9.2, R178), or none for an unknown number. -/
def settingValue (s : State) (n : Nat) : Option Half :=
  match n with
  | 0x00 => some 0x0440#16
  | 0x01 => some 0x0001#16
  | 0x02 => some (BitVec.ofNat 16 s.settings.supervisor.val)
  | 0x03 => some s.settings.timebase
  | 0x04 => some s.settings.priorityPort
  | 0x05 => some s.settings.quota[0]
  | 0x06 => some s.settings.quota[1]
  | 0x07 => some s.settings.quota[2]
  | 0x08 => some s.settings.quota[3]
  | 0x09 => some s.settings.waitDefault
  | 0x0A => some s.settings.orphanHold
  | 0x0B => some s.settings.responseTimeout
  | 0x0C => some s.settings.stallLimit
  | 0x0D => some s.settings.trainWindow
  | 0x10 => some (BitVec.ofNat 16 (s.link 0).link.code)
  | 0x11 => some (BitVec.ofNat 16 (s.link 1).link.code)
  | 0x12 => some (BitVec.ofNat 16 (s.link 2).link.code)
  | 0x13 => some (BitVec.ofNat 16 (s.link 3).link.code)
  | 0x14 => some (BitVec.ofNat 16 (s.link 0).downCause.code)
  | 0x15 => some (BitVec.ofNat 16 (s.link 1).downCause.code)
  | 0x16 => some (BitVec.ofNat 16 (s.link 2).downCause.code)
  | 0x17 => some (BitVec.ofNat 16 (s.link 3).downCause.code)
  | 0x18 => some (BitVec.ofNat 16 s.locks.inUse.length)
  | 0x19 => some (BitVec.ofNat 16 s.poison.length)
  | _ => none

end Sys2Proof.Machine
end

