-- ==== Sys2Proof/Machine/Dispatcher.lean ====
section
/-! DEFINITION. The dispatcher of a Link Controller (R155, R156): taking the next request, answering, and what
every block asks of it. -/

namespace Sys2Proof.Machine

/-- The MALFORMED response to a request packet (R185). -/
def malformed (pkt : Packet) : Response := respond pkt .malformed none []

/-- What an IDLE dispatcher does with the inbound queue (R155): each request at the head that fails the encoding
check is answered MALFORMED; the first that passes goes into service. Gives the request in service, the rest of
the inbound queue, and the responses added. -/
def takeNext : List Packet → Option Service × List Packet × List Response
  | [] => (none, [], [])
  | pkt :: rest =>
    match decodeRequest pkt with
    | some req => (some ⟨pkt, req, .handed, false⟩, rest, [])
    | none => ((takeNext rest).1, (takeNext rest).2.1, malformed pkt :: (takeNext rest).2.2)

/-- DISPATCH (R155). -/
def LinkController.dispatch (lc : LinkController) : LinkController :=
  match lc.service with
  | some _ => lc
  | none =>
    { lc with service := (takeNext lc.inbound).1, inbound := (takeNext lc.inbound).2.1,
              responses := lc.responses ++ (takeNext lc.inbound).2.2 }

/-- A response joins the tail of the response queue, the dispatcher becomes IDLE and takes the next request. -/
def LinkController.answer (lc : LinkController) (r : Response) : LinkController :=
  LinkController.dispatch { lc with responses := lc.responses ++ [r], service := none }

/-- The request that port p's dispatcher has handed to its block and that the block has not taken. -/
def State.request (s : State) (p : Port) : Option Request :=
  match (s.link p).service with
  | some sv => if sv.stage = .handed then some sv.req else none
  | none => none

/-- A block answers the request in service of port p (R155). -/
def State.answer (s : State) (p : Port) (st : Status) (detail : Option Half) (words : List Word) : State :=
  match (s.link p).service with
  | some sv => s.setLink p ((s.link p).answer (respond sv.pkt st detail words))
  | none => s

end Sys2Proof.Machine
end

