-- ==== Sys2Proof/Machine/HubSlots.lean ====
section
/-! DEFINITION. The hub-request slots of a Link Controller (R115, R116, R158): waiting lists, the giving of slots
by rotation, and the freeing of slots. -/

namespace Sys2Proof.Machine

/-- A hub request joins the end of its channel's slot waiting list (R115). -/
def LinkController.enqueue (lc : LinkController) (r : HubRequest) : LinkController :=
  { lc with waiting := lc.waiting.set r.chan (lc.waiting[r.chan] ++ [r]) }

/-- The channel's requests waiting for a slot are withdrawn (R100). -/
def LinkController.withdraw (lc : LinkController) (c : Channel) : LinkController :=
  { lc with waiting := lc.waiting.set c [] }

/-- The lowest-numbered free slot among those in use (R116, R158). -/
def LinkController.freeHubSlot (lc : LinkController) : Option HubSlot :=
  allHubSlots.find? fun h => decide (h.val < lc.slotsAllowed) && (lc.slots[h]).held.isNone

/-- The first channel with a request waiting after the last served channel (R116). -/
def LinkController.nextServed (lc : LinkController) : Option Channel :=
  (cyclicAfter allChannels lc.lastServed).find? fun c => !(lc.waiting[c]).isEmpty

/-- One slot given (R116, R158): the Link Controller after it, and the request. None while the link is not UP, or
with no free slot or nothing waiting. -/
def LinkController.giveSlot (lc : LinkController) : Option (LinkController × HubRequest) :=
  if lc.link = .up then
    match lc.freeHubSlot, lc.nextServed with
    | some h, some c =>
      match lc.waiting[c] with
      | r :: rest =>
        some ({ lc with slots := lc.slots.set h ⟨(lc.slots[h]).seq, some ⟨r, none⟩⟩, unsent := lc.unsent ++ [h],
                        waiting := lc.waiting.set c rest, lastServed := c }, r)
      | [] => none
    | _, _ => none
  else none

/-- A chunk record's state is changed in the chunk list. -/
def ChannelContext.setChunkState (ctx : ChannelContext) (store : Nat) (st : ChunkState) : ChannelContext :=
  { ctx with chunks := ctx.chunks.map fun k => if k.store = store then { k with state := st } else k }

/-- A FROM_STORE chunk whose STORE is given a slot becomes STORE_SENT (step 3 of R118). -/
def State.noteSlotGiven (s : State) (r : HubRequest) : State :=
  match r.op, r.purpose with
  | .store _ _, .chunk store => s.setChan r.chan ((s.chan r.chan).setChunkState store .storeSent)
  | _, _ => s

/-- SLOT_GIVE repeated (R116): at most n slots are given. -/
def State.giveSlotsUpTo (s : State) (p : Port) : Nat → State
  | 0 => s
  | n + 1 =>
    match (s.link p).giveSlot with
    | some (lc, r) => ((s.setLink p lc).noteSlotGiven r).giveSlotsUpTo p n
    | none => s

/-- SLOT_GIVE while free slots and waiting requests remain (R116); a Link Controller has 8 slots. -/
def State.giveSlots (s : State) (p : Port) : State := s.giveSlotsUpTo p 8

/-- A slot becomes free: its sequence advances and its timer stops (R158). -/
def LinkController.freeSlotOf (lc : LinkController) (h : HubSlot) : LinkController :=
  { lc with slots := lc.slots.set h ⟨(lc.slots[h]).seq + 1, none⟩, unsent := lc.unsent.filter fun k => k != h }

/-- What is outstanding in a slot. -/
def LinkController.outstanding (lc : LinkController) (h : HubSlot) : Option Outstanding := (lc.slots[h]).held

/-- The channel has a request outstanding in some slot. -/
def LinkController.busyFor (lc : LinkController) (c : Channel) : Bool :=
  allHubSlots.any fun h => match lc.outstanding h with
    | some o => decide (o.req.chan = c)
    | none => false

end Sys2Proof.Machine
end

