-- ==== Sys2Proof/Machine/Channels.lean ====
section
/-! DEFINITION. The Channel Engine (ch5, ch6): runs, descriptors, chunks, and the claims on a channel. -/

namespace Sys2Proof.Machine

/-! ### Small operations on a context -/

/-- The channel is in an ended state (R89). -/
def ChanState.ended : ChanState → Bool
  | .complete => true
  | .faulted => true
  | .stopped => true
  | .idle => false
  | .loading => false
  | .running => false
  | .stalled => false
  | .aborting => false

/-- A run is in progress and not ending. -/
def ChanState.active : ChanState → Bool
  | .loading => true
  | .running => true
  | .stalled => true
  | .idle => false
  | .aborting => false
  | .complete => false
  | .faulted => false
  | .stopped => false

/-- A chunk's data arrived: its buffer is filled and its state set. -/
def ChannelContext.fillChunk (ctx : ChannelContext) (store : Nat) (data : List Word) (st : ChunkState) : ChannelContext :=
  { ctx with chunks := ctx.chunks.map fun k => if k.store = store then { k with buffer := data, state := st } else k }

/-- The chunk record with a store address. -/
def ChannelContext.chunkAt (ctx : ChannelContext) (store : Nat) : Option Chunk :=
  ctx.chunks.find? fun k => decide (k.store = store)

/-- A chunk is retired (R112): its record leaves the list and its length is added to bytes moved. -/
def ChannelContext.retire (ctx : ChannelContext) (store : Nat) : ChannelContext :=
  match ctx.chunkAt store with
  | some k => { ctx with chunks := ctx.chunks.filter (fun j => j.store != store), bytesMoved := ctx.bytesMoved + k.len }
  | none => ctx

/-- The length of the next chunk (R111). -/
def chunkLen (d : Descriptor) (position : Nat) : Nat :=
  let toEnd := min (64 - (d.store + position) % 64) (d.count - position)
  match d.kind with
  | .storeCopy => min toEnd (64 - (d.far.toNat + position) % 64)
  | .toStore | .fromStore | .storeFill => toEnd

/-- The far part of the next chunk (Table 6.1). -/
def chunkFar (d : Descriptor) (position : Nat) : Word :=
  match d.kind with
  | .storeFill => d.far
  | .toStore | .fromStore | .storeCopy => d.far + BitVec.ofNat 32 position

/-- The next chunk of a descriptor as it is created (R111 to R113). A fill chunk holds its pattern at once (R120). -/
def nextChunk (d : Descriptor) (position : Nat) : Chunk :=
  match d.kind with
  | .storeFill =>
    ⟨d.store + position, d.far, chunkLen d position, List.replicate (chunkLen d position / 4) d.far, .dataHeld⟩
  | .toStore | .fromStore | .storeCopy =>
    ⟨d.store + position, chunkFar d position, chunkLen d position, [], .requested⟩

/-- A chunk is created: it joins the end of the list and the position advances by its length (R111, R112). -/
def ChannelContext.addChunk (ctx : ChannelContext) (k : Chunk) : ChannelContext :=
  { ctx with chunks := ctx.chunks ++ [k], position := ctx.position + k.len }

/-- The chunk's store write (R117, R119, R120). -/
def writeAccess (guard : Option Handle) (k : Chunk) : ChannelAccess := ⟨k.store, ⟨k.store, .write k.buffer, guard⟩⟩

/-- The store read of a FROM_STORE chunk (R118). -/
def readAccess (guard : Option Handle) (k : Chunk) : ChannelAccess := ⟨k.store, ⟨k.store, .read (k.len / 4), guard⟩⟩

/-- The source read of a STORE_COPY chunk (R119). -/
def sourceAccess (guard : Option Handle) (k : Chunk) : ChannelAccess :=
  ⟨k.store, ⟨k.far.toNat, .read (k.len / 4), guard⟩⟩

/-- The descriptor's data is done (R96): every byte taken into a chunk and every chunk retired. -/
def ChannelContext.dataDone (ctx : ChannelContext) : Bool :=
  match ctx.current with
  | some d => ctx.chunks.isEmpty && decide (d.count ≤ ctx.position)
  | none => false

/-! ### What a channel has in flight -/

/-- The access in progress is this channel's. -/
def State.grantedTo (s : State) (c : Channel) : Bool :=
  match s.arbiter.inProgress with
  | some g => decide (g.member = .chan c)
  | none => false

/-- The channel has a store access granted whose outcome it has not taken. -/
def State.accessGranted (s : State) (c : Channel) : Bool := s.grantedTo c || (s.outcomeOf c).isSome

/-- The channel has a store access presented: waiting, granted, or with its outcome on the way (R114). -/
def State.accessPresented (s : State) (c : Channel) : Bool := (s.waitingAccess c).isSome || s.accessGranted c

/-- The claim is the ending of a hub request of this channel. -/
def ChannelClaim.endingOf (c : Channel) : ChannelClaim → Bool
  | .ending r _ => decide (r.chan = c)
  | .portDown _ => false

/-- The channel has a hub request outstanding: in a slot, or with its ending on the way (R100). -/
def State.hubOutstanding (s : State) (c : Channel) : Bool :=
  match (s.chan c).owner with
  | some p => (s.link p).busyFor c || (s.claimsOf p).any (ChannelClaim.endingOf c)
  | none => false

/-- Nothing of an ending run is left in flight (R101). -/
def State.drained (s : State) (c : Channel) : Bool := !(s.hubOutstanding c) && !(s.accessPresented c)

/-! ### Ending a run -/

/-- The outcome that an ended ABORTING gives (R101). -/
def ChannelContext.abortOutcome (ctx : ChannelContext) : RunOutcome :=
  match ctx.fault with
  | some f => .faulted f.code
  | none => .stopped

/-- The state that an ended ABORTING gives (R101). -/
def ChannelContext.abortState (ctx : ChannelContext) : ChanState :=
  match ctx.fault with
  | some _ => .faulted
  | none => .stopped

/-- A channel hands an event about itself for its owner's port (R102). -/
def State.handOwner (s : State) (c : Channel) (e : NoticeEvent) : State :=
  match (s.chan c).owner with
  | some p => s.hand [(p, e)]
  | none => s

/-- ABORTING_END (R101): an ABORTING channel with nothing in flight ends. -/
def State.finishAborting (s : State) (c : Channel) : State :=
  if (s.chan c).state = .aborting ∧ s.drained c then
    match (s.chan c).endMode with
    | some .unbind => s.setChan c ChannelContext.reset
    | _ =>
      (s.setChan c { s.chan c with state := (s.chan c).abortState, current := none, position := 0, chunks := [],
                                   endMode := none }).handOwner c
        (.channelEnd c (s.chan c).abortOutcome (s.chan c).bytesMoved)
  else s

/-- The channel's waiting hub requests are withdrawn at its owner's Link Controller (R100). -/
def State.withdrawHub (s : State) (c : Channel) : State :=
  match (s.chan c).owner with
  | some p => s.setLink p ((s.link p).withdraw c)
  | none => s

/-- ENTER_ABORTING (R100, R129): the waiting access and hub requests are withdrawn, the lookahead and the stall
record go, and the drain begins. -/
def State.enterAborting (s : State) (c : Channel) (mode : EndMode) : State :=
  (((s.setChan c { s.chan c with state := .aborting, next := none, stall := none, endMode := some mode }).setWaiting c
    none).withdrawHub c).finishAborting c

/-- CHANNEL_FAULT (R98) with an end mode: the fault record is made, the descriptor index is the one at which the
fault arose (log entry 17), and the run enters ABORTING. -/
def State.faultWith (s : State) (c : Channel) (mode : EndMode) (code : FaultCode) (index : Nat) (addr : Option Nat) :
    State :=
  (s.setChan c { s.chan c with fault := some ⟨code, index, addr⟩, index := index }).enterAborting c mode

/-- CHANNEL_FAULT (R98). -/
def State.faultRun (s : State) (c : Channel) (code : FaultCode) (index : Nat) (addr : Option Nat) : State :=
  s.faultWith c .keep code index addr

/-- RUN_COMPLETE (R97). A stall record stands in STALLED only (Table 5.1). -/
def State.completeRun (s : State) (c : Channel) : State :=
  (s.setChan c { s.chan c with state := .complete, current := none, next := none, position := 0, stall := none }).handOwner
    c (.channelEnd c .complete (s.chan c).bytesMoved)

/-! ### Moving data -/

/-- A hub request is handed to the owner's Link Controller (R115). -/
def State.handHub (s : State) (r : HubRequest) : State :=
  match (s.chan r.chan).owner with
  | some p => s.setLink p ((s.link p).enqueue r)
  | none => s

/-- A new TO_STORE chunk and its FETCH (R113, step 1 of R117). -/
def State.createFetch (s : State) (c : Channel) (d : Descriptor) : State :=
  let k := nextChunk d (s.chan c).position
  (s.setChan c ((s.chan c).addChunk k)).handHub ⟨c, .chunk k.store, .fetch k.far k.len⟩

/-- CHUNK_CREATE for TO_STORE (R113): until the list holds 4 records or no bytes are left; n bounds the number. -/
def State.createFetches (s : State) (c : Channel) (d : Descriptor) : Nat → State
  | 0 => s
  | n + 1 =>
    if (s.chan c).chunks.length < 4 ∧ (s.chan c).position < d.count then (s.createFetch c d).createFetches c d n else s

/-- The first chunk's store write is presented, if its data is held (step 1 of R114). -/
def State.presentFirst (s : State) (c : Channel) : State :=
  match (s.chan c).chunks with
  | k :: _ =>
    if k.state = .dataHeld then
      (s.setChan c ((s.chan c).setChunkState k.store .writing)).setWaiting c (some (writeAccess (s.chan c).guard k))
    else s
  | [] => s

/-- A chunk is created and its read presented (steps 2 and 3 of R114). -/
def State.createRead (s : State) (c : Channel) (d : Descriptor)
    (access : Option Handle → Chunk → ChannelAccess) : State :=
  let k := nextChunk d (s.chan c).position
  (s.setChan c ((s.chan c).addChunk k)).setWaiting c (some (access (s.chan c).guard k))

/-- What a RUNNING channel with no access presented presents (R114). -/
def State.presentNext (s : State) (c : Channel) (d : Descriptor) : State :=
  match d.kind with
  | .toStore => s.presentFirst c
  | .fromStore =>
    if (s.chan c).chunks.length < 4 ∧ (s.chan c).position < d.count then s.createRead c d readAccess else s
  | .storeCopy =>
    if (s.chan c).chunks = [] ∧ (s.chan c).position < d.count then s.createRead c d sourceAccess else s.presentFirst c
  | .storeFill =>
    if (s.chan c).chunks = [] ∧ (s.chan c).position < d.count then
      (s.setChan c ((s.chan c).addChunk (nextChunk d (s.chan c).position))).presentFirst c
    else s.presentFirst c

/-- The creation of TO_STORE chunks that a channel's state allows (R113). -/
def State.createChunks (s : State) (c : Channel) (d : Descriptor) : State :=
  match d.kind with
  | .toStore => if (s.chan c).state = .running ∨ (s.chan c).state = .stalled then s.createFetches c d 4 else s
  | .fromStore | .storeCopy | .storeFill => s

/-- What the action that made room does for the current descriptor (R113, R114). -/
def State.work (s : State) (c : Channel) : State :=
  match (s.chan c).current with
  | none => s
  | some d =>
    let s₁ := s.createChunks c d
    if (s₁.chan c).state = .running ∧ ¬ s₁.accessPresented c then s₁.presentNext c d else s₁

/-! ### Advancing through the list -/

/-- The master address of descriptor i (section 5.4). -/
def ChannelContext.descriptorAddress (ctx : ChannelContext) (i : Nat) : Word :=
  ctx.list.getD 0#32 + BitVec.ofNat 32 (16 * i)

/-- The lookahead FETCH of the descriptor after the current one (R95). -/
def State.handLookahead (s : State) (c : Channel) : State :=
  (s.setChan c { s.chan c with next := some .fetching }).handHub
    ⟨c, .lookahead, .fetch ((s.chan c).descriptorAddress ((s.chan c).index + 1)) 16⟩

/-- A descriptor becomes current at an index (R94 to R96), with its lookahead, or LIST_TOO_LONG at index 255, and its
movement begins. A stall record stands in STALLED only (Table 5.1). -/
def State.becomeCurrent (s : State) (c : Channel) (d : Descriptor) (i : Nat) : State :=
  let s₁ := s.setChan c { s.chan c with state := .running, current := some d, index := i, position := 0, next := none,
                                        stall := none }
  if d.last then s₁.work c
  else if i = 255 then s₁.faultRun c .listTooLong 255 none
  else if Config.lookaheadFirst then (s₁.handLookahead c).work c
  else (s₁.work c).handLookahead c

/-- Step 3 of R96: the next-descriptor field decides. -/
def State.advance (s : State) (c : Channel) : State :=
  match (s.chan c).next with
  | some (.valid d) => s.becomeCurrent c d ((s.chan c).index + 1)
  | some (.invalid code) => s.faultRun c code ((s.chan c).index + 1) none
  | some .fetching => s
  | none => s

/-- DESCRIPTOR_DONE (R96). -/
def State.descriptorDone (s : State) (c : Channel) (d : Descriptor) : State :=
  let s₁ := if d.notify then s.handOwner c (.channelMark c (s.chan c).index) else s
  if d.last then s₁.completeRun c else s₁.advance c

/-- After a chunk is retired: the descriptor is done, or the movement goes on. -/
def State.progress (s : State) (c : Channel) : State :=
  match (s.chan c).current with
  | some d => if (s.chan c).dataDone then s.descriptorDone c d else s.work c
  | none => s

/-! ### The endings of hub requests -/

/-- A FETCH or STORE ending taken in ABORTING (Table 5.6). -/
def State.endingInAbort (s : State) (c : Channel) (r : HubRequest) (how : Ending) : State :=
  match how, r.op, r.purpose with
  | .replyOk _, .store _ _, .chunk store => (s.setChan c ((s.chan c).retire store)).finishAborting c
  | _, _, _ => s.finishAborting c

/-- The ending of the FETCH of descriptor 0, taken in LOADING (R94). A drop is followed by the port-down claim
(R128). -/
def State.firstEnding (s : State) (c : Channel) (how : Ending) : State :=
  match how with
  | .replyOk data =>
    match decodeDescriptor data with
    | some d => s.becomeCurrent c d 0
    | none => s.faultRun c .badDescriptor 0 none
  | .replyFailed => s.faultRun c .masterError 0 none
  | .timeout => s.faultRun c .masterTimeout 0 none
  | .dropped => s

/-- The value the next-descriptor field takes from an ending (R95). -/
def lookaheadOf : Ending → Lookahead
  | .replyOk data =>
    match decodeDescriptor data with
    | some d => .valid d
    | none => .invalid .badDescriptor
  | .replyFailed => .invalid .masterError
  | .timeout => .invalid .masterTimeout
  | .dropped => .fetching

/-- The ending of the lookahead FETCH in an active run (R95): the field takes its value, and a channel that was
waiting for it advances at once (R96). -/
def State.lookaheadEnding (s : State) (c : Channel) (how : Ending) : State :=
  let s₁ := s.setChan c { s.chan c with next := some (lookaheadOf how) }
  if (s₁.chan c).dataDone then s₁.advance c else s₁

/-- The ending of a TO_STORE chunk's FETCH in an active run (Table 6.4). -/
def State.chunkFetchEnding (s : State) (c : Channel) (store : Nat) (how : Ending) : State :=
  match how with
  | .replyOk data => (s.setChan c ((s.chan c).fillChunk store data .dataHeld)).work c
  | .replyFailed => s.faultRun c .masterError (s.chan c).index (some store)
  | .timeout => s.faultRun c .masterTimeout (s.chan c).index (some store)
  | .dropped => s

/-- The ending of a FROM_STORE chunk's STORE in an active run (Table 6.4). -/
def State.chunkStoreEnding (s : State) (c : Channel) (store : Nat) (how : Ending) : State :=
  match how with
  | .replyOk _ => (s.setChan c ((s.chan c).retire store)).progress c
  | .replyFailed => s.faultRun c .masterError (s.chan c).index (some store)
  | .timeout => s.faultRun c .masterTimeout (s.chan c).index (some store)
  | .dropped => s

/-- The ending of a hub request taken by an active channel (R127). -/
def State.activeEnding (s : State) (c : Channel) (r : HubRequest) (how : Ending) : State :=
  match r.purpose, r.op with
  | .first, _ => if (s.chan c).state = .loading then s.firstEnding c how else s
  | .lookahead, _ => if (s.chan c).next = some .fetching then s.lookaheadEnding c how else s
  | .chunk store, .fetch _ _ => s.chunkFetchEnding c store how
  | .chunk store, .store _ _ => s.chunkStoreEnding c store how

/-- The ending of a hub request, by the channel's state. -/
def State.takeEnding (s : State) (r : HubRequest) (how : Ending) : State :=
  if (s.chan r.chan).state = .aborting then s.endingInAbort r.chan r how
  else if (s.chan r.chan).state.active then s.activeEnding r.chan r how
  else s

/-! ### The port-down event -/

/-- One channel at its owner's port-down event (Table 5.10). -/
def State.chanPortDown (s : State) (loss : Loss) (c : Channel) : State :=
  match loss, (s.chan c).state with
  | .soft, .loading | .soft, .running | .soft, .stalled => s.faultWith c .keep .portDown (s.chan c).index none
  | .hard, .loading | .hard, .running | .hard, .stalled => s.faultWith c .unbind .portDown (s.chan c).index none
  | .hard, .aborting => (s.setChan c { s.chan c with endMode := some .unbind }).finishAborting c
  | .hard, .complete | .hard, .faulted | .hard, .stopped => s.setChan c ChannelContext.reset
  | .soft, .aborting | .soft, .complete | .soft, .faulted | .soft, .stopped => s
  | .soft, .idle | .hard, .idle => s

/-- The channels bound to a port (R90), in order. -/
def State.boundTo (s : State) (p : Port) : List Channel :=
  allChannels.filter fun c => decide ((s.chan c).owner = some p)

/-- The Channel Engine takes port p's port-down event (R106), channel by channel in ascending number: neither R106 nor R137
orders the CHANNEL_END events of several channels (log entry 32). -/
def State.chansPortDown (s : State) (p : Port) (loss : Loss) : State :=
  (s.boundTo p).foldl (fun t c => t.chanPortDown loss c) s

/-! ### One action -/

/-- The events that an action handed, from a state s before it to a state t after it, put together as one action's
(R137). -/
def State.asOneAction (s t : State) : State :=
  let new := (t.events.drop s.events.length).flatten
  { t with events := s.events ++ (if new = [] then [] else [new]) }

/-- A claim of port p's Link Controller, already taken from its list, carried out with the slots it frees or fills
(R116). -/
def State.carryClaim (s : State) (p : Port) (cl : ChannelClaim) : State :=
  match cl with
  | .ending r how => s.asOneAction ((s.takeEnding r how).giveSlots p)
  | .portDown loss => s.asOneAction (s.chansPortDown p loss)

/-- The oldest claim of port p's Link Controller is taken (R163). -/
def State.takeClaim (s : State) (p : Port) : State :=
  match s.claimsOf p with
  | cl :: rest => (s.setClaims p rest).carryClaim p cl
  | [] => s

/-- The next n claims of port p's Link Controller are taken, oldest first. -/
def State.takeClaims (s : State) (p : Port) : Nat → State
  | 0 => s
  | n + 1 => (s.takeClaim p).takeClaims p n

/-! ### Store access outcomes -/

/-- An OTHER_PORT refusal stalls the channel (R123), or leaves it STALLED with its stall record (R124). -/
def State.stallChannel (s : State) (c : Channel) (a : ChannelAccess) : State :=
  let ctx := s.chan c
  let back := if a.access.op.isWrite then ctx.setChunkState a.chunk .dataHeld else ctx
  let record := match ctx.stall with
    | some r => r
    | none => ⟨granuleOf a.access.addr, 0, s.settings.stallLimit.toNat, a⟩
  s.setChan c { back with state := .stalled, stall := some record }

/-- A lock refusal by its class and the descriptor's HALT_ON_LOCK (Table 6.3, R126). -/
def State.lockRefusedChannel (s : State) (c : Channel) (a : ChannelAccess) (cls : RefusalClass) : State :=
  match cls with
  | .ownPort => s.faultRun c .selfLocked (s.chan c).index (some a.access.addr)
  | .otherPort =>
    match (s.chan c).current with
    | some d =>
      if d.haltOnLock then s.faultRun c .locked (s.chan c).index (some a.access.addr) else s.stallChannel c a
    | none => s

/-- A carried out access moves its chunk on (R117 to R120): a write retires it; a read fills it, and then its STORE is
handed or its write presented. -/
def State.chunkCarriedOut (s : State) (c : Channel) (a : ChannelAccess) (data : List Word) : State :=
  if a.access.op.isWrite then (s.setChan c ((s.chan c).retire a.chunk)).progress c
  else
    match (s.chan c).current, (s.chan c).chunkAt a.chunk with
    | some d, some k =>
      if d.kind = .fromStore then
        ((s.setChan c ((s.chan c).fillChunk a.chunk data .readDone)).handHub
          ⟨c, .chunk a.chunk, .store k.far data⟩).work c
      else (s.setChan c ((s.chan c).fillChunk a.chunk data .dataHeld)).work c
    | _, _ => s

/-- The stall ends: RUNNING, the stall record absent (R124). -/
def State.endStall (s : State) (c : Channel) : State := s.setChan c { s.chan c with state := .running, stall := none }

/-- The outcome of a granted access taken in RUNNING or STALLED (Table 6.3, R124). -/
def State.activeOutcome (s : State) (c : Channel) (a : ChannelAccess) (o : AccessOutcome) : State :=
  match o with
  | .done data _ => (s.endStall c).chunkCarriedOut c a data
  | .guardFailed => s.faultRun c .guardLost (s.chan c).index (some a.access.addr)
  | .lockRefused _ cls => s.lockRefusedChannel c a cls
  | .dataError => s.faultRun c .dataError (s.chan c).index (some a.access.addr)
  | .poisoned => s.faultRun c .poisoned (s.chan c).index (some a.access.addr)

/-- The outcome of a granted access taken in ABORTING (Table 5.6): a write that was carried out counts. -/
def State.outcomeInAbort (s : State) (c : Channel) (a : ChannelAccess) (o : AccessOutcome) : State :=
  match o with
  | .done _ _ =>
    if a.access.op.isWrite then (s.setChan c ((s.chan c).retire a.chunk)).finishAborting c else s.finishAborting c
  | _ => s.finishAborting c

/-- The slots of a channel's owner are given after an action of the channel (R116). -/
def State.giveOwnerSlots (s : State) (owner : Option Port) : State :=
  match owner with
  | some p => s.giveSlots p
  | none => s

/-- A channel takes an outcome, by its state. -/
def State.takeOutcome (s : State) (c : Channel) (a : ChannelAccess) (o : AccessOutcome) : State :=
  match (s.chan c).state with
  | .running => s.activeOutcome c a o
  | .stalled => s.activeOutcome c a o
  | .aborting => s.outcomeInAbort c a o
  | .idle | .loading | .complete | .faulted | .stopped => s

/-! ### Release announcements -/

/-- A granule lies in an announced range. -/
def GranuleRange.covers (r : GranuleRange) (g : Nat) : Bool := decide (r.first ≤ g) && decide (g < r.first + r.count)

/-- One channel at a release announcement (R124): a STALLED channel whose stall granule is covered, with no retry
presented, presents its refused access again; so does one whose retry the arbiter has withdrawn at a port-down event and whose
own port-down claim still waits (log entry 38). -/
def State.retryStalled (s : State) (r : GranuleRange) (c : Channel) : State :=
  match (s.chan c).state, (s.chan c).stall with
  | .stalled, some st =>
    if r.covers st.granule ∧ ¬ s.accessPresented c then
      (if st.refused.access.op.isWrite then s.setChan c ((s.chan c).setChunkState st.refused.chunk .writing)
        else s).setWaiting c (some st.refused)
    else s
  | _, _ => s

/-! ### Channel requests -/

/-- A channel number of a request (R91): 0 to 7, or none. -/
def chanOf (b : Byte) : Option Channel := if b.toNat ≤ 7 then some (Fin.ofNat 8 b.toNat) else none

/-- The guard of a CHANNEL_START passes (check 4 of R91). -/
def LockUnit.startGuard (u : LockUnit) (p : Port) (g : Option Handle) : Bool :=
  match g with
  | some h => u.guardHolds p h
  | none => true

/-- The channel may be started by port p (check 2 of R91). -/
def ChannelContext.startable (ctx : ChannelContext) (p : Port) : Bool :=
  decide (ctx.state = .idle) || (decide (ctx.owner = some p) && ctx.state.ended)

/-- CHANNEL_START carried out (R92). -/
def State.startRun (s : State) (p : Port) (c : Channel) (list : Word) (guard : Option Handle) : State :=
  (((s.setChan c { ChannelContext.reset with state := .loading, owner := some p, list := some list, guard := guard }).handHub
    ⟨c, .first, .fetch list 16⟩).giveSlots p).answer p .ok none []

/-- CHANNEL_START's checks in order (Table 5.3). -/
def State.channelStart (s : State) (p : Port) (chan : Byte) (list : Word) (guard : Option Handle) : State :=
  match chanOf chan with
  | none => s.answer p .badChannel none []
  | some c =>
    if !(s.chan c).startable p then s.answer p .channelBusy none []
    else if list.toNat % 16 ≠ 0 then s.answer p .badAddress none []
    else if !s.locks.startGuard p guard then s.answer p .staleHandle none []
    else s.startRun p c list guard

/-- CHANNEL_STOP (Table 5.8, R99). -/
def State.channelStop (s : State) (p : Port) (chan : Byte) : State :=
  match chanOf chan with
  | none => s.answer p .badChannel none []
  | some c =>
    if (s.chan c).owner ≠ some p then s.answer p .notOwner none []
    else if (s.chan c).state.active then (s.enterAborting c .keep).answer p .ok none []
    else if (s.chan c).state = .aborting then s.answer p .ok none []
    else s.answer p .badChannelState none []

/-- CHANNEL_RELEASE (Table 5.9). -/
def State.channelRelease (s : State) (p : Port) (chan : Byte) : State :=
  match chanOf chan with
  | none => s.answer p .badChannel none []
  | some c =>
    if (s.chan c).owner ≠ some p then s.answer p .notOwner none []
    else if (s.chan c).state.ended then (s.setChan c ChannelContext.reset).answer p .ok none []
    else s.answer p .channelBusy none []

/-- CHANNEL_QUERY (R105). -/
def State.channelQuery (s : State) (p : Port) (chan : Byte) : State :=
  match chanOf chan with
  | none => s.answer p .badChannel none []
  | some c => s.answer p .ok none (channelReport (s.chan c))

/-! ### The commands -/

/-- CHANNEL_START (R91). -/
def execChannelStart (p : Port) (s : State) : Host.Outcome State Fault Refusal :=
  match s.request p with
  | some (.channelStart chan list guard) => .next (s.channelStart p chan list guard)
  | _ => .next s

/-- CHANNEL_STOP (R103). -/
def execChannelStop (p : Port) (s : State) : Host.Outcome State Fault Refusal :=
  match s.request p with
  | some (.channelStop chan) => .next (s.asOneAction (s.channelStop p chan))
  | _ => .next s

/-- CHANNEL_RELEASE (R104). -/
def execChannelRelease (p : Port) (s : State) : Host.Outcome State Fault Refusal :=
  match s.request p with
  | some (.channelRelease chan) => .next (s.channelRelease p chan)
  | _ => .next s

/-- CHANNEL_QUERY (R105). -/
def execChannelQuery (p : Port) (s : State) : Host.Outcome State Fault Refusal :=
  match s.request p with
  | some (.channelQuery chan) => .next (s.channelQuery p chan)
  | _ => .next s

/-- The oldest claim of a Link Controller is a reply to a hub request that passes a test. -/
def replyTo (test : HubRequest → Bool) : List ChannelClaim → Bool
  | .ending r (.replyOk _) :: _ => test r
  | .ending r .replyFailed :: _ => test r
  | _ => false

/-- The oldest claim is a timeout. -/
def isTimeout : List ChannelClaim → Bool
  | .ending _ .timeout :: _ => true
  | _ => false

/-- The oldest claim is a drop. -/
def isDrop : List ChannelClaim → Bool
  | .ending _ .dropped :: _ => true
  | _ => false

/-- The oldest claim is a port-down event. -/
def isPortDown : List ChannelClaim → Bool
  | .portDown _ :: _ => true
  | _ => false

/-- The request is the FETCH of descriptor 0. -/
def HubRequest.isFirst (r : HubRequest) : Bool := decide (r.purpose = .first)

/-- The request is a lookahead FETCH. -/
def HubRequest.isLookahead (r : HubRequest) : Bool := decide (r.purpose = .lookahead)

/-- The request is a chunk's FETCH. -/
def HubRequest.isChunkFetch (r : HubRequest) : Bool :=
  match r.purpose, r.op with
  | .chunk _, .fetch _ _ => true
  | _, _ => false

/-- The request is a chunk's STORE. -/
def HubRequest.isChunkStore (r : HubRequest) : Bool :=
  match r.purpose, r.op with
  | .chunk _, .store _ _ => true
  | _, _ => false

/-- DESCRIPTOR_REPLY (R94). -/
def execDescriptorReply (p : Port) (s : State) : Host.Outcome State Fault Refusal :=
  if replyTo HubRequest.isFirst (s.claimsOf p) then .next (s.takeClaim p) else .next s

/-- LOOKAHEAD_REPLY (R95). -/
def execLookaheadReply (p : Port) (s : State) : Host.Outcome State Fault Refusal :=
  if replyTo HubRequest.isLookahead (s.claimsOf p) then .next (s.takeClaim p) else .next s

/-- CHUNK_FETCH_REPLY (R117). -/
def execChunkFetchReply (p : Port) (s : State) : Host.Outcome State Fault Refusal :=
  if replyTo HubRequest.isChunkFetch (s.claimsOf p) then .next (s.takeClaim p) else .next s

/-- CHUNK_STORE_REPLY (R118). -/
def execChunkStoreReply (p : Port) (s : State) : Host.Outcome State Fault Refusal :=
  if replyTo HubRequest.isChunkStore (s.claimsOf p) then .next (s.takeClaim p) else .next s

/-- CHANNEL_HUB_TIMEOUT (R127). -/
def execChannelHubTimeout (p : Port) (s : State) : Host.Outcome State Fault Refusal :=
  if isTimeout (s.claimsOf p) then .next (s.takeClaim p) else .next s

/-- HUB_REQUEST_DROP (R128). -/
def execHubRequestDrop (p : Port) (s : State) : Host.Outcome State Fault Refusal :=
  if isDrop (s.claimsOf p) then .next (s.takeClaim p) else .next s

/-- CHANNEL_PORT_DOWN (R106). -/
def execChannelPortDown (p : Port) (s : State) : Host.Outcome State Fault Refusal :=
  if isPortDown (s.claimsOf p) then .next (s.takeClaim p) else .next s

/-- CHANNEL_ACCESS_OUTCOME (R122). -/
def execChannelAccessOutcome (c : Channel) (s : State) : Host.Outcome State Fault Refusal :=
  match s.outcomeOf c with
  | some (a, o) =>
    .next (s.asOneAction (((s.setOutcome c none).takeOutcome c a o).giveOwnerSlots (s.chan c).owner))
  | none => .next s

/-- RELEASE_ANNOUNCEMENT (R124): the oldest announcement waiting is taken. -/
def execReleaseAnnouncement (s : State) : Host.Outcome State Fault Refusal :=
  match s.announcements with
  | r :: rest => .next (allChannels.foldl (fun t c => t.retryStalled r c) { s with announcements := rest })
  | [] => .next s

/-- STALL_EXPIRY (R125): a STALLED channel whose time stalled has reached its limit faults with LOCK_TIMEOUT. -/
def execStallExpiry (c : Channel) (s : State) : Host.Outcome State Fault Refusal :=
  match (s.chan c).state, (s.chan c).stall with
  | .stalled, some st =>
    if st.limit ≤ st.time then
      .next (s.asOneAction (s.faultRun c .lockTimeout (s.chan c).index (some st.refused.access.addr)))
    else .next s
  | _, _ => .next s

end Sys2Proof.Machine
end

