-- ==== Sys2Proof/Machine/Locks.lean ====
section
/-! DEFINITION. The Lock Unit (ch2, ch4): its claims, each taken whole. -/

namespace Sys2Proof.Machine

/-- What a claim on the Lock Table leaves and hands on (R26): the unit, the notice events in order, the release
announcements in order. -/
structure LockEffect where
  unit     : LockUnit
  events   : List Handed
  released : List GranuleRange
  deriving DecidableEq, Repr

/-- A claim's effect put into State. -/
def State.lockEffect (s : State) (e : LockEffect) : State := ((s.setLocks e.unit).hand e.events).announce e.released

/-! ### The grant sweep -/

/-- An entry returns to FREE with its generation advanced, and leaves the waiting order if it stood there (R22,
R31). -/
def LockUnit.release (u : LockUnit) (k : LockSlot) : LockUnit :=
  { u.setEntry k ⟨(u.entry k).gen + 1, .free⟩ with order := u.order.filter (fun j => j != k) }

/-- The lease starts again from its full length (R42). -/
def Claim.fullLease (c : Claim) : Claim := { c with leaseLeft := c.leaseLen }

/-- A waiting entry becomes HELD with its lease started (R35). -/
def LockUnit.grant (u : LockUnit) (k : LockSlot) (c : Claim) : LockUnit :=
  u.setEntry k ⟨(u.entry k).gen, .held c.fullLease⟩

/-- A waiting claim conflicts with no HELD or ORPHANED entry, and with none of the waiting entries kept before it
(R35). -/
def LockUnit.clear (u : LockUnit) (c : Claim) (kept : List LockSlot) : Bool :=
  !(allLockSlots.any fun j => match (u.entry j).state.standing? with
      | some d => d.conflicts c
      | none => false)
    && !(kept.any fun j => match (u.entry j).state.waiting? with
      | some d => d.conflicts c
      | none => false)

/-- The sweep over the waiting entries still to be examined, with those kept so far (R35). -/
def sweepFrom : List LockSlot → List LockSlot → LockUnit → LockUnit × List Handed
  | [], kept, u => ({ u with order := kept }, [])
  | k :: rest, kept, u =>
    match (u.entry k).state.waiting? with
    | some c =>
      if u.clear c kept then
        ((sweepFrom rest kept (u.grant k c)).1,
          (c.owner, .lockGranted (u.handleAt k)) :: (sweepFrom rest kept (u.grant k c)).2)
      else sweepFrom rest (kept ++ [k]) u
    | none => sweepFrom rest kept u

/-- GRANT_SWEEP (R35). -/
def LockUnit.sweep (u : LockUnit) : LockUnit × List Handed := sweepFrom u.order [] u

/-- An entry goes FREE, the events before the sweep are handed, the sweep runs, and the ranges are announced (R34,
R36). -/
def LockUnit.releaseAndSweep (u : LockUnit) (k : LockSlot) (events : List Handed) (released : List GranuleRange) :
    LockEffect :=
  ⟨(u.release k).sweep.1, events ++ (u.release k).sweep.2, released⟩

/-! ### The wait-for relation -/

/-- An entry of the table stands before the waiting entry in slot k: HELD, ORPHANED, or WAITING with a lower
arrival number (R32). -/
def LockUnit.standsBefore (u : LockUnit) (j k : LockSlot) : Bool :=
  (u.entry j).state.standing?.isSome
    || ((u.entry j).state.waiting?.isSome && decide (u.order.idxOf j < u.order.idxOf k))

/-- Port a waits for port b (R32). -/
def LockUnit.waitsFor (u : LockUnit) (a b : Port) : Bool :=
  decide (a ≠ b) &&
    match u.waitingOf a with
    | none => false
    | some k =>
      match (u.entry k).state.claim? with
      | none => false
      | some c => allLockSlots.any fun j => match (u.entry j).state.claim? with
        | some d => decide (d.owner = b) && d.conflicts c && u.standsBefore j k
        | none => false

/-- The ports reached from some ports by following the wait-for relation at most n times (R33). -/
def LockUnit.reach (u : LockUnit) : Nat → List Port → List Port
  | 0, ports => ports
  | n + 1, ports => u.reach n (allPorts.filter fun b => decide (b ∈ ports) || ports.any fun a => u.waitsFor a b)

/-- Queuing a request of port p would close a cycle (R33): p is reached from the owners of the other ports' entries
that conflict with it. -/
def LockUnit.wouldDeadlock (u : LockUnit) (p : Port) (r : Claim) : Bool :=
  decide (p ∈ u.reach 4 (allPorts.filter fun q => !(u.conflicting r (fun o => decide (o = q) && decide (o ≠ p))).isEmpty))

/-! ### LOCK -/

/-- The lowest-numbered FREE slot. -/
def LockUnit.freeSlot (u : LockUnit) : Option LockSlot :=
  allLockSlots.find? fun k => decide ((u.entry k).state = .free)

/-- A range is valid (R27). -/
def rangeValid (first count : Nat) : Bool :=
  decide (first ≤ 4095) && decide (1 ≤ count) && decide (count ≤ 64) && decide (first + count - 1 ≤ 4095)

/-- The answer to a lock request: what it leaves, the status and the detail. -/
structure LockAnswer where
  effect : LockEffect
  status : Status
  detail : Option Half
  deriving DecidableEq, Repr

/-- An answer that leaves the Lock Unit as it was. -/
def LockUnit.unchanged (u : LockUnit) (st : Status) (detail : Option Half) : LockAnswer := ⟨⟨u, [], []⟩, st, detail⟩

/-- A new entry in a FREE slot, its generation kept (R29, R30). -/
def LockUnit.place (u : LockUnit) (k : LockSlot) (e : EntryState) : LockUnit := u.setEntry k ⟨(u.entry k).gen, e⟩

/-- Steps 6 to 9 of R28, for a request that conflicts with another port's entry in slot j first. -/
def LockUnit.lockWaiting (u : LockUnit) (p : Port) (r : Claim) (wait : Bool) (limit waitDefault : Nat)
    (k j : LockSlot) : LockAnswer :=
  if !wait then u.unchanged .conflict (slotDetail j)
  else match u.waitingOf p with
    | some w => u.unchanged .waitBusy (slotDetail w)
    | none =>
      if u.wouldDeadlock p r then u.unchanged .wouldDeadlock (slotDetail j)
      else
        ⟨⟨{ u.place k (.waiting r (if limit = 0 then waitDefault else limit)) with order := u.order ++ [k] }, [], []⟩,
          .queued, some (u.handleAt k).encode⟩

/-- Table 2.3: the outcome of a LOCK from port p with the given claim, decided by the first row that applies. -/
def LockUnit.lock (u : LockUnit) (p : Port) (r : Claim) (wait : Bool) (limit quota waitDefault : Nat) : LockAnswer :=
  if !rangeValid r.first r.count then u.unchanged .badRange none
  else if quota ≤ (u.ownedBy p).length then u.unchanged .quota none
  else match u.freeSlot with
    | none => u.unchanged .tableFull none
    | some k =>
      match u.conflicting r (fun o => decide (o = p)) with
      | j :: _ => u.unchanged .selfConflict (slotDetail j)
      | [] =>
        match u.conflicting r (fun o => decide (o ≠ p)) with
        | [] => ⟨⟨u.place k (.held r), [], []⟩, .granted, some (u.handleAt k).encode⟩
        | j :: _ => u.lockWaiting p r wait limit waitDefault k j

/-! ### Requests that carry a handle -/

/-- UNLOCK (Table 2.4, R37, R38). -/
def LockUnit.unlock (u : LockUnit) (p : Port) (h : Handle) : LockAnswer :=
  match u.honoured h with
  | none => u.unchanged .staleHandle none
  | some .free => u.unchanged .staleHandle none
  | some (.orphaned _ _ _) => u.unchanged .notOwner none
  | some (.held c) =>
    if c.owner = p then ⟨u.releaseAndSweep h.slot [] [c.range], .ok, none⟩ else u.unchanged .notOwner none
  | some (.waiting c _) =>
    if c.owner = p then ⟨u.releaseAndSweep h.slot [] [], .ok, none⟩ else u.unchanged .notOwner none

/-- RENEW (Table 2.5, R39). -/
def LockUnit.renew (u : LockUnit) (p : Port) (h : Handle) (lease : Nat) : LockAnswer :=
  match u.honoured h with
  | none => u.unchanged .staleHandle none
  | some .free => u.unchanged .staleHandle none
  | some (.orphaned _ _ _) => u.unchanged .notOwner none
  | some (.held c) =>
    if c.owner = p then
      ⟨⟨u.place h.slot (.held { c with leaseLen := lease, leaseLeft := lease }), [], []⟩, .ok, none⟩
    else u.unchanged .notOwner none
  | some (.waiting c _) =>
    if c.owner = p then u.unchanged .badStateForLock none else u.unchanged .notOwner none

/-- ADOPT (Table 4.2, R75, R76). -/
def LockUnit.adopt (u : LockUnit) (p : Port) (h : Handle) : LockAnswer :=
  match u.honoured h with
  | none => u.unchanged .staleHandle none
  | some .free => u.unchanged .staleHandle none
  | some (.held _) => u.unchanged .notOrphaned none
  | some (.waiting _ _) => u.unchanged .notOrphaned none
  | some (.orphaned c _ adoptable) =>
    if c.owner ≠ p then u.unchanged .notOwner none
    else if !adoptable then u.unchanged .notOrphaned none
    else ⟨⟨u.place h.slot (.held c.fullLease), [], [c.range]⟩, .ok, some h.encode⟩

/-- RECLAIM by the supervisor port sup (Table 4.3, R77, R78). -/
def LockUnit.reclaim (u : LockUnit) (sup : Port) (h : Handle) : LockAnswer :=
  match u.honoured h with
  | none => u.unchanged .staleHandle none
  | some .free => u.unchanged .staleHandle none
  | some (.held _) => u.unchanged .notOrphaned none
  | some (.waiting _ _) => u.unchanged .notOrphaned none
  | some (.orphaned c _ _) =>
    match u.waitingOf sup with
    | some w => u.unchanged .waitBusy (slotDetail w)
    | none =>
      ⟨⟨u.setEntry h.slot ⟨h.gen + 1, .held { c.fullLease with owner := sup }⟩, [], [c.range]⟩, .ok,
        some (Handle.encode ⟨h.slot, h.gen + 1⟩)⟩

/-- FORCE_RELEASE by the supervisor port sup (Table 4.4, R79). -/
def LockUnit.forceRelease (u : LockUnit) (sup : Port) (k : LockSlot) : LockAnswer :=
  match (u.entry k).state with
  | .free => u.unchanged .ok none
  | .waiting c _ => ⟨u.releaseAndSweep k [(c.owner, .lockWaitEnded (u.handleAt k) .forced)] [], .ok, none⟩
  | .held c => ⟨u.releaseAndSweep k [(c.owner, .lockBroken (u.handleAt k) .forced)] [c.range], .ok, none⟩
  | .orphaned c _ _ =>
    ⟨u.releaseAndSweep k [(sup, .lockOrphanReleased (u.handleAt k) c.owner .forced)] [c.range], .ok, none⟩

/-! ### Timers -/

/-- An entry's running timer counts down by one at a timebase boundary (R41, R42, R44, R73). -/
def EntryState.tick : EntryState → EntryState
  | .free => .free
  | .waiting c left => .waiting c (left - 1)
  | .held c => .held (if c.leaseLen = 0 then c else { c with leaseLeft := c.leaseLeft - 1 })
  | .orphaned c left ad => .orphaned c (left - 1) ad

/-- The Lock Unit's part of a timebase boundary (R41). -/
def LockUnit.tick (u : LockUnit) : LockUnit :=
  { u with table := mapVector (fun e => { e with state := e.state.tick }) u.table }

/-- The expiry of a HELD entry's lease (R43), when its count has come to 0. -/
def LockUnit.leaseExpiry (u : LockUnit) (k : LockSlot) : Option LockEffect :=
  match (u.entry k).state with
  | .held c =>
    if c.leaseLen ≠ 0 ∧ c.leaseLeft = 0 then
      some (u.releaseAndSweep k [(c.owner, .lockBroken (u.handleAt k) .lease)] [c.range])
    else none
  | _ => none

/-- The expiry of a wait timer (R44). -/
def LockUnit.waitExpiry (u : LockUnit) (k : LockSlot) : Option LockEffect :=
  match (u.entry k).state with
  | .waiting c left =>
    if left = 0 then some (u.releaseAndSweep k [(c.owner, .lockWaitEnded (u.handleAt k) .waitLimit)] []) else none
  | _ => none

/-- The expiry of an orphan timer (R74). -/
def LockUnit.orphanExpiry (u : LockUnit) (sup : Port) (k : LockSlot) : Option LockEffect :=
  match (u.entry k).state with
  | .orphaned c left _ =>
    if left = 0 then
      some (u.releaseAndSweep k [(c.owner, .lockBroken (u.handleAt k) .orphanExpired),
        (sup, .lockOrphanReleased (u.handleAt k) c.owner .orphanExpired)] [c.range])
    else none
  | _ => none

/-- A report restarts the lease of one entry it names, where the handle is honoured, the entry HELD and leased
(R42). -/
def LockUnit.restartLease (u : LockUnit) (h : Handle) : LockUnit :=
  match u.honoured h with
  | some (.held c) => if c.leaseLen = 0 then u else u.place h.slot (.held c.fullLease)
  | _ => u

/-- A lease restart report taken (R42). -/
def LockUnit.restartLeases (u : LockUnit) (names : List Handle) : LockUnit := names.foldl LockUnit.restartLease u

/-! ### The port-down event -/

/-- REMOVE_WAITING_ENTRY (R69). -/
def LockUnit.removeWaiting (u : LockUnit) (p : Port) : LockUnit × List Handed :=
  match u.waitingOf p with
  | some k => (u.release k, [(p, .lockWaitEnded (u.handleAt k) .portDown)])
  | none => (u, [])

/-- ORPHAN_ENTRY (R70). -/
def LockUnit.orphan (u : LockUnit) (loss : Loss) (hold : Nat) (sup : Port) (k : LockSlot) : LockUnit × List Handed :=
  match (u.entry k).state with
  | .held c =>
    (u.place k (.orphaned c hold (decide (loss = .soft))),
      [(sup, .lockOrphaned (u.handleAt k) c.owner (decide (loss = .soft)))])
  | _ => (u, [])

/-- Each of some HELD entries is orphaned, in order (R70). -/
def LockUnit.orphanAll (u : LockUnit) (loss : Loss) (hold : Nat) (sup : Port) : List LockSlot → LockUnit × List Handed
  | [] => (u, [])
  | k :: rest =>
    (((u.orphan loss hold sup k).1.orphanAll loss hold sup rest).1,
      (u.orphan loss hold sup k).2 ++ ((u.orphan loss hold sup k).1.orphanAll loss hold sup rest).2)

/-- A HELD entry released at a port-down event with ORPHAN_HOLD 0 (R71), before the sweep. -/
def LockUnit.breakHeld (u : LockUnit) (sup : Port) (k : LockSlot) : LockEffect :=
  match (u.entry k).state with
  | .held c =>
    ⟨u.release k, [(c.owner, .lockBroken (u.handleAt k) .orphanExpired),
      (sup, .lockOrphanReleased (u.handleAt k) c.owner .orphanExpired)], [c.range]⟩
  | _ => ⟨u, [], []⟩

/-- Each of some HELD entries is released, in order (R71). -/
def LockUnit.breakAll (u : LockUnit) (sup : Port) : List LockSlot → LockEffect
  | [] => ⟨u, [], []⟩
  | k :: rest =>
    ⟨((u.breakHeld sup k).unit.breakAll sup rest).unit,
      (u.breakHeld sup k).events ++ ((u.breakHeld sup k).unit.breakAll sup rest).events,
      (u.breakHeld sup k).released ++ ((u.breakHeld sup k).unit.breakAll sup rest).released⟩

/-- Steps 1 and 2 of R68: the waiting entry removed, the held entries orphaned or released. -/
def LockUnit.loseEntries (u : LockUnit) (p : Port) (loss : Loss) (hold : Nat) (sup : Port) : LockEffect :=
  let w := u.removeWaiting p
  if hold = 0 then
    let b := w.1.breakAll sup (w.1.heldBy p)
    ⟨b.unit, w.2 ++ b.events, b.released⟩
  else
    let o := w.1.orphanAll loss hold sup (w.1.heldBy p)
    ⟨o.1, w.2 ++ o.2, []⟩

/-- The port-down claim (R68): steps 1 and 2, one sweep if an entry was removed or released, the announcements. -/
def LockUnit.portDown (u : LockUnit) (p : Port) (loss : Loss) (hold : Nat) (sup : Port) : LockEffect :=
  let e := u.loseEntries p loss hold sup
  if (u.waitingOf p).isSome ∨ e.released ≠ [] then ⟨e.unit.sweep.1, e.events ++ e.unit.sweep.2, e.released⟩ else e

/-- The Lock Unit takes port p's port-down event, if one waits. -/
def State.takeLockPortDown (s : State) (p : Port) : State :=
  match (s.portDown p).lock with
  | none => s
  | some loss =>
    (s.lockEffect (s.locks.portDown p loss s.settings.orphanHold.toNat s.supervisor)).setPortDown p
      { s.portDown p with lock := none }

/-! ### Reset -/

/-- An entry at warm reset (R51): FREE, its generation advanced if it was outside FREE. -/
def LockEntry.warmReset (e : LockEntry) : LockEntry :=
  match e.state with
  | .free => e
  | .waiting _ _ => ⟨e.gen + 1, .free⟩
  | .held _ => ⟨e.gen + 1, .free⟩
  | .orphaned _ _ _ => ⟨e.gen + 1, .free⟩

/-- The Lock Unit at warm reset (R51). -/
def LockUnit.warmReset (u : LockUnit) : LockUnit := ⟨mapVector LockEntry.warmReset u.table, []⟩

/-! ### The commands -/

/-- A lock request's answer put into State and returned to the dispatcher (R26). -/
def State.lockAnswer (s : State) (p : Port) (a : LockAnswer) : State :=
  (s.lockEffect a.effect).answer p a.status a.detail []

/-- A claim that is an expiry, taken when its timer has run out. -/
def State.expire (s : State) : Option LockEffect → State
  | some e => s.lockEffect e
  | none => s

/-- LEASE_EXPIRY (R43). -/
def execLeaseExpiry (k : LockSlot) (s : State) : Host.Outcome State Fault Refusal :=
  .next (s.expire (s.locks.leaseExpiry k))

/-- WAIT_EXPIRY (R44). -/
def execWaitExpiry (k : LockSlot) (s : State) : Host.Outcome State Fault Refusal :=
  .next (s.expire (s.locks.waitExpiry k))

/-- ORPHAN_EXPIRY (R74). -/
def execOrphanExpiry (k : LockSlot) (s : State) : Host.Outcome State Fault Refusal :=
  .next (s.expire (s.locks.orphanExpiry s.supervisor k))

/-- LEASE_RESTART_REPORT (R42): the oldest report waiting is taken. -/
def execLeaseRestartReport (s : State) : Host.Outcome State Fault Refusal :=
  match s.reports with
  | names :: rest => .next { s with reports := rest, locks := s.locks.restartLeases names }
  | [] => .next s

/-- LOCK (R28). -/
def execLock (p : Port) (s : State) : Host.Outcome State Fault Refusal :=
  match s.request p with
  | some (.lock first count mode wait limit lease) =>
    .next (s.lockAnswer p (s.locks.lock p ⟨p, mode, first, count, lease, lease⟩ wait limit
      (s.settings.quota[p]).toNat s.settings.waitDefault.toNat))
  | _ => .next s

/-- UNLOCK (R37). -/
def execUnlock (p : Port) (s : State) : Host.Outcome State Fault Refusal :=
  match s.request p with
  | some (.unlock h) => .next (s.lockAnswer p (s.locks.unlock p h))
  | _ => .next s

/-- RENEW (R39). -/
def execRenew (p : Port) (s : State) : Host.Outcome State Fault Refusal :=
  match s.request p with
  | some (.renew h lease) => .next (s.lockAnswer p (s.locks.renew p h lease))
  | _ => .next s

/-- ADOPT (R75). -/
def execAdopt (p : Port) (s : State) : Host.Outcome State Fault Refusal :=
  match s.request p with
  | some (.adopt h) => .next (s.lockAnswer p (s.locks.adopt p h))
  | _ => .next s

/-- RECLAIM (R77): supervisor only (R172). -/
def execReclaim (p : Port) (s : State) : Host.Outcome State Fault Refusal :=
  match s.request p with
  | some (.reclaim h) =>
    if p = s.supervisor then .next (s.lockAnswer p (s.locks.reclaim p h))
    else .next (s.answer p .notSupervisor none [])
  | _ => .next s

/-- FORCE_RELEASE (R79): supervisor only (R172). -/
def execForceRelease (p : Port) (s : State) : Host.Outcome State Fault Refusal :=
  match s.request p with
  | some (.forceRelease k) =>
    if p = s.supervisor then .next (s.lockAnswer p (s.locks.forceRelease p k))
    else .next (s.answer p .notSupervisor none [])
  | _ => .next s

/-- LOCK_QUERY (R40). -/
def execLockQuery (p : Port) (s : State) : Host.Outcome State Fault Refusal :=
  match s.request p with
  | some (.lockQuery k) => .next (s.answer p .ok none (lockReport (s.locks.entry k) (s.locks.arrival k)))
  | _ => .next s

/-- LOCK_PORT_DOWN (R68). -/
def execLockPortDown (p : Port) (s : State) : Host.Outcome State Fault Refusal := .next (s.takeLockPortDown p)

end Sys2Proof.Machine
end

