-- ==== Sys2Proof/Machine/Notices.lean ====
section
/-! DEFINITION. The Notice Unit (ch7): taking events, sending, acknowledgement, rewind and emptying. -/

namespace Sys2Proof.Machine

/-- The record is PENDING. -/
def NoticeRecord.isPending (r : NoticeRecord) : Bool := r.sent.isNone

/-- The record is PENDING with the given subject. -/
def NoticeRecord.pendingOn (r : NoticeRecord) (j : Subject) : Bool := r.isPending && decide (r.event.subject = j)

/-- Occurrences added, held at 255 (R136, R142). -/
def addOccurrences (a b : Nat) : Nat := min 255 (a + b)

/-- An event merged into a record (R136). -/
def NoticeRecord.merge (r : NoticeRecord) (e : NoticeEvent) : NoticeRecord :=
  { r with event := e, occurrences := addOccurrences r.occurrences 1 }

/-- An accepted event placed in a queue (R136): merged into the PENDING record of its subject, or a new record at
the tail. -/
def placeEvent (q : List NoticeRecord) (e : NoticeEvent) : List NoticeRecord :=
  if q.any (fun r => r.pendingOn e.subject) then q.map (fun r => if r.pendingOn e.subject then r.merge e else r)
  else q ++ [⟨e, 1, none⟩]

/-- The queue of a port accepts events in this link state (R136). -/
def LinkState.accepts : LinkState → Bool
  | .off => false
  | .down => true
  | .training => true
  | .up => true
  | .fenced => false

/-- The Notice Unit takes one event for a port (R136). The link state is the one held when the event is taken, for the events of a hard
loss too: R69 and R71 say that they are discarded, which R136 does not do once the link has become DOWN (log entry 35). -/
def State.takeEvent (s : State) (p : Port) (e : NoticeEvent) : State :=
  if (s.link p).link.accepts then s.setQueue p (placeEvent (s.queue p) e) else s

/-- How many records of a queue are SENT. -/
def sentCount (q : List NoticeRecord) : Nat := (q.filter fun r => !r.isPending).length

/-- The notice a queue offers to the outbound path when its link is UP (R139): the first PENDING record, while
fewer than 4 are SENT. -/
def offered (q : List NoticeRecord) : Option NoticeRecord :=
  if sentCount q < 4 then q.find? (fun r => r.isPending) else none

/-- The first PENDING record becomes SENT with a sequence number (R139). -/
def markSent (seq : Byte) : List NoticeRecord → List NoticeRecord
  | [] => []
  | r :: rest => if r.isPending then { r with sent := some seq } :: rest else r :: markSent seq rest

/-- NOTICE_ACK on a queue (R141): the SENT record with the number and every one sent before it go; none where no
SENT record carries the number. -/
def acknowledge (seq : Byte) (q : List NoticeRecord) : Option (List NoticeRecord) :=
  if q.any (fun r => decide (r.sent = some seq)) then some ((q.dropWhile fun r => decide (r.sent ≠ some seq)).drop 1)
  else none

/-- A returning SENT record among those returned before it (R142): merged into the one of its subject, whose place
it takes and whose news it replaces, or put behind them. -/
def returnSent (back : List NoticeRecord) (r : NoticeRecord) : List NoticeRecord :=
  if back.any (fun b => decide (b.event.subject = r.event.subject)) then
    back.map fun b => if b.event.subject = r.event.subject then
      ⟨r.event, addOccurrences b.occurrences r.occurrences, none⟩ else b
  else back ++ [⟨r.event, r.occurrences, none⟩]

/-- A returned record joined with the PENDING record of its subject that stood before the rewind, if there is one:
that one is the newer, and the returned one's place is the earlier (R142). -/
def joinPending (pending : List NoticeRecord) (b : NoticeRecord) : NoticeRecord :=
  match pending.find? (fun r => decide (r.event.subject = b.event.subject)) with
  | some r => ⟨r.event, addOccurrences b.occurrences r.occurrences, none⟩
  | none => b

/-- NOTICE_REWIND on a queue (R142): the SENT records return in the order of sending, first merged with one
another, then with the PENDING records, whose unmerged rest stays behind them in its order. -/
def rewind (q : List NoticeRecord) : List NoticeRecord :=
  let pending := q.filter fun r => r.isPending
  let back := (q.filter fun r => !r.isPending).foldl returnSent []
  back.map (joinPending pending)
    ++ pending.filter fun r => !(back.any fun b => decide (b.event.subject = r.event.subject))

/-- The Notice Unit takes port p's port-down event (R142, R143). An emptying that is still untaken when the link has become DOWN waits
and removes what the queue has accepted since, too (log entry 36). -/
def State.takeNoticePortDown (s : State) (p : Port) : State :=
  match (s.portDown p).notice with
  | none => s
  | some .soft => (s.setQueue p (rewind (s.queue p))).setPortDown p { s.portDown p with notice := none }
  | some .hard => (s.setQueue p []).setPortDown p { s.portDown p with notice := none }

/-- The waiting events with the first event of action k taken out (R137). -/
def dropEvent (k : Nat) (rest : List Handed) (l : List (List Handed)) : List (List Handed) :=
  if rest = [] then l.eraseIdx k else l.set k rest

/-- NOTICE_EVENT (R136, R137): the first event still waiting of the k-th waiting action is taken. Actions are taken in any order (log
entry 12), a peer's PEER_DOWN and its later PEER_UP too, though R145 has the PEER_UP last (log entry 39). -/
def execNoticeEvent (k : Nat) (s : State) : Host.Outcome State Fault Refusal :=
  match s.events[k]? with
  | some ((p, e) :: rest) => .next (({ s with events := dropEvent k rest s.events } : State).takeEvent p e)
  | some [] => .next s
  | none => .next s

/-- NOTICE_ACK (R141). -/
def execNoticeAck (p : Port) (s : State) : Host.Outcome State Fault Refusal :=
  match s.request p with
  | some (.noticeAck seq) =>
    match acknowledge seq (s.queue p) with
    | some q => .next ((s.setQueue p q).answer p .ok none [])
    | none => .next (s.answer p .badSequence none [])
  | _ => .next s

/-- NOTICE_REWIND (R142): the Notice Unit takes a soft-loss port-down event. -/
def execNoticeRewind (p : Port) (s : State) : Host.Outcome State Fault Refusal :=
  if (s.portDown p).notice = some .soft then .next (s.takeNoticePortDown p) else .next s

/-- NOTICE_QUEUE_EMPTY (R143): the Notice Unit takes a hard-loss port-down event. -/
def execNoticeQueueEmpty (p : Port) (s : State) : Host.Outcome State Fault Refusal :=
  if (s.portDown p).notice = some .hard then .next (s.takeNoticePortDown p) else .next s

end Sys2Proof.Machine
end

