-- ==== Sys2Proof/Machine/Ports.lean ====
section
/-! DEFINITION. The port links (ch8): training, loss and return of a link, requests and replies in, packets out. -/

namespace Sys2Proof.Machine

/-! ### The port-down event -/

/-- The ports other than p, in order. -/
def otherPorts (p : Port) : List Port := allPorts.filter fun q => q != p

/-- The dispatcher's request survives a port-down event when it has been taken: a direct access granted (R164). -/
def keptService : Option Service → Option Service
  | some sv => if sv.stage = .granted then some { sv with discard := true } else none
  | none => none

/-- The tags in use of the request in service. -/
def serviceTags : Option Service → List Nat
  | some sv => [(sv.pkt.tag.setWidth 4).toNat]
  | none => []

/-- Steps 1 to 4 of R163, and the end of training's fields. -/
def LinkController.lose (lc : LinkController) (dest : LinkState) (cause : DownCause) : LinkController :=
  { lc with link := dest, downCause := cause, trainTimer := none, readyTaken := none, inbound := [],
            service := keptService lc.service, responses := [],
            heldCount := (serviceTags (keptService lc.service)).length, tags := serviceTags (keptService lc.service) }

/-- Step 5 of R163 for one slot: an outstanding request is dropped, its slot freed, the drop handed to its channel. -/
def State.dropSlot (s : State) (p : Port) (h : HubSlot) : State :=
  match (s.link p).outstanding h with
  | some o => (s.setLink p ((s.link p).freeSlotOf h)).claim p (.ending o.req .dropped)
  | none => s

/-- Step 5 of R163: every outstanding request dropped in ascending slot order, sent or not, so that none is left to send;
every waiting one discarded. -/
def State.dropAll (s : State) (p : Port) : State :=
  let t := allHubSlots.foldl (fun t h => t.dropSlot p h) s
  t.setLink p { t.link p with waiting := Vector.replicate 8 [], unsent := [] }

/-- Step 6 of R163: the event is handed to the Lock Unit, the Channel Engine, the Notice Unit and the arbiter. -/
def State.handPortDown (s : State) (p : Port) (loss : Loss) : State :=
  (s.claim p (.portDown loss)).setPortDown p ⟨some loss, some loss, true⟩

/-- Step 7 of R163: PEER_DOWN for each of the other ports (R145), in ascending port order, which no rule gives (log
entry 33). -/
def State.handPeerDown (s : State) (p : Port) (cause : DownCause) : State :=
  s.hand ((otherPorts p).map fun q => (q, .peerDown p cause))

/-- PORT_DOWN_EVENT (R162, R163): the link leaves UP for the given state. -/
def State.portDownEvent (s : State) (p : Port) (dest : LinkState) (cause : DownCause) (loss : Loss) : State :=
  (((s.setLink p ((s.link p).lose dest cause)).dropAll p).handPortDown p loss).handPeerDown p cause

/-! ### The arbiter at a port-down event -/

/-- A channel's waiting access is withdrawn (R16). -/
def State.withdrawAccess (s : State) (c : Channel) : State := s.setWaiting c none

/-- The dispatcher's waiting access is withdrawn (R20): a request presented and not granted leaves the dispatcher. -/
def LinkController.withdrawPresented (lc : LinkController) : LinkController :=
  match lc.service with
  | some sv =>
    if sv.stage = .presented then
      LinkController.dispatch { lc with service := none, heldCount := lc.heldCount - 1,
                                        tags := setErase (sv.pkt.tag.setWidth 4).toNat lc.tags }
    else lc
  | none => lc

/-- The arbiter takes port p's port-down event (R20). What a RUNNING channel then does before it takes its own port-down
claim the spec leaves open (R114): the chunk of a withdrawn access stays WRITING or REQUESTED and is not presented again; an
action that moves the channel on meanwhile may present a next access (log entry 31). A STALLED channel whose retry is withdrawn keeps
its chunk as it stood, and an announcement taken before that claim presents the refused access again (R124, log entry 38). -/
def State.takeArbiterPortDown (s : State) (p : Port) : State :=
  if (s.portDown p).arbiter then
    let t := (s.boundTo p).foldl (fun t c => t.withdrawAccess c) s
    (t.setLink p (t.link p).withdrawPresented).setPortDown p { t.portDown p with arbiter := false }
  else s

/-! ### The port-up event -/

/-- What the other blocks have not yet taken of port p's last port-down event, they take now: every such claim is
taken before the port comes UP again (R144, log entry 10). -/
def State.settlePort (s : State) (p : Port) : State :=
  let t := (s.takeLockPortDown p).takeArbiterPortDown p
  (t.takeClaims p (t.claimsOf p).length).takeNoticePortDown p

/-- The Link Controller's own part of a port-up event (R165). -/
def LinkController.bringUp (lc : LinkController) : LinkController :=
  { lc with link := .up, trainTimer := none, readyTaken := none, heldCount := 0, tags := [], noticeSeq := 0#8,
            turn := .other }

/-- PORT_UP_EVENT (R165), its PEER_UP events in ascending port order (log entry 33). The events of the claims settled in it are lists of
their own (log entry 37). -/
def State.portUpEvent (s : State) (p : Port) : State :=
  let t := s.settlePort p
  ((t.setLink p (t.link p).bringUp).hand ((otherPorts p).map fun q => (q, .peerUp p))).giveSlots p

/-! ### Training -/

/-- A TRAINING link returns to DOWN (R152). -/
def LinkController.failTraining (lc : LinkController) : LinkController :=
  { lc with link := .down, trainTimer := none, readyTaken := none }

/-- A link goes to another state without a port-down event (R149, R166). -/
def LinkController.moveTo (lc : LinkController) (dest : LinkState) : LinkController :=
  { lc with link := dest, trainTimer := none, readyTaken := none }

/-- The hub's HELLO goes out on port p's link (R150). -/
def State.sendHello (s : State) (p : Port) : State := s.send p (helloPacket p s.supervisor)

/-- A HELLO with a good check code (R150, R151, R153). -/
def State.receiveHello (s : State) (p : Port) : State :=
  match (s.link p).link with
  | .down =>
    if s.hubrdy then
      (s.setLink p { s.link p with link := .training, trainTimer := some s.settings.trainWindow.toNat,
                                   readyTaken := some false }).sendHello p
    else s
  | .training => s.sendHello p
  | .up | .off | .fenced => s

/-- A valid READY is taken (R151): slots allowed is set, and the link goes UP if the dispatcher is IDLE. -/
def State.takeReady (s : State) (p : Port) (n : Nat) : State :=
  let t := s.setLink p { s.link p with slotsAllowed := n, readyTaken := some true }
  if (t.link p).service.isNone then t.portUpEvent p else t

/-- A READY with a good check code (R151, R153); the hub reads bits 7 to 0 of its word alone (R184). -/
def State.receiveReady (s : State) (p : Port) (word : Word) : State :=
  match (s.link p).link with
  | .training =>
    if (s.link p).readyTaken = some true then s
    else if field word 0 8 = 0 ∨ 8 < field word 0 8 then s.setLink p (s.link p).failTraining
    else s.takeReady p (field word 0 8)
  | .down | .up | .off | .fenced => s

/-! ### Loss of the link -/

/-- The link fails (R152, R161): a soft loss from UP, the end of training in TRAINING, nothing otherwise. -/
def State.linkFails (s : State) (p : Port) (cause : DownCause) : State :=
  match (s.link p).link with
  | .up => s.portDownEvent p .down cause .soft
  | .training => s.setLink p (s.link p).failTraining
  | .down | .off | .fenced => s

/-! ### Packets in -/

/-- The 4-bit tag of a request packet (R154). -/
def requestTag (pkt : Packet) : Nat := (pkt.tag.setWidth 4).toNat

/-- A request joins the inbound queue and the dispatcher takes what it can (step 3 of R154, R155). -/
def LinkController.accept (lc : LinkController) (pkt : Packet) : LinkController :=
  LinkController.dispatch { lc with inbound := lc.inbound ++ [pkt], tags := setInsert (requestTag pkt) lc.tags,
                                    heldCount := lc.heldCount + 1 }

/-- A request packet (R153, R154); in TRAINING it ends training (R152). -/
def State.receiveRequest (s : State) (p : Port) (pkt : Packet) : State :=
  match (s.link p).link with
  | .up =>
    if 16 ≤ (s.link p).heldCount then s.portDownEvent p .down .overrun .soft
    else if requestTag pkt ∈ (s.link p).tags then s.portDownEvent p .down .tagReuse .soft
    else s.setLink p ((s.link p).accept pkt)
  | .training => s.setLink p (s.link p).failTraining
  | .down | .off | .fenced => s

/-- The slot a reply's tag byte names (Table 10.1). -/
def replySlot (tag : Byte) : HubSlot := Fin.ofNat 8 ((tag.toNat / 16) % 8)

/-- The sequence a reply's tag byte carries. -/
def replySeq (tag : Byte) : BitVec 4 := tag.setWidth 4

/-- The request a reply matches (R159): bit 7 of the tag clear, the slot outstanding and sent, the sequence equal, and
the kind of reply the one that answers it. -/
def LinkController.matched (lc : LinkController) (tag : Byte) (answers : HubOp → Bool) : Option HubRequest :=
  match lc.outstanding (replySlot tag) with
  | some o =>
    if tag.toNat < 128 ∧ o.timer.isSome ∧ (lc.slots[replySlot tag]).seq = replySeq tag ∧ answers o.req.op then
      some o.req
    else none
  | none => none

/-- A FETCH_REPLY answers a FETCH. -/
def HubOp.isFetch : HubOp → Bool
  | .fetch _ _ => true
  | .store _ _ => false

/-- A STORE_REPLY answers a STORE. -/
def HubOp.isStore : HubOp → Bool
  | .fetch _ _ => false
  | .store _ _ => true

/-- The status byte of a reply's word 0 is OK (R184); a reply without words has no OK (log entry 5). -/
def replyOk : List Word → Bool
  | w :: _ => field w 0 8 == 0
  | [] => false

/-- The ending that a FETCH_REPLY gives (R159): OK with exactly the bytes asked, otherwise FAILED. -/
def fetchEnding (op : HubOp) (payload : List Word) : Ending :=
  match op with
  | .fetch _ len => if replyOk payload ∧ 4 * (payload.drop 1).length = len then .replyOk (payload.drop 1) else .replyFailed
  | .store _ _ => .replyFailed

/-- The ending that a STORE_REPLY gives. -/
def storeEnding (payload : List Word) : Ending := if replyOk payload then .replyOk [] else .replyFailed

/-- A matched reply ends its request (R159): the slot is freed, the ending is handed to the channel, and free slots
are given (R158). -/
def State.endRequest (s : State) (p : Port) (h : HubSlot) (r : HubRequest) (how : Ending) : State :=
  ((s.setLink p ((s.link p).freeSlotOf h)).claim p (.ending r how)).giveSlots p

/-- A FETCH_REPLY with a good check code (R153, R159); in TRAINING it ends training (R152). -/
def State.receiveFetchReply (s : State) (p : Port) (tag : Byte) (payload : List Word) : State :=
  match (s.link p).link with
  | .up =>
    match (s.link p).matched tag HubOp.isFetch with
    | some r => s.endRequest p (replySlot tag) r (fetchEnding r.op payload)
    | none => s
  | .training => s.setLink p (s.link p).failTraining
  | .down | .off | .fenced => s

/-- A STORE_REPLY with a good check code (R153, R159). -/
def State.receiveStoreReply (s : State) (p : Port) (tag : Byte) (payload : List Word) : State :=
  match (s.link p).link with
  | .up =>
    match (s.link p).matched tag HubOp.isStore with
    | some r => s.endRequest p (replySlot tag) r (storeEnding payload)
    | none => s
  | .training => s.setLink p (s.link p).failTraining
  | .down | .off | .fenced => s

/-- A packet with a good check code is taken by its kind byte (R184). -/
def State.receivePacket (s : State) (p : Port) (pkt : Packet) : State :=
  match pkt.kind.toNat with
  | 0x58 => s.receiveFetchReply p pkt.tag pkt.payload
  | 0x59 => s.receiveStoreReply p pkt.tag pkt.payload
  | 0x60 => s.receiveHello p
  | 0x61 => s.receiveReady p (pkt.payload.headD 0#32)
  | _ => s.receiveRequest p pkt

/-! ### Packets out -/

/-- A class of outbound packet (R157). -/
inductive Outbound where
  | response
  | notice
  | hubRequest
  deriving DecidableEq, Repr

/-- What a port sends when no hub request goes: the head response if any, otherwise the offered notice (R157). -/
def State.otherOutbound (s : State) (p : Port) : Option Outbound :=
  if (s.link p).responses ≠ [] then some .response
  else if (offered (s.queue p)).isSome then some .notice
  else none

/-- The outbound choice (Table 8.4). -/
def State.outbound (s : State) (p : Port) : Option Outbound :=
  if (s.link p).link = .up then
    if (s.link p).unsent = [] then s.otherOutbound p
    else match s.otherOutbound p with
      | none => some .hubRequest
      | some o => if (s.link p).turn = .hub then some .hubRequest else some o
  else none

/-- The head of the response queue is sent (R156). -/
def State.sendResponse (s : State) (p : Port) : State :=
  match (s.link p).responses with
  | r :: rest =>
    (s.setLink p { s.link p with responses := rest, tags := setErase r.tag.toNat (s.link p).tags,
                                 heldCount := (s.link p).heldCount - 1, turn := .hub }).send p r.packet
  | [] => s

/-- The offered notice is sent (R139, R140). -/
def State.sendNotice (s : State) (p : Port) : State :=
  match offered (s.queue p) with
  | some r =>
    (((s.setQueue p (markSent (s.link p).noticeSeq (s.queue p))).setLink p
      { s.link p with noticeSeq := (s.link p).noticeSeq + 1, turn := .hub })).send p
      (noticePacket r (s.link p).noticeSeq)
  | none => s

/-- A slot's request is sent: its timer starts (R158). -/
def LinkController.startTimer (lc : LinkController) (h : HubSlot) (o : Outstanding) (timeout : Nat) : LinkController :=
  { lc with slots := lc.slots.set h ⟨(lc.slots[h]).seq, some { o with timer := some timeout }⟩ }

/-- The oldest ready hub request is sent (R157, R158). -/
def State.sendHubRequest (s : State) (p : Port) : State :=
  match (s.link p).unsent with
  | h :: rest =>
    match (s.link p).outstanding h with
    | some o =>
      (s.setLink p { (s.link p).startTimer h o s.settings.responseTimeout.toNat with unsent := rest, turn := .other }).send
        p (o.req.op.packet (hubTag h ((s.link p).slots[h]).seq))
    | none => s
  | [] => s

/-! ### Timers of a link -/

/-- A slot's timer counts down by one (R158). -/
def HubSlotState.tick (h : HubSlotState) : HubSlotState :=
  { h with held := h.held.map fun o => { o with timer := o.timer.map (· - 1) } }

/-- A Link Controller's part of a timebase boundary (R152, R158). -/
def LinkController.tick (lc : LinkController) : LinkController :=
  { lc with trainTimer := lc.trainTimer.map (· - 1), slots := mapVector HubSlotState.tick lc.slots }

/-- A slot's timer has run out. -/
def LinkController.timedOut (lc : LinkController) (h : HubSlot) : Option HubRequest :=
  match lc.outstanding h with
  | some o => if o.timer = some 0 then some o.req else none
  | none => none

/-! ### The port reset line -/

/-- Assertion of PRSTn (R149). -/
def State.assertPrst (s : State) (p : Port) : State :=
  let t := s.setLink p { s.link p with prst := true }
  match (s.link p).link with
  | .up => t.portDownEvent p .off .portReset .hard
  | .down | .training => t.setLink p ((t.link p).moveTo .off)
  | .off | .fenced => t

/-- Release of PRSTn (R149). -/
def State.releasePrst (s : State) (p : Port) : State :=
  let t := s.setLink p { s.link p with prst := false }
  match (s.link p).link with
  | .off => t.setLink p ((t.link p).moveTo .down)
  | .up | .down | .training | .fenced => t

/-! ### The commands -/

/-- PRSTN_ASSERT (R149). -/
def execPrstnAssert (p : Port) (s : State) : Host.Outcome State Fault Refusal := .next (s.assertPrst p)

/-- PRSTN_RELEASE (R149). -/
def execPrstnRelease (p : Port) (s : State) : Host.Outcome State Fault Refusal := .next (s.releasePrst p)

/-- TRAIN_WINDOW_EXPIRY (R152). -/
def execTrainWindowExpiry (p : Port) (s : State) : Host.Outcome State Fault Refusal :=
  if (s.link p).link = .training ∧ (s.link p).trainTimer = some 0 then .next (s.setLink p (s.link p).failTraining)
  else .next s

/-- SLOT_TIMEOUT (R160). -/
def execSlotTimeout (p : Port) (h : HubSlot) (s : State) : Host.Outcome State Fault Refusal :=
  match (s.link p).timedOut h with
  | some r => .next (s.endRequest p h r .timeout)
  | none => .next s

/-- HELLO (R150). -/
def execHello (p : Port) (s : State) : Host.Outcome State Fault Refusal := .next (s.receiveHello p)

/-- READY (R151). -/
def execReady (p : Port) (word : Word) (s : State) : Host.Outcome State Fault Refusal := .next (s.receiveReady p word)

/-- LOSS_OF_SIGNAL (R161). -/
def execLossOfSignal (p : Port) (s : State) : Host.Outcome State Fault Refusal := .next (s.linkFails p .linkLoss)

/-- BAD_CHECK_PACKET (R161). -/
def execBadCheckPacket (p : Port) (s : State) : Host.Outcome State Fault Refusal := .next (s.linkFails p .linkError)

/-- REQUEST_RECEIVED (R154), by the packet's kind byte (R184). -/
def execRequestReceived (p : Port) (pkt : Packet) (s : State) : Host.Outcome State Fault Refusal :=
  .next (s.receivePacket p pkt)

/-- FETCH_REPLY (R159). -/
def execFetchReply (p : Port) (tag : Byte) (payload : List Word) (s : State) : Host.Outcome State Fault Refusal :=
  .next (s.receiveFetchReply p tag payload)

/-- STORE_REPLY (R159). -/
def execStoreReply (p : Port) (tag : Byte) (payload : List Word) (s : State) : Host.Outcome State Fault Refusal :=
  .next (s.receiveStoreReply p tag payload)

/-- RESPONSE_SENT (R156), when the outbound path chooses a response (R157). -/
def execResponseSent (p : Port) (s : State) : Host.Outcome State Fault Refusal :=
  if s.outbound p = some .response then .next (s.sendResponse p) else .next s

/-- NOTICE_SENT (R139), when the outbound path chooses a notice (R157). -/
def execNoticeSent (p : Port) (s : State) : Host.Outcome State Fault Refusal :=
  if s.outbound p = some .notice then .next (s.sendNotice p) else .next s

/-- HUB_REQUEST_SENT (R158), when the outbound path chooses a hub request (R157). -/
def execHubRequestSent (p : Port) (s : State) : Host.Outcome State Fault Refusal :=
  if s.outbound p = some .hubRequest then .next (s.sendHubRequest p) else .next s

/-- ARBITER_PORT_DOWN (R20). -/
def execArbiterPortDown (p : Port) (s : State) : Host.Outcome State Fault Refusal := .next (s.takeArbiterPortDown p)

end Sys2Proof.Machine
end

