-- ==== Sys2Proof/Machine/Access.lean ====
section
/-! DEFINITION. The direct access requests and the Store Access Arbiter (ch1, ch3): presenting, granting and
completing store accesses. -/

namespace Sys2Proof.Machine

/-! ### Presenting -/

/-- The request in service comes to a later stage. -/
def LinkController.setStage (lc : LinkController) (st : Stage) : LinkController :=
  { lc with service := lc.service.map fun sv => { sv with stage := st } }

/-- The dispatcher's length and address checks on a direct request, and its presentation (R10). -/
def State.presentDirect (s : State) (p : Port) (addr : Word) (len : Option Word) : State :=
  match directCheck addr len with
  | some st => s.answer p st none []
  | none => s.setLink p ((s.link p).setStage .presented)

/-! ### Choosing -/

/-- The access that a dispatcher has waiting at the arbiter (R16). -/
def State.dispatcherAccess (s : State) (p : Port) : Option StoreAccess :=
  match (s.link p).service with
  | some sv => if sv.stage = .presented then (sv.req.access?).map (·.1) else none
  | none => none

/-- The access that a member of port p's group has waiting, with the chunk it serves (R16). -/
def State.memberAccess (s : State) (p : Port) (m : Member) : Option ChannelAccess :=
  match m with
  | .dispatcher => (s.dispatcherAccess p).map fun a => ⟨0, a⟩
  | .chan c => if (s.chan c).owner = some p then s.waitingAccess c else none

/-- Port p's group is waiting (R16). -/
def State.groupWaiting (s : State) (p : Port) : Bool := allMembers.any fun m => (s.memberAccess p m).isSome

/-- The port that the rotation chooses (R17). -/
def State.rotationPort (s : State) : Option Port :=
  (cyclicAfter allPorts s.arbiter.lastPort).find? fun p => s.groupWaiting p

/-- The port that PRIORITY_PORT names, when it names one (R18). -/
def State.priorityPort (s : State) : Option Port :=
  if s.settings.priorityPort.toNat < 4 then some (Fin.ofNat 4 s.settings.priorityPort.toNat) else none

/-- The port of a priority grant, when the next grant is one (R18). -/
def State.priorityGrant (s : State) : Option Port :=
  match s.priorityPort with
  | some p => if s.groupWaiting p ∧ s.arbiter.turn = .priority then some p else none
  | none => none

/-- The member chosen within port p's group (R17). -/
def State.chosenMember (s : State) (p : Port) : Option Member :=
  (cyclicAfter allMembers (s.arbiter.lastMember[p])).find? fun m => (s.memberAccess p m).isSome

/-- The rotation state after a grant to a member of port p (R17, R18). -/
def Arbiter.rotated (a : Arbiter) (p : Port) (m : Member) (isPriority : Bool) : Arbiter :=
  { a with lastPort := if isPriority then a.lastPort else p, lastMember := a.lastMember.set p m,
           turn := if isPriority then .rotation else .priority }

/-! ### Outcomes handed on -/

/-- The response to a direct access by its outcome (R11 to R15). -/
def directStatus : AccessOutcome → Status
  | .done _ _ => .ok
  | .guardFailed => .staleHandle
  | .lockRefused _ _ => .locked
  | .dataError => .dataError
  | .poisoned => .poisoned

/-- The detail of the response to a direct access (R54). -/
def directDetail : AccessOutcome → Option Half
  | .lockRefused k _ => slotDetail k
  | _ => none

/-- The words of the response to a direct access (section 10.3). -/
def directWords : AccessOutcome → List Word
  | .done data none => data
  | .done data (some swapped) => data ++ [lay 0 swapped.toNat]
  | _ => []

/-- The dispatcher discards the response of a request from before the loss (R164). -/
def LinkController.discardService (lc : LinkController) : LinkController :=
  { lc with service := none, tags := [], heldCount := 0 }

/-- The end of service of a request from before the loss: IDLE, and the link goes UP if READY was taken meanwhile
(R151, R164). -/
def State.endDiscarded (s : State) (p : Port) : State :=
  let t := s.setLink p (s.link p).discardService
  if (t.link p).link = .training ∧ (t.link p).readyTaken = some true then t.portUpEvent p else t

/-- DIRECT_ACCESS_RESPONSE (R11, R164). -/
def State.deliverDirect (s : State) (p : Port) (o : AccessOutcome) : State :=
  match (s.link p).service with
  | some sv => if sv.discard then s.endDiscarded p else s.answer p (directStatus o) (directDetail o) (directWords o)
  | none => s

/-- The outcome of an access goes to the dispatcher or the channel (R11, R122). -/
def State.deliver (s : State) (p : Port) (m : Member) (a : ChannelAccess) (o : AccessOutcome) : State :=
  match m with
  | .dispatcher => s.deliverDirect p o
  | .chan c => s.setOutcome c (some (a, o))

/-! ### Granting -/

/-- The granted access is no longer waiting: the dispatcher's request is taken, the channel's leaves its place. -/
def State.takeAccess (s : State) (p : Port) (m : Member) : State :=
  match m with
  | .dispatcher => s.setLink p ((s.link p).setStage .granted)
  | .chan c => s.setWaiting c none

/-- An access granted to a member of port p (R11, R19): the guard, lock and poison checks are made with the tables as
they stand; a refused access is over (log entry 9), another is in progress. -/
def State.startAccess (s : State) (p : Port) (m : Member) (a : ChannelAccess) : State :=
  let t := s.takeAccess p m
  match grantCheck s.locks s.poison p a.access with
  | some o => t.deliver p m a o
  | none =>
    t.setArbiter { t.arbiter with inProgress := some ⟨p, m, a.chunk, a.access, leaseReport s.locks p a.access⟩ }

/-- The grant made to port p, as a priority grant or by rotation. -/
def State.grantPort (s : State) (p : Port) (isPriority : Bool) : State :=
  match s.chosenMember p with
  | some m =>
    match s.memberAccess p m with
    | some a => (s.setArbiter (s.arbiter.rotated p m isPriority)).startAccess p m a
    | none => s
  | none => s

/-- The next grant (R17, R18). -/
def State.grantNext (s : State) : State :=
  match s.priorityGrant with
  | some p => s.grantPort p true
  | none =>
    match s.rotationPort with
    | some p => s.grantPort p false
    | none => s

/-! ### Carrying out -/

/-- What an access does to the store: the store after it, whether it met an uncorrectable word, its outcome. -/
structure AccessEffect where
  store   : Store
  met     : Bool
  outcome : AccessOutcome
  deriving DecidableEq, Repr

/-- An atomic on word w (R14, R15): what it writes, if anything, and its outcome, from the old value. -/
def atomicEffect (st : Store) (w : Nat) (new : Word → Option Word) (swapped : Word → Option Bool) : AccessEffect :=
  match st.condition w with
  | .uncorrectable => ⟨st, true, .dataError⟩
  | .clean | .singleBit =>
    match new (st.word w) with
    | some v => ⟨st.writeWord w v, false, .done [st.word w] (swapped (st.word w))⟩
    | none => ⟨st.correct w, false, .done [st.word w] (swapped (st.word w))⟩

/-- A granted access that passed its checks is carried out (R12 to R15, R2). -/
def StoreAccess.carryOut (a : StoreAccess) (st : Store) : AccessEffect :=
  let w := a.addr / 4
  match a.op with
  | .read n =>
    if st.anyUncorrectable w n then ⟨st.correctAll w n, true, .dataError⟩
    else ⟨st.correctAll w n, false, .done (st.words w n) none⟩
  | .write data => ⟨st.writeWords w data, false, .done [] none⟩
  | .fetchAdd x => atomicEffect st w (fun old => some (old + x)) (fun _ => none)
  | .swap v => atomicEffect st w (fun _ => some v) (fun _ => none)
  | .compareSwap e n =>
    atomicEffect st w (fun old => if old = e then some n else none) (fun old => some (decide (old = e)))

/-- The poison set after an access (R4, R6). -/
def poisonAfter (poison : List Nat) (a : StoreAccess) (met : Bool) : List Nat :=
  if met then setInsert (granuleOf a.addr) poison
  else if a.fullGranule then setErase (granuleOf a.addr) poison
  else poison

/-- POISON_GRANULE's event (step 2 of R4). -/
def State.handPoison (s : State) (a : StoreAccess) (met : Bool) : State :=
  if met then s.hand [(s.supervisor, .storePoison (granuleOf a.addr))] else s

/-- The lease restart report of a successful access (R60). -/
def State.reportAccess (s : State) (g : Granted) : AccessOutcome → State
  | .done _ _ => s.report g.report
  | _ => s

/-- The store, the poison set and the arbiter after the access in progress (R19). STORE_POISON of the arbiter and PEER_UP of a Link
Controller, handed where a discarded access ends and READY has been taken (R164), are two lists, in either order (log entry 37). -/
def State.finishAccess (s : State) (g : Granted) : State :=
  let e := g.access.carryOut s.store
  (((((s.setStore e.store).setPoison (poisonAfter s.poison g.access e.met)).handPoison g.access e.met).setArbiter
    { s.arbiter with inProgress := none }).reportAccess g e.outcome).deliver g.port g.member ⟨g.chunk, g.access⟩ e.outcome

/-! ### The commands -/

/-- READ (R10, R12). -/
def execRead (p : Port) (s : State) : Host.Outcome State Fault Refusal :=
  match s.request p with
  | some (.read addr len _) => .next (s.presentDirect p addr (some len))
  | _ => .next s

/-- WRITE (R10, R13). -/
def execWrite (p : Port) (s : State) : Host.Outcome State Fault Refusal :=
  match s.request p with
  | some (.write addr len _ _) => .next (s.presentDirect p addr (some len))
  | _ => .next s

/-- FETCH_ADD (R10, R14). -/
def execFetchAdd (p : Port) (s : State) : Host.Outcome State Fault Refusal :=
  match s.request p with
  | some (.fetchAdd addr _ _) => .next (s.presentDirect p addr none)
  | _ => .next s

/-- SWAP (R10, R14). -/
def execSwap (p : Port) (s : State) : Host.Outcome State Fault Refusal :=
  match s.request p with
  | some (.swap addr _ _) => .next (s.presentDirect p addr none)
  | _ => .next s

/-- COMPARE_SWAP (R10, R15). -/
def execCompareSwap (p : Port) (s : State) : Host.Outcome State Fault Refusal :=
  match s.request p with
  | some (.compareSwap addr _ _ _) => .next (s.presentDirect p addr none)
  | _ => .next s

/-- ARBITER_GRANT (R17): no access in progress and a group waiting. -/
def execArbiterGrant (s : State) : Host.Outcome State Fault Refusal :=
  match s.arbiter.inProgress with
  | some _ => .next s
  | none => .next s.grantNext

/-- ACCESS_COMPLETE (R19). -/
def execAccessComplete (s : State) : Host.Outcome State Fault Refusal :=
  match s.arbiter.inProgress with
  | some g => .next (s.finishAccess g)
  | none => .next s

end Sys2Proof.Machine
end

