-- ==== Sys2Proof/Machine/Control.lean ====
section
/-! DEFINITION. The Control Unit (ch9): reset sequencing, cold and warm reset, straps, the timebase, settings, FENCE
and UNFENCE; and the disturbance of stored bits. -/

namespace Sys2Proof.Machine

/-! ### Reset -/

/-- A Link Controller at cold or warm reset (R167): its state of Table 8.1, OFF or DOWN by its port reset line. -/
def LinkController.hubReset (lc : LinkController) : LinkController := LinkController.reset lc.prst

/-- COLD_RESET (R183): every block as after cold reset; the store's contents unknown (R7). The pins keep their levels
and the packets sent stay sent. -/
def State.coldReset (s : State) : State :=
  { State.reset with
    pending := s.pending
    seqState := .cold
    hrst := s.hrst
    straps := s.straps
    settings := Settings.reset s.straps
    store := ⟨[], [], ⟨s.fresh, 0⟩⟩
    links := mapVector LinkController.hubReset s.links
    tx := s.tx
    fresh := s.fresh + 1 }

/-- A word that a cut access would have written (R9): the old or the new value, each with a valid check code. The old
value of an uncorrectable word is not known. -/
def Store.cutWrite (st : Store) (n w : Nat) (v : Word) : Store :=
  if Config.cutWritten n w then st.writeWord w v
  else match st.condition w with
    | .uncorrectable => st.writeWord w (Config.cutLostValue n w)
    | .clean | .singleBit => st.setCondition w .clean

/-- The words a cut access would have written (R9), from word w up. -/
def Store.cutWrites (st : Store) (n w : Nat) : List Word → Store
  | [] => st
  | v :: rest => (st.cutWrite n w v).cutWrites n (w + 1) rest

/-- The words a cut access had read (R9): each single-bit-error word corrected or not. -/
def Store.cutReads (st : Store) (n w : Nat) : Nat → Store
  | 0 => st
  | k + 1 => (if Config.cutCorrected n w then st.correct w else st).cutReads n (w + 1) k

/-- What a cut access leaves of the store (R9). A COMPARE_SWAP that does not match would have written nothing, and an
atomic that met an uncorrectable word neither. -/
def StoreAccess.cut (a : StoreAccess) (n : Nat) (st : Store) : Store :=
  let w := a.addr / 4
  match a.op with
  | .read k => st.cutReads n w k
  | .write data => st.cutWrites n w data
  | .fetchAdd x => if st.condition w = .uncorrectable then st else st.cutWrite n w (st.word w + x)
  | .swap v => if st.condition w = .uncorrectable then st else st.cutWrite n w v
  | .compareSwap e v =>
    if st.condition w = .uncorrectable then st
    else if st.word w = e then st.cutWrite n w v else st.cutReads n w 1

/-- The cut access had met an uncorrectable word (R9). -/
def StoreAccess.metWhenCut (a : StoreAccess) (st : Store) : Bool :=
  match a.op with
  | .read k => st.anyUncorrectable (a.addr / 4) k
  | .write _ => false
  | .fetchAdd _ => st.anyUncorrectable (a.addr / 4) 1
  | .swap _ => st.anyUncorrectable (a.addr / 4) 1
  | .compareSwap _ _ => st.anyUncorrectable (a.addr / 4) 1

/-- The store at warm reset (R9). -/
def State.cutStore (s : State) : Store :=
  match s.arbiter.inProgress with
  | some g => g.access.cut s.fresh s.store
  | none => s.store

/-- The poison set at warm reset (R9): kept, but for the granule of a cut access that met an uncorrectable word. -/
def State.cutPoison (s : State) : List Nat :=
  match s.arbiter.inProgress with
  | some g =>
    if g.access.metWhenCut s.store ∧ Config.cutPoisoned s.fresh = true then setInsert (granuleOf g.access.addr) s.poison
    else s.poison
  | none => s.poison

/-- WARM_RESET (R183): every block as after warm reset; the store and the poison set kept (R9), the generations of the
lock slots advanced where they were in use (R51). -/
def State.warmReset (s : State) : State :=
  { State.reset with
    pending := s.pending
    seqState := .held
    hrst := true
    straps := s.straps
    settings := Settings.reset s.straps
    store := s.cutStore
    poison := s.cutPoison
    locks := s.locks.warmReset
    links := mapVector LinkController.hubReset s.links
    tx := s.tx
    fresh := s.fresh + 1 }

/-- INIT stopped at the word it has reached (R8): the words below hold 0 and are clean, the others keep what they had;
word 3FFFCH has not been written. -/
def Store.stopInit (st : Store) (n : Nat) : Store :=
  let k := Config.initProgress n % 65536
  { bytes := st.bytes.filter fun e => decide (4 * k ≤ e.1)
    conditions := st.conditions.filter fun e => decide (k ≤ e.1)
    background := { st.background with filled := k } }

/-- The store after a completed INIT (R7): every word clean and 0. -/
def Store.initialised (st : Store) : Store := ⟨[], [], { st.background with filled := 65536 }⟩

/-- The length of a unit by TIMEBASE (Table 9.4), in ticks of 10 µs. -/
def unitLength (timebase : Half) : Nat := 10 ^ timebase.toNat

/-- ENTER_RUN (R182): the straps are sampled, the first unit begins, HUBRDY goes high. -/
def State.enterRun (s : State) : State :=
  { s with seqState := .run, settings := { s.settings with supervisor := s.straps }
           timebase := some ⟨unitLength s.settings.timebase, 0⟩ }

/-- PWROK_FALL (R182): from any state. -/
def execPwrokFall (s : State) : Host.Outcome State Fault Refusal := .next s.coldReset

/-- PWROK_RISE (R7, R182). -/
def execPwrokRise (s : State) : Host.Outcome State Fault Refusal :=
  match s.seqState with
  | .cold => .next { s with seqState := if s.hrst then .fillHeld else .fill }
  | .fill | .fillHeld | .held | .run => .next s

/-- INIT_COMPLETE (R7, R182). -/
def execInitComplete (s : State) : Host.Outcome State Fault Refusal :=
  match s.seqState with
  | .fill => .next (s.setStore s.store.initialised).enterRun
  | .fillHeld => .next { s.setStore s.store.initialised with seqState := .held }
  | .cold | .held | .run => .next s

/-- HRST_ASSERT (R182): warm reset from FILL, where INIT stops for good, and from RUN; elsewhere a level alone. -/
def execHrstAssert (s : State) : Host.Outcome State Fault Refusal :=
  match s.seqState with
  | .fill => .next (s.warmReset.setStore (s.store.stopInit s.fresh))
  | .run => .next s.warmReset
  | .cold | .fillHeld | .held => .next { s with hrst := true }

/-- HRST_RELEASE (R182). -/
def execHrstRelease (s : State) : Host.Outcome State Fault Refusal :=
  match s.seqState with
  | .held => .next ({ s with hrst := false } : State).enterRun
  | .fillHeld => .next { s with hrst := false, seqState := .fill }
  | .cold | .fill | .run => .next { s with hrst := false }

/-- SUPSEL_CHANGE (R171): SUPERVISOR follows the straps outside RUN. -/
def execSupselChange (straps : Port) (s : State) : Host.Outcome State Fault Refusal :=
  match s.seqState with
  | .run => .next { s with straps := straps }
  | .cold | .fill | .fillHeld | .held =>
    .next { s with straps := straps, settings := { s.settings with supervisor := straps } }

/-! ### Disturbance -/

/-- The condition of a word after a disturbance (R1): clean may become single-bit error, and clean or single-bit error
may become uncorrectable; nothing else. -/
def disturbed (old new : Condition) : Condition :=
  match old, new with
  | .clean, c => c
  | .singleBit, .uncorrectable => .uncorrectable
  | .singleBit, .clean => .singleBit
  | .singleBit, .singleBit => .singleBit
  | .uncorrectable, _ => .uncorrectable

/-- BIT_DISTURBANCE (R1). -/
def execBitDisturbance (w : BitVec 16) (c : Condition) (s : State) : Host.Outcome State Fault Refusal :=
  .next (s.setStore (s.store.setCondition w.toNat (disturbed (s.store.condition w.toNat) c)))

/-! ### The timebase -/

/-- A channel's part of a timebase boundary (R125). -/
def ChannelContext.tick (ctx : ChannelContext) : ChannelContext :=
  { ctx with stall := ctx.stall.map fun r => { r with time := r.time + 1 } }

/-- TIMEBASE_BOUNDARY (R179): in RUN every block counts its running timers, and the next unit begins with the length
that TIMEBASE now gives. -/
def execTimebaseBoundary (s : State) : Host.Outcome State Fault Refusal :=
  match s.seqState with
  | .run =>
    .next { s with locks := s.locks.tick, channels := mapVector ChannelContext.tick s.channels
                   links := mapVector LinkController.tick s.links
                   timebase := some ⟨unitLength s.settings.timebase, 0⟩ }
  | .cold | .fill | .fillHeld | .held => .next s

/-- Time passes while nothing is commanded: a tick of 10 µs of the unit in progress (log entry 16). -/
def State.idle (s : State) : State :=
  { s with timebase := s.timebase.map fun u => { u with elapsed := min u.length (u.elapsed + 1) } }

/-! ### Settings -/

/-- The checks 1 to 4 of a CONFIG_WRITE fail at the range (Table 9.2): a writable setting's value lies within its
range. -/
def settingInRange (n v : Nat) : Bool :=
  match n with
  | 0x02 => decide (v ≤ 3)
  | 0x03 => decide (v ≤ 3)
  | 0x04 => decide (v ≤ 4)
  | 0x05 | 0x06 | 0x07 | 0x08 => decide (1 ≤ v) && decide (v ≤ 32)
  | 0x09 => decide (1 ≤ v)
  | 0x0A => true
  | 0x0B => decide (1 ≤ v) && decide (v ≤ 255)
  | 0x0C => decide (1 ≤ v)
  | 0x0D => decide (1 ≤ v) && decide (v ≤ 255)
  | _ => false

/-- Checks 1 to 4 of R176: the first failure's status, if any. A number that is unknown or read-only, and a value out of
range, are all BAD_SETTING. -/
def State.writeCheck (s : State) (p : Port) (n : Byte) (v : Half) : Option Status :=
  if p ≠ s.supervisor then some .notSupervisor
  else if settingInRange n.toNat v.toNat then none
  else some .badSetting

/-- A writable setting without a row of its own takes a value (R176). -/
def Settings.write (t : Settings) (n : Nat) (v : Half) : Settings :=
  match n with
  | 0x04 => { t with priorityPort := v }
  | 0x05 => { t with quota := t.quota.set 0 v }
  | 0x06 => { t with quota := t.quota.set 1 v }
  | 0x07 => { t with quota := t.quota.set 2 v }
  | 0x08 => { t with quota := t.quota.set 3 v }
  | 0x09 => { t with waitDefault := v }
  | 0x0A => { t with orphanHold := v }
  | 0x0B => { t with responseTimeout := v }
  | 0x0C => { t with stallLimit := v }
  | 0x0D => { t with trainWindow := v }
  | _ => t

/-- A CONFIG_WRITE of SUPERVISOR that passed checks 1 to 4 (R173, check 5 of R176). -/
def State.writeSupervisor (s : State) (p q : Port) : State :=
  if q = s.supervisor then s.answer p .ok none []
  else if (s.link q).link = .up then (s.setSettings { s.settings with supervisor := q }).answer p .ok none []
  else s.answer p .notReady none []

/-- CONFIG_READ (R175). -/
def execConfigRead (p : Port) (s : State) : Host.Outcome State Fault Refusal :=
  match s.request p with
  | some (.configRead n) =>
    match settingValue s n.toNat with
    | some v => .next (s.answer p .ok none [lay 0 n.toNat ||| lay 16 v.toNat])
    | none => .next (s.answer p .badSetting none [])
  | _ => .next s

/-- CONFIG_WRITE (R176) of a setting other than SUPERVISOR and TIMEBASE. -/
def execConfigWrite (p : Port) (s : State) : Host.Outcome State Fault Refusal :=
  match s.request p with
  | some (.configWrite n v) =>
    if n = 0x02#8 ∨ n = 0x03#8 then .next s
    else match s.writeCheck p n v with
      | some st => .next (s.answer p st none [])
      | none => .next ((s.setSettings (s.settings.write n.toNat v)).answer p .ok none [])
  | _ => .next s

/-- CONFIG_WRITE_SUPERVISOR (R173). -/
def execConfigWriteSupervisor (p : Port) (s : State) : Host.Outcome State Fault Refusal :=
  match s.request p with
  | some (.configWrite n v) =>
    if n = 0x02#8 then
      match s.writeCheck p n v with
      | some st => .next (s.answer p st none [])
      | none => .next (s.writeSupervisor p (Fin.ofNat 4 v.toNat))
    else .next s
  | _ => .next s

/-- CONFIG_WRITE_TIMEBASE (R179): the unit in progress keeps its length and every count is kept. -/
def execConfigWriteTimebase (p : Port) (s : State) : Host.Outcome State Fault Refusal :=
  match s.request p with
  | some (.configWrite n v) =>
    if n = 0x03#8 then
      match s.writeCheck p n v with
      | some st => .next (s.answer p st none [])
      | none => .next ((s.setSettings { s.settings with timebase := v }).answer p .ok none [])
    else .next s
  | _ => .next s

/-! ### FENCE and UNFENCE -/

/-- LCn takes a FENCE (R166). -/
def State.fenceLink (s : State) (q : Port) : State :=
  match (s.link q).link with
  | .up => s.portDownEvent q .fenced .fence .hard
  | .down | .training | .off => s.setLink q ((s.link q).moveTo .fenced)
  | .fenced => s

/-- LCn takes an UNFENCE (R166). -/
def State.unfenceLink (s : State) (q : Port) : State :=
  match (s.link q).link with
  | .fenced => s.setLink q ((s.link q).moveTo (if (s.link q).prst then .off else .down))
  | .up | .down | .training | .off => s

/-- FENCE (R180). -/
def execFence (p : Port) (s : State) : Host.Outcome State Fault Refusal :=
  match s.request p with
  | some (.fence q) =>
    if p ≠ s.supervisor then .next (s.answer p .notSupervisor none [])
    else if q = s.supervisor then .next (s.answer p .badSetting none [])
    else .next ((s.fenceLink q).answer p .ok none [])
  | _ => .next s

/-- UNFENCE (R181). -/
def execUnfence (p : Port) (s : State) : Host.Outcome State Fault Refusal :=
  match s.request p with
  | some (.unfence q) =>
    if p ≠ s.supervisor then .next (s.answer p .notSupervisor none [])
    else .next ((s.unfenceLink q).answer p .ok none [])
  | _ => .next s

end Sys2Proof.Machine
end

