-- ==== Sys2Proof/Machine/Dispatch.lean ====
section
/-! DEFINITION. The meaning of every command: one arm for each constructor of Instr. -/

namespace Sys2Proof.Machine

/-- What a command does to everything but the queue. -/
def exec (i : Instr) (s : State) : Host.Outcome State Fault Refusal :=
  match i with
  | .pwrokFall => Sys2Proof.Machine.execPwrokFall s
  | .pwrokRise => Sys2Proof.Machine.execPwrokRise s
  | .initComplete => Sys2Proof.Machine.execInitComplete s
  | .hrstAssert => Sys2Proof.Machine.execHrstAssert s
  | .hrstRelease => Sys2Proof.Machine.execHrstRelease s
  | .supselChange straps => Sys2Proof.Machine.execSupselChange straps s
  | .prstnAssert p => Sys2Proof.Machine.execPrstnAssert p s
  | .prstnRelease p => Sys2Proof.Machine.execPrstnRelease p s
  | .bitDisturbance w c => Sys2Proof.Machine.execBitDisturbance w c s
  | .timebaseBoundary => Sys2Proof.Machine.execTimebaseBoundary s
  | .leaseExpiry k => Sys2Proof.Machine.execLeaseExpiry k s
  | .waitExpiry k => Sys2Proof.Machine.execWaitExpiry k s
  | .orphanExpiry k => Sys2Proof.Machine.execOrphanExpiry k s
  | .stallExpiry c => Sys2Proof.Machine.execStallExpiry c s
  | .trainWindowExpiry p => Sys2Proof.Machine.execTrainWindowExpiry p s
  | .slotTimeout p h => Sys2Proof.Machine.execSlotTimeout p h s
  | .hello p => Sys2Proof.Machine.execHello p s
  | .ready p word => Sys2Proof.Machine.execReady p word s
  | .lossOfSignal p => Sys2Proof.Machine.execLossOfSignal p s
  | .badCheckPacket p => Sys2Proof.Machine.execBadCheckPacket p s
  | .requestReceived p pkt => Sys2Proof.Machine.execRequestReceived p pkt s
  | .fetchReply p tag payload => Sys2Proof.Machine.execFetchReply p tag payload s
  | .storeReply p tag payload => Sys2Proof.Machine.execStoreReply p tag payload s
  | .responseSent p => Sys2Proof.Machine.execResponseSent p s
  | .noticeSent p => Sys2Proof.Machine.execNoticeSent p s
  | .hubRequestSent p => Sys2Proof.Machine.execHubRequestSent p s
  | .read p => Sys2Proof.Machine.execRead p s
  | .write p => Sys2Proof.Machine.execWrite p s
  | .fetchAdd p => Sys2Proof.Machine.execFetchAdd p s
  | .swap p => Sys2Proof.Machine.execSwap p s
  | .compareSwap p => Sys2Proof.Machine.execCompareSwap p s
  | .arbiterGrant => Sys2Proof.Machine.execArbiterGrant s
  | .accessComplete => Sys2Proof.Machine.execAccessComplete s
  | .leaseRestartReport => Sys2Proof.Machine.execLeaseRestartReport s
  | .lock p => Sys2Proof.Machine.execLock p s
  | .unlock p => Sys2Proof.Machine.execUnlock p s
  | .renew p => Sys2Proof.Machine.execRenew p s
  | .adopt p => Sys2Proof.Machine.execAdopt p s
  | .reclaim p => Sys2Proof.Machine.execReclaim p s
  | .forceRelease p => Sys2Proof.Machine.execForceRelease p s
  | .lockQuery p => Sys2Proof.Machine.execLockQuery p s
  | .lockPortDown p => Sys2Proof.Machine.execLockPortDown p s
  | .arbiterPortDown p => Sys2Proof.Machine.execArbiterPortDown p s
  | .channelStart p => Sys2Proof.Machine.execChannelStart p s
  | .channelStop p => Sys2Proof.Machine.execChannelStop p s
  | .channelRelease p => Sys2Proof.Machine.execChannelRelease p s
  | .channelQuery p => Sys2Proof.Machine.execChannelQuery p s
  | .descriptorReply p => Sys2Proof.Machine.execDescriptorReply p s
  | .lookaheadReply p => Sys2Proof.Machine.execLookaheadReply p s
  | .chunkFetchReply p => Sys2Proof.Machine.execChunkFetchReply p s
  | .chunkStoreReply p => Sys2Proof.Machine.execChunkStoreReply p s
  | .channelHubTimeout p => Sys2Proof.Machine.execChannelHubTimeout p s
  | .hubRequestDrop p => Sys2Proof.Machine.execHubRequestDrop p s
  | .channelAccessOutcome c => Sys2Proof.Machine.execChannelAccessOutcome c s
  | .releaseAnnouncement => Sys2Proof.Machine.execReleaseAnnouncement s
  | .channelPortDown p => Sys2Proof.Machine.execChannelPortDown p s
  | .noticeEvent k => Sys2Proof.Machine.execNoticeEvent k s
  | .noticeAck p => Sys2Proof.Machine.execNoticeAck p s
  | .noticeRewind p => Sys2Proof.Machine.execNoticeRewind p s
  | .noticeQueueEmpty p => Sys2Proof.Machine.execNoticeQueueEmpty p s
  | .configRead p => Sys2Proof.Machine.execConfigRead p s
  | .configWrite p => Sys2Proof.Machine.execConfigWrite p s
  | .configWriteSupervisor p => Sys2Proof.Machine.execConfigWriteSupervisor p s
  | .configWriteTimebase p => Sys2Proof.Machine.execConfigWriteTimebase p s
  | .fence p => Sys2Proof.Machine.execFence p s
  | .unfence p => Sys2Proof.Machine.execUnfence p s

end Sys2Proof.Machine
end

