-- ==== Sys2Proof/Machine/Step.lean ====
section
/-! DEFINITION. One step of the hub: the command at the front of the queue, or time passing when none waits. -/

namespace Sys2Proof.Machine

/-- One step. With a command waiting, the one at the front leaves the queue and has its effect on the rest. With none
waiting the hub idles and time passes (log entry 16). -/
def step (s : State) : Host.Outcome State Fault Refusal :=
  match s.pending with
  | c :: rest => exec c { s with pending := rest }
  | [] => .next s.idle

/-- The state with the command that a word spells put at the front of its queue; no word spells one, so the state is
left as it is (log entry 1). -/
def State.withFetchWord (s : State) (nbits w : Nat) : State :=
  match decodeTableWord nbits w with
  | some c => { s with pending := c :: s.pending }
  | none => s

end Sys2Proof.Machine
end

