-- ==== Sys2Proof/Safety.lean ====
section
/-! DEFINITION. The laws of the device as predicates over State, and the words the statements are written in. -/

namespace Sys2Proof.Machine

/-! ### Parts that the laws name -/

/-- The descriptor of a next-descriptor field that holds a valid copy. -/
def Lookahead.valid? : Lookahead → Option Descriptor
  | .valid d => some d
  | .fetching => none
  | .invalid _ => none

/-- The hub request whose ending a claim is. -/
def ChannelClaim.request? : ChannelClaim → Option HubRequest
  | .ending r _ => some r
  | .portDown _ => none

/-- The chunk that a hub request serves, named by its store address. -/
def Purpose.chunk? : Purpose → Option Nat
  | .chunk store => some store
  | .first => none
  | .lookahead => none

/-! ### The Lock Table -/

/-- Law 6 (R42): a lease remaining never exceeds its lease length. -/
abbrev LockUnit.leasesBounded (u : LockUnit) : Prop :=
  ∀ k : LockSlot, ∀ c ∈ (u.entry k).state.claim?, c.leaseLeft ≤ c.leaseLen

/-- Law 2 (R29): two entries in HELD or ORPHANED state never conflict. -/
abbrev LockUnit.standingCompatible (u : LockUnit) : Prop :=
  ∀ j k : LockSlot, j ≠ k → ∀ c ∈ (u.entry j).state.standing?, ∀ d ∈ (u.entry k).state.standing?,
    c.conflicts d = false

/-- The waiting order lists exactly the WAITING entries, without duplicates (R31). -/
abbrev LockUnit.orderMatches (u : LockUnit) : Prop :=
  u.order.Nodup ∧ ∀ k : LockSlot, k ∈ u.order ↔ (u.entry k).state.waiting?.isSome = true

/-- Law 1 (R21): no port owns more than one WAITING entry. -/
abbrev LockUnit.oneWaitEach (u : LockUnit) : Prop :=
  ∀ j k : LockSlot, ∀ c ∈ (u.entry j).state.waiting?, ∀ d ∈ (u.entry k).state.waiting?, c.owner = d.owner → j = k

/-- The laws of the Lock Table that every claim keeps. -/
abbrev LockUnit.lawful (u : LockUnit) : Prop :=
  u.leasesBounded ∧ u.standingCompatible ∧ u.orderMatches ∧ u.oneWaitEach

/-- Law 4 (R33): no port waits for itself through the wait-for relation of R32. -/
def LockUnit.noCycle (u : LockUnit) : Prop :=
  ∀ p : Port, ¬Relation.TransGen (fun a b => u.waitsFor a b = true) p p

/-! ### The store -/

/-- The store and the poison set are in canonical form, and INIT has filled nothing before it completes. -/
abbrev State.memoryLawful (s : State) : Prop :=
  cellsWf s.store.background.byte s.store.bytes = true
    ∧ cellsWf s.store.background.condition s.store.conditions = true
    ∧ setRising s.poison = true
    ∧ (s.seqState = .cold ∨ s.seqState = .fill ∨ s.seqState = .fillHeld → s.store.background.filled = 0)

/-- A valid descriptor's store bytes lie in the store (conditions 3 and 5 of R93). -/
abbrev Descriptor.inStore (d : Descriptor) : Prop :=
  d.store + d.count ≤ 0x40000 ∧ (d.kind = .storeCopy → d.far.toNat + d.count ≤ 0x40000)

/-- What a channel has still to access lies in the store. -/
abbrev ChannelContext.inStore (ctx : ChannelContext) : Prop :=
  (∀ d ∈ ctx.current, d.inStore)
    ∧ (∀ n ∈ ctx.next, ∀ d ∈ n.valid?, d.inStore)
    ∧ (∀ k ∈ ctx.chunks, k.store < 0x40000)
    ∧ ∀ r ∈ ctx.stall, r.refused.access.addr < 0x40000

/-- The poison set holds granules 0 to 4095 (R4): every access presented, granted or handed back is to an address of the store
(R10, R93), and so is what the channels have still to access. -/
abbrev State.poisonInStore (s : State) : Prop :=
  (∀ g ∈ s.poison, g < 4096)
    ∧ (∀ g ∈ s.arbiter.inProgress, g.access.addr < 0x40000)
    ∧ (∀ p : Port, ∀ sv ∈ (s.link p).service, sv.stage = .presented → ∀ a ∈ sv.req.access?, a.1.addr < 0x40000)
    ∧ ∀ c : Channel, (∀ a ∈ s.waitingAccess c, a.access.addr < 0x40000)
      ∧ (∀ o ∈ s.outcomeOf c, o.1.access.addr < 0x40000) ∧ (s.chan c).inStore

/-! ### Notice queues -/

/-- The SENT records stand before the PENDING ones (R133). -/
def sentFirst (q : List NoticeRecord) : Bool := (q.dropWhile fun r => !r.isPending).all fun r => r.isPending

/-- The subjects of a queue's PENDING records. -/
def pendingSubjects (q : List NoticeRecord) : List Subject := (q.filter fun r => r.isPending).map fun r => r.event.subject

/-- Law 7 (R136) for port p's queue, with what R133 and R134 say of its records. -/
abbrev queueLawful (p : Port) (q : List NoticeRecord) : Prop :=
  sentFirst q = true ∧ sentCount q ≤ 4 ∧ (pendingSubjects q).Nodup
    ∧ ∀ r ∈ q, r.event.subject ≠ .peer p ∧ 1 ≤ r.occurrences ∧ r.occurrences ≤ 255

/-- Every queue is lawful, and no event waits for a port about that port itself (R134). -/
abbrev State.noticesLawful (s : State) : Prop :=
  (∀ p : Port, queueLawful p (s.queue p)) ∧ ∀ batch ∈ s.events, ∀ h ∈ batch, h.2.subject ≠ .peer h.1

/-! ### Link Controllers -/

/-- Law 8 (R154, R158) for one Link Controller: the held count counts the requests queued, in service and answered,
and is at most 16; a link that is not UP holds none but a taken one from before its loss (R163); a slot outstanding is one of
those allowed, on a link that is UP. -/
abbrev LinkController.lawful (lc : LinkController) : Prop :=
  lc.heldCount ≤ 16
    ∧ lc.heldCount = lc.inbound.length + lc.responses.length + (serviceTags lc.service).length
    ∧ (lc.link ≠ .up → lc.inbound = [] ∧ lc.responses = [])
    ∧ (∀ sv ∈ lc.service, (sv.discard = true ↔ lc.link ≠ .up) ∧ (sv.discard = true → sv.stage = .granted))
    ∧ lc.slotsAllowed ≤ 8
    ∧ ∀ h : HubSlot, (lc.outstanding h).isSome = true → lc.link = .up ∧ h.val < lc.slotsAllowed

/-! ### Channels -/

/-- What a channel's state says of its context (Table 5.1, R90, R98, R112), a stall record standing in STALLED only (Table 5.1, R123,
R124), and law 9's bound of four chunks (R113). -/
abbrev ChannelContext.lawful (ctx : ChannelContext) : Prop :=
  ctx.chunks.length ≤ 4
    ∧ (ctx.state = .idle → ctx = ChannelContext.reset)
    ∧ (ctx.state ≠ .idle → ctx.owner.isSome = true)
    ∧ (ctx.state = .loading ∨ ctx.state.ended = true → ctx.chunks = [] ∧ ctx.current = none)
    ∧ (ctx.state.active = true → ctx.fault = none)
    ∧ (ctx.state ≠ .stalled → ctx.stall = none)

/-! ### What a channel has in flight (law 9, R90) -/

/-- Channel c's hub requests at port p's Link Controller whose ending the channel has not taken: those waiting for a slot,
those in a slot, those whose ending is handed. -/
def State.requestsAt (s : State) (p : Port) (c : Channel) : List HubRequest :=
  (s.link p).waiting[c]
    ++ (allHubSlots.filterMap fun h => ((s.link p).outstanding h).map fun o => o.req).filter (fun r => r.chan == c)
    ++ ((s.claimsOf p).filterMap ChannelClaim.request?).filter (fun r => r.chan == c)

/-- Channel c's store accesses: waiting, granted, or with the outcome handed. -/
def State.accessesOf (s : State) (c : Channel) : List ChannelAccess :=
  (s.waitingAccess c).toList
    ++ (if s.grantedTo c then s.arbiter.inProgress.toList.map fun g => ⟨g.chunk, g.access⟩ else [])
    ++ (s.outcomeOf c).toList.map fun o => o.1

/-- A chunk's hub request in flight serves a chunk of the list: a FETCH a REQUESTED one of TO_STORE (R117), a STORE one of
FROM_STORE that has been read (R118); a lookahead stands in the next-descriptor field (R95); descriptor 0 has been fetched. -/
abbrev ChannelContext.requestFits (ctx : ChannelContext) (d : Descriptor) (r : HubRequest) : Prop :=
  r.purpose ≠ .first
    ∧ (r.purpose = .lookahead → ctx.next = some .fetching)
    ∧ ∀ st ∈ r.purpose.chunk?, (∃ k ∈ ctx.chunks, k.store = st) ∧ ∀ k ∈ ctx.chunks, k.store = st →
        (r.op.isStore = false → d.kind = .toStore ∧ k.state = .requested)
        ∧ (r.op.isStore = true → d.kind = .fromStore ∧ (k.state = .readDone ∨ k.state = .storeSent))

/-- A store access in flight serves a chunk of the list: a write a WRITING one, a read a REQUESTED one (R117 to R120). -/
abbrev ChannelContext.accessFits (ctx : ChannelContext) (d : Descriptor) (a : ChannelAccess) : Prop :=
  (∃ k ∈ ctx.chunks, k.store = a.chunk) ∧ ∀ k ∈ ctx.chunks, k.store = a.chunk →
    (a.access.op.isWrite = true → k.state = .writing)
    ∧ (a.access.op.isWrite = false → d.kind ≠ .toStore ∧ k.state = .requested)

/-- The refused access of a STALLED channel is of a chunk of the list (R123); no other access is in flight. -/
abbrev ChannelContext.stallFits (ctx : ChannelContext) (d : Descriptor) (accesses : List ChannelAccess) : Prop :=
  ctx.stall.isSome = true ∧ ∀ r ∈ ctx.stall,
    (∀ a ∈ accesses, a = r.refused)
    ∧ (∃ k ∈ ctx.chunks, k.store = r.refused.chunk) ∧ ∀ k ∈ ctx.chunks, k.store = r.refused.chunk →
      (r.refused.access.op.isWrite = true → k.state = .dataHeld ∨ k.state = .writing)
      ∧ (r.refused.access.op.isWrite = false → d.kind ≠ .toStore ∧ k.state = .requested)

/-- What channel c has in flight fits its state. Law 9 (R90): an IDLE channel, and an ended one (R101), has no hub request
outstanding and no store access waiting or granted. -/
abbrev State.flightLawful (s : State) (c : Channel) : Prop :=
  (∀ p : Port, ((s.requestsAt p c).map fun r => r.purpose).Nodup
      ∧ (∀ r ∈ (s.link p).waiting[c], r.chan = c)
      ∧ ((s.chan c).owner ≠ some p → s.requestsAt p c = []))
    ∧ (s.accessesOf c).length ≤ 1
    ∧ ((s.chan c).state = .idle ∨ (s.chan c).state.ended = true →
        (∀ p : Port, s.requestsAt p c = []) ∧ s.accessesOf c = [])
    ∧ ((s.chan c).state = .loading →
        (∀ p : Port, ∀ r ∈ s.requestsAt p c, r.purpose = .first) ∧ s.accessesOf c = [])
    ∧ ((s.chan c).state = .aborting → (∀ p : Port, (s.link p).waiting[c] = []) ∧ s.waitingAccess c = none)
    ∧ ((s.chan c).state = .running ∨ (s.chan c).state = .stalled → (s.chan c).current.isSome = true)
    ∧ ((s.chan c).state = .running ∨ (s.chan c).state = .stalled → ∀ d ∈ (s.chan c).current,
        (∀ p : Port, ∀ r ∈ s.requestsAt p c, (s.chan c).requestFits d r)
        ∧ (∀ a ∈ s.accessesOf c, (s.chan c).accessFits d a)
        ∧ (∀ k ∈ (s.chan c).chunks, k.store < d.store + (s.chan c).position)
        ∧ (d.last = true → (s.chan c).next = none)
        ∧ ((s.chan c).state = .stalled → (s.chan c).stallFits d (s.accessesOf c)))

/-- The channel law with what the channels have in flight: laws 9 and R112 of every channel. -/
abbrev State.channelsLawful (s : State) : Prop := ∀ c : Channel, (s.chan c).lawful ∧ s.flightLawful c

/-! ### Reset -/

/-- Outside RUN every block holds its state as after reset, and every link is OFF or DOWN by its port reset line
(R167, R182). -/
abbrev State.quietOutsideRun (s : State) : Prop :=
  s.seqState ≠ .run →
    s.timebase = none ∧ s.settings = Settings.reset s.straps ∧ s.arbiter = Arbiter.reset
      ∧ (∀ k : LockSlot, (s.locks.entry k).state = .free) ∧ s.locks.order = []
      ∧ (∀ c : Channel, s.chan c = ChannelContext.reset)
      ∧ (∀ p : Port, s.link p = LinkController.reset (s.link p).prst ∧ s.queue p = [] ∧ s.claimsOf p = []
          ∧ s.portDown p = PortDownClaims.none)
      ∧ s.events = [] ∧ s.announcements = [] ∧ s.reports = []

/-! ### The words of the statements -/

/-- Port p's request in service was answered (R155): the response joins the tail of the response queue, the
dispatcher becomes IDLE and takes what it can of the inbound queue, and credits and tags stay counted. -/
def AnsweredAs (s t : State) (p : Port) (st : Status) (detail : Option Half) (words : List Word) : Prop :=
  ∃ sv, (s.link p).service = some sv
    ∧ (t.link p).responses
        = (s.link p).responses ++ respond sv.pkt st detail words :: (takeNext (s.link p).inbound).2.2
    ∧ (t.link p).service = (takeNext (s.link p).inbound).1
    ∧ (t.link p).inbound = (takeNext (s.link p).inbound).2.1
    ∧ (t.link p).heldCount = (s.link p).heldCount ∧ (t.link p).tags = (s.link p).tags

/-- Of the Link Controllers, only port p's dispatcher and its two queues changed. -/
def DispatcherOnly (s t : State) (p : Port) : Prop :=
  (∀ q, q ≠ p → t.link q = s.link q)
    ∧ t.link p = { s.link p with service := (t.link p).service, inbound := (t.link p).inbound,
                                 responses := (t.link p).responses }

/-- What an action of the Channel Engine may change: channel contexts, the channels' waiting accesses, hub requests at
the Link Controllers, the claims taken from them, and the notice events handed. -/
def EngineOnly (s t : State) : Prop :=
  t = { s with channels := t.channels, links := t.links, events := t.events, claims := t.claims,
               arbiter := { s.arbiter with waiting := t.arbiter.waiting, outcomes := t.arbiter.outcomes } }

/-- Channel c has a hub request outstanding or a store access granted (R100). -/
def State.inFlight (s : State) (c : Channel) : Bool := s.hubOutstanding c || s.accessGranted c

/-- Channel c took a fault (R98): the fault record is made, nothing more is presented, and the run drains in ABORTING or
has drained to FAULTED. -/
def FaultTaken (s t : State) (c : Channel) (code : FaultCode) (index : Nat) (addr : Option Nat) : Prop :=
  (t.chan c).fault = some ⟨code, index, addr⟩
    ∧ ((t.chan c).state = .aborting ∧ (t.chan c).endMode = some .keep ∨ (t.chan c).state = .faulted)
    ∧ (t.chan c).index = index ∧ (t.chan c).bytesMoved = (s.chan c).bytesMoved
    ∧ (t.chan c).owner = (s.chan c).owner ∧ (t.chan c).next = none ∧ (t.chan c).stall = none
    ∧ t.waitingAccess c = none

/-- A member's place in its group's cyclic order (R17): dispatcher, CH0, ..., CH7. -/
def Member.place : Member → Fin 9
  | .dispatcher => 0
  | .chan c => ⟨c.val + 1, by omega⟩

/-- The next grant's port, member and access, and whether it is a priority grant. -/
def State.nextGrant (s : State) : Option (Port × Member × ChannelAccess × Bool) :=
  let of (p : Port) (isPriority : Bool) :=
    (s.chosenMember p).bind fun m => (s.memberAccess p m).map fun a => (p, m, a, isPriority)
  match s.priorityGrant with
  | some p => of p true
  | none => s.rotationPort.bind fun p => of p false

/-- The kinds a request packet can have on arrival (R184): all but the replies, HELLO and READY. -/
def arrivesAsRequest (pkt : Packet) : Prop :=
  pkt.kind ≠ 0x58#8 ∧ pkt.kind ≠ 0x59#8 ∧ pkt.kind ≠ 0x60#8 ∧ pkt.kind ≠ 0x61#8

/-- The condition that a read leaves a word in (R2). -/
def afterRead : Condition → Condition
  | .clean => .clean
  | .singleBit => .clean
  | .uncorrectable => .uncorrectable

/-- The outcome of a store access handed to the member that presented it: a dispatcher whose request is not discarded
answers it, a channel finds it waiting. -/
def Delivered (s t : State) (p : Port) (m : Member) (a : ChannelAccess) (o : AccessOutcome) : Prop :=
  match m with
  | .dispatcher => (∀ sv ∈ (s.link p).service, sv.discard = false) → (s.link p).service.isSome = true →
      AnsweredAs s t p (directStatus o) (directDetail o) (directWords o) ∧ DispatcherOnly s t p
  | .chan c => t.outcomeOf c = some (a, o) ∧ t.links = s.links

/-- The request in service was answered and nothing else changed. -/
def AnsweredOnly (s t : State) (p : Port) (st : Status) (detail : Option Half) (words : List Word) : Prop :=
  AnsweredAs s t p st detail words ∧ DispatcherOnly s t p ∧ t = { s with links := t.links }

/-- A claim of the Lock Unit answered port p and changed, beside its dispatcher, only the Lock Unit and what it hands on. -/
def LockAnswered (s t : State) (p : Port) (st : Status) (detail : Option Half) : Prop :=
  AnsweredAs s t p st detail [] ∧ DispatcherOnly s t p
    ∧ t = { s with locks := t.locks, links := t.links, events := t.events, announcements := t.announcements }

/-- The lists of events waiting, with one action's events joined when it handed any. -/
def joined (events : List (List Handed)) (new : List Handed) : List (List Handed) :=
  if new = [] then events else events ++ [new]

/-- A handle as the detail of a response: slot in bits 4 to 0, generation in bits 15 to 8. -/
def handleDetail (k : LockSlot) (gen : Byte) : Option Half := some (BitVec.ofNat 16 (256 * gen.toNat + k.val))

/-- How far a port stands behind the one last granted by rotation (R17). -/
def rotationDistance (last p : Port) : Nat := (p - last - 1).val

/-- How far a member stands behind its group's last granted member (R17). -/
def memberDistance (last m : Member) : Nat := (m.place - last.place - 1).val

/-- Table 3.2: the entry in slot k covers the granule and refuses the access. -/
def EntryRefuses (u : LockUnit) (p : Port) (g : Nat) (isWrite : Bool) (k : LockSlot) : Prop :=
  (∃ c, (u.entry k).state = .held c ∧ c.first ≤ g ∧ g < c.first + c.count
      ∧ (c.mode = .shared ∧ isWrite = true ∨ c.mode = .exclusive ∧ isWrite = true ∧ c.owner ≠ p
          ∨ c.mode = .priv ∧ c.owner ≠ p))
    ∨ ∃ c n a, (u.entry k).state = .orphaned c n a ∧ c.first ≤ g ∧ g < c.first + c.count
      ∧ (isWrite = true ∨ c.mode = .priv)

/-- The guard of R57: a handle that names an entry HELD by the port. -/
def GuardPasses (u : LockUnit) (p : Port) (h : Handle) : Prop :=
  ∃ c, u.entry h.slot = ⟨h.gen, .held c⟩ ∧ c.owner = p

/-- Queuing the request would close a cycle (R33): the wait-for relation leads from the owner of another port's conflicting
entry back to the port. -/
def ClosesCycle (u : LockUnit) (p : Port) (r : Claim) : Prop :=
  ∃ k : LockSlot, ∃ c ∈ (u.entry k).state.claim?, c.owner ≠ p ∧ c.conflicts r = true
    ∧ Relation.ReflTransGen (fun a b => u.waitsFor a b = true) c.owner p

/-- A hub request was handed to port p's Link Controller: it waits for a slot or has been given one, unsent. -/
def HubRequestHanded (t : State) (p : Port) (r : HubRequest) : Prop :=
  r ∈ (t.link p).waiting[r.chan] ∨ ∃ h : HubSlot, (t.link p).outstanding h = some ⟨r, none⟩

/-- A channel of port p took a fault (R98, R101): with something in flight it drains in ABORTING; with nothing it is
FAULTED in the same action and CHANNEL_END is handed, behind the events `before` of the same action. -/
def FaultsRun (s t : State) (c : Channel) (p : Port) (code : FaultCode) (index : Nat) (addr : Option Nat)
    (before : List Handed) : Prop :=
  FaultTaken s t c code index addr ∧ EngineOnly s t
    ∧ (s.inFlight c = true → (t.chan c).state = .aborting ∧ t.events = joined s.events before)
    ∧ (s.inFlight c = false → (t.chan c).state = .faulted ∧ (t.chan c).chunks = []
        ∧ t.events = s.events ++ [before ++ [(p, .channelEnd c (.faulted code) (s.chan c).bytesMoved)]])

/-- No hub request of the channel that waits for a slot at port p's Link Controller is a STORE. -/
def NoStoreWaits (s : State) (p : Port) (c : Channel) : Prop :=
  ∀ d : Channel, ∀ r ∈ (s.link p).waiting[d], r.chan = c → r.op.isStore = false

/-! ### The words of the statements: hub-request slots and a link's loss -/

/-- How far a channel stands behind the one last served (R116). -/
def servedDistance (last c : Channel) : Nat := (c - last - 1).val

/-- SLOT_GIVE once at port p (R116, R158): the link is UP; the lowest-numbered free slot in use takes the oldest waiting request of
the first channel after the last served that has one waiting; the slot keeps its sequence and its request is yet to be sent;
a chunk whose STORE takes it becomes STORE_SENT (R118); nothing else changes. -/
def GivesOne (p : Port) (s t : State) : Prop :=
  (s.link p).link = .up ∧ ∃ (h : HubSlot) (c : Channel) (r : HubRequest) (rest : List HubRequest),
    h.val < (s.link p).slotsAllowed ∧ (s.link p).outstanding h = none ∧ (∀ k < h, (s.link p).outstanding k ≠ none)
    ∧ (s.link p).waiting[c] = r :: rest
    ∧ (∀ d : Channel, (s.link p).waiting[d] ≠ [] →
        servedDistance (s.link p).lastServed c ≤ servedDistance (s.link p).lastServed d)
    ∧ t.link p = { s.link p with slots := (s.link p).slots.set h ⟨((s.link p).slots[h]).seq, some ⟨r, none⟩⟩
                                 unsent := (s.link p).unsent ++ [h], waiting := (s.link p).waiting.set c rest
                                 lastServed := c }
    ∧ (∀ q, q ≠ p → t.link q = s.link q)
    ∧ (∀ d : Channel, (d ≠ r.chan ∨ r.op.isStore = false ∨ r.purpose.chunk? = none) → t.chan d = s.chan d)
    ∧ (∀ st, r.op.isStore = true → r.purpose.chunk? = some st → t.chan r.chan = { s.chan r.chan with
        chunks := (s.chan r.chan).chunks.map fun k => if k.store = st then { k with state := .storeSent } else k })
    ∧ t = { s with links := t.links, channels := t.channels }

/-- SLOT_GIVE repeated at port p while free slots and waiting requests remain (R116). -/
def SlotsGiven (p : Port) (s t : State) : Prop := Relation.ReflTransGen (GivesOne p) s t ∧ ∀ u, ¬GivesOne p t u

/-- The request in slot h of port p has ended (R158 to R160): the slot is free, its sequence one further, its request no longer to be
sent, and the ending is handed behind what the Link Controller has handed before. -/
def State.requestEnded (s : State) (p : Port) (h : HubSlot) (r : HubRequest) (how : Ending) : State :=
  (s.setLink p { s.link p with slots := (s.link p).slots.set h ⟨((s.link p).slots[h]).seq + 1, none⟩
                               unsent := (s.link p).unsent.filter (· != h) }).setClaims p
    (s.claimsOf p ++ [.ending r how])

/-- What port p's Link Controller has cleared, dropped and handed when its link has left UP (R163, R164). -/
def LinkLost (s t : State) (p : Port) (dest : LinkState) (cause : DownCause) (loss : Loss) : Prop :=
  (t.link p).link = dest ∧ (t.link p).downCause = cause
    ∧ (t.link p).inbound = [] ∧ (t.link p).responses = []
    ∧ ((∀ sv ∈ (s.link p).service, sv.stage ≠ .granted) →
        (t.link p).service = none ∧ (t.link p).heldCount = 0 ∧ (t.link p).tags = [])
    ∧ (∀ sv, (s.link p).service = some sv → sv.stage = .granted →
        (t.link p).service = some { sv with discard := true } ∧ (t.link p).heldCount = 1
        ∧ (t.link p).tags = [(sv.pkt.tag.setWidth 4).toNat])
    ∧ (∀ h : HubSlot, (t.link p).outstanding h = none
        ∧ ((t.link p).slots[h]).seq
            = if ((s.link p).outstanding h).isSome then ((s.link p).slots[h]).seq + 1 else ((s.link p).slots[h]).seq)
    ∧ (∀ c : Channel, (t.link p).waiting[c] = []) ∧ (t.link p).unsent = []
    ∧ (t.link p).trainTimer = none ∧ (t.link p).readyTaken = none
    ∧ (t.link p).slotsAllowed = (s.link p).slotsAllowed ∧ (t.link p).lastServed = (s.link p).lastServed
    ∧ (t.link p).noticeSeq = (s.link p).noticeSeq ∧ (t.link p).turn = (s.link p).turn
    ∧ t.claimsOf p = s.claimsOf p
        ++ (allHubSlots.filterMap fun h => ((s.link p).outstanding h).map fun o => .ending o.req .dropped)
        ++ [.portDown loss]
    ∧ t.portDown p = ⟨some loss, some loss, true⟩
    ∧ t.events = s.events ++ [(allPorts.filter (· != p)).map fun q => (q, .peerDown p cause)]
    ∧ ∀ q, q ≠ p → t.claimsOf q = s.claimsOf q ∧ t.portDown q = s.portDown q

/-- A direct access whose port's link went down after its grant has completed (R164): the response joins no queue, the dispatcher is
IDLE, nothing is held, and the link comes UP if READY was taken meanwhile (R151). -/
def EndsDiscarded (s t : State) (p : Port) : Prop :=
  (s.link p).responses = [] → (s.link p).inbound = [] →
    (t.link p).service = none ∧ (t.link p).responses = [] ∧ (t.link p).heldCount = 0
      ∧ (t.link p).link = if (s.link p).link = .training ∧ (s.link p).readyTaken = some true then .up else (s.link p).link

/-- The access in progress is a channel's, or its dispatcher's request is not to be discarded (R164). -/
def ResultWanted (s : State) (g : Granted) : Prop :=
  g.member = .dispatcher → ∃ sv, (s.link g.port).service = some sv ∧ sv.discard = false

/-- The access in progress is of a dispatcher whose request is to be discarded (R164). -/
def ResultDiscarded (s : State) (g : Granted) : Prop :=
  g.member = .dispatcher ∧ ∃ sv, (s.link g.port).service = some sv ∧ sv.discard = true

/-! ### The words of the statements: lock releases and reports -/

/-- The Lock Table with the entry in slot k released (R22, R31): k is FREE under the next generation and stands in no waiting order;
every other entry, and the order of the other waiting entries, is as before. -/
def Released (u v : LockUnit) (k : LockSlot) : Prop :=
  v.entry k = ⟨(u.entry k).gen + 1, .free⟩ ∧ (∀ j, j ≠ k → v.entry j = u.entry j) ∧ v.order = u.order.filter (· != k)

/-- What port p's port-down event makes of an entry before any sweep (R69 to R71). -/
def entryAfterLoss (p : Port) (loss : Loss) (hold : Nat) (e : LockEntry) : LockEntry :=
  match e.state with
  | .waiting c _ => if c.owner = p then ⟨e.gen + 1, .free⟩ else e
  | .held c =>
    if c.owner = p then (if hold = 0 then ⟨e.gen + 1, .free⟩ else ⟨e.gen, .orphaned c hold (decide (loss = .soft))⟩)
    else e
  | .orphaned _ _ _ => e
  | .free => e

/-- The lock entry report of Table 10.5 for the entry in slot k, where its fields have the ranges of R21. -/
def LockReported (u : LockUnit) (k : LockSlot) (w0 w1 w2 w3 : Word) : Prop :=
  field w0 8 8 = (u.entry k).gen.toNat
    ∧ ((u.entry k).state = .free → field w0 0 8 = 0 ∧ field w0 16 16 = 0 ∧ w1 = 0#32 ∧ w2 = 0#32 ∧ w3 = 0#32)
    ∧ ∀ c, (u.entry k).state.claim? = some c →
      field w0 2 2 = c.owner.val
      ∧ (∀ code, (c.mode, code) ∈ [(LockMode.shared, 0), (.exclusive, 1), (.priv, 2)] → field w0 4 2 = code)
      ∧ field w0 7 1 = 0
      ∧ (c.first < 65536 → c.count < 65536 → field w1 0 16 = c.first ∧ field w1 16 16 = c.count)
      ∧ (c.leaseLen < 65536 → c.leaseLeft < 65536 → field w2 0 16 = c.leaseLen ∧ field w2 16 16 = c.leaseLeft)
      ∧ (∀ n, (u.entry k).state = .waiting c n → field w0 0 2 = 1 ∧ field w0 6 1 = 0 ∧ (n < 65536 → w3.toNat = n)
          ∧ (u.order.length ≤ 32 → field w0 24 8 = 7)
          ∧ (u.order.Nodup → u.order.length ≤ 32 → ∀ i : Nat, u.order[i]? = some k → field w0 16 8 = i + 1))
      ∧ ((u.entry k).state = .held c → field w0 0 2 = 2 ∧ field w0 6 1 = 0 ∧ field w0 16 8 = 0 ∧ field w0 24 8 = 1
          ∧ w3 = 0#32)
      ∧ ∀ n a, (u.entry k).state = .orphaned c n a → field w0 0 2 = 3 ∧ field w0 6 1 = a.toNat ∧ field w0 16 8 = 0
          ∧ field w0 24 8 = 9 ∧ field w3 0 16 = 0 ∧ (n < 65536 → field w3 16 16 = n)

/-- The channel report of Table 10.5, where the context's fields have the ranges of Table 5.1. -/
def ChannelReported (ctx : ChannelContext) (w0 w1 w2 : Word) : Prop :=
  (∀ code, (ctx.state, code) ∈ [(ChanState.idle, 0), (.loading, 1), (.running, 2), (.stalled, 3), (.aborting, 4), (.complete, 5),
      (.faulted, 6), (.stopped, 7)] → field w0 0 4 = code)
    ∧ (ctx.owner = none → field w0 4 2 = 0 ∧ field w0 6 1 = 0)
    ∧ (∀ p, ctx.owner = some p → field w0 4 2 = p.val ∧ field w0 6 1 = 1)
    ∧ (ctx.index < 256 → field w0 8 8 = ctx.index ∧ field w0 25 7 = 0)
    ∧ (ctx.bytesMoved < 2 ^ 32 → w1.toNat = ctx.bytesMoved)
    ∧ (ctx.fault = none → ctx.index < 256 → field w0 7 1 = 0 ∧ field w0 16 8 = 0 ∧ field w0 24 1 = 0 ∧ w2 = 0#32)
    ∧ ∀ f, ctx.fault = some f → ctx.index < 256 → field w0 7 1 = 1
      ∧ (∀ code, (f.code, code) ∈ [(FaultCode.badDescriptor, 1), (.listTooLong, 2), (.masterError, 3), (.masterTimeout, 4),
          (.locked, 5), (.lockTimeout, 6), (.selfLocked, 7), (.guardLost, 8), (.dataError, 9), (.poisoned, 10),
          (.portDown, 11)] → field w0 16 8 = code)
      ∧ (f.addr = none → field w0 24 1 = 0 ∧ w2 = 0#32)
      ∧ ∀ a, f.addr = some a → field w0 24 1 = 1 ∧ (a < 2 ^ 32 → w2.toNat = a)

/-- The settings of Table 9.2 with their values (R175, R177, R178): the value of a setting number, in the bits a setting has. -/
def SettingHolds (s : State) (n v : Nat) : Prop :=
  (n, v) ∈ [(0x00, 0x0440), (0x01, 0x0001), (0x02, s.settings.supervisor.val), (0x03, s.settings.timebase.toNat),
      (0x04, s.settings.priorityPort.toNat), (0x09, s.settings.waitDefault.toNat), (0x0A, s.settings.orphanHold.toNat),
      (0x0B, s.settings.responseTimeout.toNat), (0x0C, s.settings.stallLimit.toNat), (0x0D, s.settings.trainWindow.toNat),
      (0x18, (allLockSlots.filter fun k => decide ((s.locks.entry k).state ≠ .free)).length), (0x19, s.poison.length)]
    ∨ (∃ q : Port, n = 0x05 + q.val ∧ v = (s.settings.quota[q]).toNat)
    ∨ (∃ q : Port, n = 0x10 + q.val ∧ ((s.link q).link, v)
        ∈ [(LinkState.off, 0), (.down, 1), (.training, 2), (.up, 3), (.fenced, 4)])
    ∨ ∃ q : Port, n = 0x14 + q.val ∧ ((s.link q).downCause, v)
        ∈ [(DownCause.hubReset, 0), (.linkLoss, 1), (.linkError, 2), (.overrun, 3), (.tagReuse, 4), (.portReset, 5),
          (.fence, 6)]

/-! ### The words of the statements: runs -/

/-- Descriptor e became current at index i (R94 to R96) in a channel of port p: the run is RUNNING, and a descriptor not LAST has its
lookahead under way. -/
def BecameCurrent (t : State) (c : Channel) (p : Port) (e : Descriptor) (i : Nat) : Prop :=
  (t.chan c).state = .running ∧ (t.chan c).current = some e ∧ (t.chan c).index = i
    ∧ (t.chan c).next = (if e.last then none else some .fetching)
    ∧ (e.last = false → HubRequestHanded t p
        ⟨c, .lookahead, .fetch ((t.chan c).list.getD 0#32 + BitVec.ofNat 32 (16 * (i + 1))) 16⟩)

/-- The length of the chunk of descriptor d that begins at a position (R111). -/
def lengthAt (d : Descriptor) (pos : Nat) : Nat :=
  let len := min (64 - (d.store + pos) % 64) (d.count - pos)
  if d.kind = .storeCopy then min len (64 - (d.far.toNat + pos) % 64) else len

/-- The store access that a RUNNING channel with none presented presents (R114): in descriptor d, with a position, a chunk list and a
guard. -/
def accessToPresent (d : Descriptor) (pos : Nat) (chunks : List Chunk) (g : Option Handle) : Option ChannelAccess :=
  match chunks.head?, d.kind with
  | none, .storeCopy => if pos < d.count then
      some ⟨d.store + pos, ⟨(d.far + BitVec.ofNat 32 pos).toNat, .read (lengthAt d pos / 4), g⟩⟩ else none
  | none, .storeFill => if pos < d.count then
      some ⟨d.store + pos, ⟨d.store + pos, .write (List.replicate (lengthAt d pos / 4) d.far), g⟩⟩ else none
  | _, .fromStore => if chunks.length < 4 ∧ pos < d.count then
      some ⟨d.store + pos, ⟨d.store + pos, .read (lengthAt d pos / 4), g⟩⟩ else none
  | some k, _ => if k.state = .dataHeld then some ⟨k.store, ⟨k.store, .write k.buffer, g⟩⟩ else none
  | none, .toStore => none

/-- Channel c of port p moves on in descriptor d (R113, R114) from a position and a chunk list, with no store access presented: its next
access is presented, and TO_STORE with room in its list hands the next chunk's FETCH. -/
def MovesOn (t : State) (c : Channel) (p : Port) (d : Descriptor) (pos : Nat) (chunks : List Chunk) (g : Option Handle) :
    Prop :=
  t.waitingAccess c = accessToPresent d pos chunks g
    ∧ (d.kind = .toStore → chunks.length < 4 → pos < d.count →
        HubRequestHanded t p ⟨c, .chunk (d.store + pos), .fetch (d.far + BitVec.ofNat 32 pos) (lengthAt d pos)⟩)

/-- Step 3 of R96 with R95: from u, in which the data of the descriptor at index i, not LAST, is done and the marks are not yet handed,
the next-descriptor field decides what becomes of channel c of port p in t. The index becomes that of a descriptor found invalid (the
model's reading, log entry 17). -/
def AdvancesBy (u t : State) (c : Channel) (p : Port) (i : Nat) (next : Lookahead) (marks : List Handed) : Prop :=
  EngineOnly u t
    ∧ (∀ e, next = .valid e → (e.last = true ∨ i + 1 ≠ 255) → BecameCurrent t c p e (i + 1)
        ∧ (t.chan c).bytesMoved = (u.chan c).bytesMoved ∧ t.events = joined u.events marks
        ∧ (u.accessPresented c = false → MovesOn t c p e 0 [] (u.chan c).guard))
    ∧ (∀ e, next = .valid e → e.last = false → i + 1 = 255 → FaultsRun u t c p .listTooLong 255 none marks)
    ∧ (∀ code, next = .invalid code → FaultsRun u t c p code (i + 1) none marks)
    ∧ (next = .fetching → t.chan c = u.chan c ∧ t.waitingAccess c = u.waitingAccess c ∧ t.events = joined u.events marks)

/-- The bytes that an ending taken in ABORTING adds (Table 5.6): those of a chunk whose STORE was answered OK. -/
def movedByEnding (ctx : ChannelContext) (r : HubRequest) (how : Ending) : Nat :=
  match how, r.op, r.purpose.chunk? with
  | .replyOk _, .store _ _, some st => ((ctx.chunkAt st).map fun k => k.len).getD 0
  | _, _, _ => 0

/-- The bytes that an access outcome taken in ABORTING adds (Table 5.6): those of a chunk whose write was carried out. -/
def movedByOutcome (ctx : ChannelContext) (a : ChannelAccess) (o : AccessOutcome) : Nat :=
  match o, a.access.op.isWrite with
  | .done _ _, true => ((ctx.chunkAt a.chunk).map fun k => k.len).getD 0
  | _, _ => 0

/-- An ABORTING channel took one of its claims (R100, R101, Table 5.6), from u, in which the claim is taken: `moved` bytes are added; with
something still in flight it stays ABORTING, and with nothing it ends by its end mode. -/
def DrainsOn (u t : State) (c : Channel) (p : Port) (moved : Nat) : Prop :=
  EngineOnly u t
    ∧ (u.inFlight c = true → (t.chan c).state = .aborting ∧ t.events = u.events
        ∧ (t.chan c).fault = (u.chan c).fault ∧ (t.chan c).endMode = (u.chan c).endMode
        ∧ (t.chan c).bytesMoved = (u.chan c).bytesMoved + moved)
    ∧ (u.inFlight c = false → (u.chan c).endMode = some .unbind → t.chan c = ChannelContext.reset ∧ t.events = u.events)
    ∧ (u.inFlight c = false → (u.chan c).endMode = some .keep → (t.chan c).chunks = [] ∧ (t.chan c).current = none
        ∧ (t.chan c).index = (u.chan c).index ∧ (t.chan c).fault = (u.chan c).fault
        ∧ (t.chan c).bytesMoved = (u.chan c).bytesMoved + moved
        ∧ (∀ f, (u.chan c).fault = some f → (t.chan c).state = .faulted
            ∧ t.events = u.events ++ [[(p, .channelEnd c (.faulted f.code) ((u.chan c).bytesMoved + moved))]])
        ∧ ((u.chan c).fault = none → (t.chan c).state = .stopped
            ∧ t.events = u.events ++ [[(p, .channelEnd c .stopped ((u.chan c).bytesMoved + moved))]]))

end Sys2Proof.Machine
end

