-- ==== Sys2Proof/Certificates/Slice0/Obligations.lean ====
section
/-! DEFINITION. The statements for the provers, each about every state its hypotheses allow. -/

open Sys2Proof Sys2Proof.Machine

/-! ### Steps -/

/-- The command at the front of the queue leaves it and has its effect; with none waiting only the time elapsed in the
unit in progress changes (the model's choice, log entry 16). -/
def Obligations.StepTakesTheFrontCommand : Prop :=
  (∀ (c : Instr) (s : State), step { s with pending := c :: s.pending } = exec c s)
  ∧ ∀ s : State, s.pending = [] → ∃ t, step s = .next t ∧ t = { s with timebase := t.timebase }
      ∧ (s.timebase = none → t.timebase = none)
      ∧ ∀ u, s.timebase = some u → u.elapsed < u.length → t.timebase = some ⟨u.length, u.elapsed + 1⟩

/-- Every command gives a next state, leaves the commands behind it waiting, and takes back nothing that has been sent.
A command with nothing to take changes nothing (the model's choice, log entry 3). The packets sent stand in the model's record (log
entry 15). -/
def Obligations.EveryCommandGivesANextState : Prop :=
  ∀ (c : Instr) (s : State), ∃ t, exec c s = .next t ∧ t.pending = s.pending
    ∧ ∀ p : Port, s.sentTo p <+: t.sentTo p

/-! ### Reset (chapter 9, with R7, R8, R9, R20, R50, R51, R110, R146, R167) -/

/-- What a fall of PWROK leaves of every block, in COLD too (the model's reading, log entry 21). The store's contents and conditions
are then the free values of log entry 6, at the count of resets that log entry 22 names. -/
def Obligations.ColdResetResetsEveryBlock : Prop :=
  ∀ s : State, ∃ t, exec .pwrokFall s = .next t
    ∧ t.seqState = .cold ∧ t.hubrdy = false ∧ t.timebase = none
    ∧ t.settings = { supervisor := s.straps, timebase := 2#16, priorityPort := 4#16, quota := Vector.replicate 4 8#16,
                     waitDefault := 2000#16, orphanHold := 5000#16, responseTimeout := 20#16, stallLimit := 500#16,
                     trainWindow := 100#16 }
    ∧ t.poison = [] ∧ (∀ a, t.store.byte a = Config.powerUpByte s.fresh a)
    ∧ (∀ w, t.store.condition w = Config.powerUpCondition s.fresh w)
    ∧ t.arbiter.lastPort = 3 ∧ t.arbiter.turn = .priority ∧ t.arbiter.inProgress = none
    ∧ (∀ p : Port, t.arbiter.lastMember[p] = .chan 7)
    ∧ (∀ c : Channel, t.waitingAccess c = none ∧ t.outcomeOf c = none)
    ∧ (∀ k : LockSlot, t.locks.entry k = ⟨0#8, .free⟩) ∧ t.locks.order = []
    ∧ (∀ c : Channel, t.chan c = ChannelContext.reset)
    ∧ (∀ p : Port, t.link p = LinkController.reset (s.link p).prst ∧ t.queue p = [] ∧ t.claimsOf p = []
        ∧ t.portDown p = PortDownClaims.none)
    ∧ t.events = [] ∧ t.announcements = [] ∧ t.reports = []
    ∧ t.hrst = s.hrst ∧ t.straps = s.straps

/-- R182 with R7 and R8: the rise of PWROK starts INIT, and its completion leaves every word clean and 0 and enters RUN
unless HRST has been asserted since before; an assertion of HRST in FILL stops INIT at some word (which one is a free value, log
entry 6); elsewhere than in FILL and RUN HRST is only a level, and its release enters RUN from HELD and returns from FILL_HELD to FILL. -/
def Obligations.ResetSequencingFillsTheStore : Prop :=
  (∀ s : State, s.seqState = .cold →
    exec .pwrokRise s = .next { s with seqState := if s.hrst then .fillHeld else .fill })
  ∧ (∀ s : State, s.seqState = .fill → ∃ t, exec .initComplete s = .next t
      ∧ t.seqState = .run ∧ t.hubrdy = true ∧ t.settings = { s.settings with supervisor := s.straps }
      ∧ t.timebase = some ⟨10 ^ s.settings.timebase.toNat, 0⟩
      ∧ (∀ w, w < 65536 → t.store.word w = 0#32 ∧ t.store.condition w = .clean)
      ∧ t = { s with seqState := .run, store := t.store, settings := t.settings, timebase := t.timebase })
  ∧ (∀ s : State, s.seqState = .fillHeld → ∃ t, exec .initComplete s = .next t
      ∧ t.seqState = .held ∧ t.hubrdy = false
      ∧ (∀ w, w < 65536 → t.store.word w = 0#32 ∧ t.store.condition w = .clean)
      ∧ t = { s with seqState := .held, store := t.store })
  ∧ (∀ s : State, s.seqState = .fill → s.memoryLawful → ∃ t, exec .hrstAssert s = .next t
    ∧ t.seqState = .held ∧ t.hubrdy = false ∧ t.hrst = true
    ∧ ∃ n, n < 65536 ∧ (∀ w, w < n → t.store.word w = 0#32 ∧ t.store.condition w = .clean)
        ∧ ∀ w, n ≤ w → t.store.word w = s.store.word w ∧ t.store.condition w = s.store.condition w)
  ∧ (∀ s : State, s.seqState ≠ .fill → s.seqState ≠ .run → exec .hrstAssert s = .next { s with hrst := true })
  ∧ (∀ s : State, s.seqState = .held → exec .hrstRelease s = .next
      { s with hrst := false, seqState := .run, settings := { s.settings with supervisor := s.straps }
               timebase := some ⟨10 ^ s.settings.timebase.toNat, 0⟩ })
  ∧ (∀ s : State, s.seqState = .fillHeld → exec .hrstRelease s = .next { s with hrst := false, seqState := .fill })
  ∧ ∀ s : State, s.seqState ≠ .held → s.seqState ≠ .fillHeld → exec .hrstRelease s = .next { s with hrst := false }

/-- An assertion of HRST in RUN with no store access in progress: the store and the poison set stay, every lock entry goes
FREE with its generation advanced if it was in use, every other block starts again. -/
def Obligations.WarmResetKeepsTheStore : Prop :=
  ∀ s : State, s.seqState = .run → s.arbiter.inProgress = none → ∃ t, exec .hrstAssert s = .next t
    ∧ t.seqState = .held ∧ t.hubrdy = false ∧ t.hrst = true ∧ t.timebase = none
    ∧ t.store = s.store ∧ t.poison = s.poison
    ∧ t.settings = Settings.reset s.straps ∧ t.arbiter = Arbiter.reset
    ∧ (∀ k : LockSlot, t.locks.entry k
        = ⟨if (s.locks.entry k).state = .free then (s.locks.entry k).gen else (s.locks.entry k).gen + 1, .free⟩)
    ∧ t.locks.order = []
    ∧ (∀ c : Channel, t.chan c = ChannelContext.reset)
    ∧ (∀ p : Port, t.link p = LinkController.reset (s.link p).prst ∧ t.queue p = [] ∧ t.claimsOf p = []
        ∧ t.portDown p = PortDownClaims.none)
    ∧ t.events = [] ∧ t.announcements = [] ∧ t.reports = [] ∧ t.straps = s.straps

/-- An assertion of HRST in RUN that cuts the store access in progress (R9): the words it does not touch stay; a word that a
WRITE or an atomic would have written is clean and holds the old or the new value; a read, and a COMPARE_SWAP that does not match,
leaves every value, and a single-bit error corrected or as it was; an atomic that met an uncorrectable word leaves the store; the
poison set stays, but that the granule of a reading access that had met an uncorrectable word may have joined it; the result is not
delivered.
What R9 leaves open is a free value (log entries 7 and 8). -/
def Obligations.WarmResetCutsTheAccessInProgress : Prop :=
  ∀ (s : State) (g : Granted), s.seqState = .run → s.memoryLawful → s.arbiter.inProgress = some g →
    ∃ t, exec .hrstAssert s = .next t
    ∧ (∀ x, x < g.access.addr / 4 ∨ g.access.addr / 4 + g.access.op.count ≤ x →
        t.store.word x = s.store.word x ∧ t.store.condition x = s.store.condition x)
    ∧ (∀ data, g.access.op = .write data → ∀ (i : Nat) (h : i < data.length),
        t.store.condition (g.access.addr / 4 + i) = .clean
        ∧ (s.store.condition (g.access.addr / 4 + i) ≠ .uncorrectable →
            t.store.word (g.access.addr / 4 + i) = data[i]
            ∨ t.store.word (g.access.addr / 4 + i) = s.store.word (g.access.addr / 4 + i)))
    ∧ (∀ new, (g.access.op = .swap new ∨ (∃ x, g.access.op = .fetchAdd x ∧ new = s.store.word (g.access.addr / 4) + x)
          ∨ g.access.op = .compareSwap (s.store.word (g.access.addr / 4)) new) →
        s.store.condition (g.access.addr / 4) ≠ .uncorrectable → t.store.condition (g.access.addr / 4) = .clean
        ∧ (t.store.word (g.access.addr / 4) = new ∨ t.store.word (g.access.addr / 4) = s.store.word (g.access.addr / 4)))
    ∧ (∀ e v, g.access.op = .compareSwap e v → e ≠ s.store.word (g.access.addr / 4) → ∀ x,
        t.store.word x = s.store.word x
        ∧ (t.store.condition x = s.store.condition x
            ∨ s.store.condition x = .singleBit ∧ t.store.condition x = .clean))
    ∧ ((∃ v, g.access.op = .swap v) ∨ (∃ x, g.access.op = .fetchAdd x) ∨ (∃ e v, g.access.op = .compareSwap e v) →
        s.store.condition (g.access.addr / 4) = .uncorrectable → t.store = s.store)
    ∧ (∀ n, g.access.op = .read n → ∀ x, t.store.word x = s.store.word x
        ∧ (t.store.condition x = s.store.condition x
            ∨ s.store.condition x = .singleBit ∧ t.store.condition x = .clean))
    ∧ (t.poison = s.poison
        ∨ (∀ data, g.access.op ≠ .write data)
          ∧ (∃ i, i < g.access.op.count ∧ s.store.condition (g.access.addr / 4 + i) = .uncorrectable)
          ∧ t.poison = setInsert (granuleOf g.access.addr) s.poison)
    ∧ t.arbiter = Arbiter.reset ∧ ∀ p : Port, t.sentTo p = s.sentTo p ∧ t.queue p = []

/-- R171: outside RUN the SUPERVISOR setting follows the straps; at each entry to RUN it takes the straps' value; in RUN
a change of the straps does not move it; the hub's HELLO names the port that SUPERVISOR gives then. -/
def Obligations.SupervisorFollowsTheStraps : Prop :=
  (∀ (s : State) (q : Port), s.seqState ≠ .run →
    exec (.supselChange q) s = .next { s with straps := q, settings := { s.settings with supervisor := q } })
  ∧ (∀ (s : State) (q : Port), s.seqState = .run → exec (.supselChange q) s = .next { s with straps := q })
  ∧ (∀ s : State, s.seqState = .fill → ∃ t, exec .initComplete s = .next t ∧ t.seqState = .run ∧ t.supervisor = s.straps)
  ∧ (∀ s : State, s.seqState = .held → ∃ t, exec .hrstRelease s = .next t ∧ t.seqState = .run ∧ t.supervisor = s.straps)
  ∧ ∀ (s : State) (p : Port), s.seqState = .run → ((s.link p).link = .down ∨ (s.link p).link = .training) →
      ∃ t pkt w rest, exec (.hello p) s = .next t ∧ t.sentTo p = s.sentTo p ++ [pkt] ∧ pkt.kind = 0x60#8
        ∧ pkt.payload = w :: rest ∧ field w 24 2 = s.supervisor.val

/-- PRSTn on a link that is not UP (R149): no port-down event, the level recorded in every state. -/
def Obligations.PortResetLineOutsideUp : Prop :=
  (∀ (s : State) (p : Port), ((s.link p).link = .down ∨ (s.link p).link = .training) →
    exec (.prstnAssert p) s
      = .next (s.setLink p { s.link p with prst := true, link := .off, trainTimer := none, readyTaken := none }))
  ∧ (∀ (s : State) (p : Port), ((s.link p).link = .off ∨ (s.link p).link = .fenced) →
    exec (.prstnAssert p) s = .next (s.setLink p { s.link p with prst := true }))
  ∧ (∀ (s : State) (p : Port), (s.link p).link = .off →
    exec (.prstnRelease p) s
      = .next (s.setLink p { s.link p with prst := false, link := .down, trainTimer := none, readyTaken := none }))
  ∧ ∀ (s : State) (p : Port), (s.link p).link ≠ .off →
    exec (.prstnRelease p) s = .next (s.setLink p { s.link p with prst := false })

/-! ### Disturbance and time -/

/-- R1: a disturbance makes a clean word a single-bit-error or uncorrectable one, or a single-bit-error word uncorrectable, and
changes nothing else.
The command's operand is the resulting condition (the model's choice, log entry 20). -/
def Obligations.DisturbanceChangesOneCondition : Prop :=
  ∀ (s : State) (w : BitVec 16) (c : Condition), s.memoryLawful → c ≠ .clean →
    ∃ t, exec (.bitDisturbance w c) s = .next t ∧ t = { s with store := t.store }
    ∧ (∀ a, t.store.byte a = s.store.byte a)
    ∧ (∀ x, x ≠ w.toNat → t.store.condition x = s.store.condition x)
    ∧ (s.store.condition w.toNat = .clean → t.store.condition w.toNat = c)
    ∧ (s.store.condition w.toNat = .singleBit → t.store.condition w.toNat = c)
    ∧ (s.store.condition w.toNat = .uncorrectable → t.store.condition w.toNat = .uncorrectable)

/-- R179 with R41, R125, R152 and R158: in RUN a boundary counts every running timer once and begins a unit of the length TIMEBASE now
gives; outside RUN there is none.
A count of 0 stays 0 (log entry 11). -/
def Obligations.BoundaryCountsEveryTimer : Prop :=
  (∀ s : State, s.seqState = .run → ∃ t, exec .timebaseBoundary s = .next t
    ∧ t = { s with locks := t.locks, channels := t.channels, links := t.links, timebase := t.timebase }
    ∧ t.timebase = some ⟨10 ^ s.settings.timebase.toNat, 0⟩
    ∧ t.locks.order = s.locks.order
    ∧ (∀ k : LockSlot, (t.locks.entry k).gen = (s.locks.entry k).gen)
    ∧ (∀ k : LockSlot, (s.locks.entry k).state = .free → (t.locks.entry k).state = .free)
    ∧ (∀ (k : LockSlot) c, (s.locks.entry k).state = .held c → c.leaseLen ≠ 0 →
        (t.locks.entry k).state = .held { c with leaseLeft := c.leaseLeft - 1 })
    ∧ (∀ (k : LockSlot) c, (s.locks.entry k).state = .held c → c.leaseLen = 0 → (t.locks.entry k).state = .held c)
    ∧ (∀ (k : LockSlot) c n, (s.locks.entry k).state = .waiting c n → (t.locks.entry k).state = .waiting c (n - 1))
    ∧ (∀ (k : LockSlot) c n a, (s.locks.entry k).state = .orphaned c n a →
        (t.locks.entry k).state = .orphaned c (n - 1) a)
    ∧ (∀ c : Channel, t.chan c
        = { s.chan c with stall := (s.chan c).stall.map fun r => { r with time := r.time + 1 } })
    ∧ ∀ p : Port, t.link p = { s.link p with trainTimer := (s.link p).trainTimer.map (· - 1), slots := (t.link p).slots }
        ∧ ∀ h : HubSlot, (t.link p).slots[h] = ⟨((s.link p).slots[h]).seq,
            ((s.link p).slots[h]).held.map fun o => ⟨o.req, o.timer.map (· - 1)⟩⟩)
  ∧ ∀ s : State, s.seqState ≠ .run → exec .timebaseBoundary s = .next s

/-- R43: the expiry of a HELD entry's lease releases it, hands LOCK_BROKEN with cause LEASE to the owner before the sweep's
grants, runs the sweep and announces the range; every other kind of entry, and a lease not yet run out, it leaves alone. What a
release and a sweep leave of the other entries and of the waiting order is SweepGrantsInArrivalOrder.
That the expiry may be taken while the count reads 0, and does nothing otherwise, is the model's choice (log entries 3 and 11). -/
def Obligations.LeaseExpiryReleasesTheEntry : Prop :=
  (∀ (s : State) (k : LockSlot) c, (s.locks.entry k).state = .held c → c.leaseLen ≠ 0 → c.leaseLeft = 0 →
    ∃ t, exec (.leaseExpiry k) s = .next t
    ∧ t = { s with locks := t.locks, events := t.events, announcements := s.announcements ++ [c.range] }
    ∧ t.locks.entry k = ⟨(s.locks.entry k).gen + 1, .free⟩
    ∧ t.locks.honoured ⟨k, (s.locks.entry k).gen⟩ = none
    ∧ t.locks = (s.locks.release k).sweep.1
    ∧ t.events = s.events ++ [(c.owner, .lockBroken ⟨k, (s.locks.entry k).gen⟩ .lease) :: (s.locks.release k).sweep.2])
  ∧ ∀ (s : State) (k : LockSlot),
    (∀ c, (s.locks.entry k).state = .held c → c.leaseLen = 0 ∨ c.leaseLeft ≠ 0) → exec (.leaseExpiry k) s = .next s

/-- R44 and R74: the expiry of a wait or orphan timer ends the entry, with its notices before the sweep's grants; an orphan's
range is announced. What a release and a sweep leave of the rest of the table is SweepGrantsInArrivalOrder.
That the expiry may be taken while the count reads 0 is the model's choice (log entry 11). -/
def Obligations.WaitAndOrphanExpiryEndTheEntry : Prop :=
  (∀ (s : State) (k : LockSlot) c, (s.locks.entry k).state = .waiting c 0 →
    ∃ t, exec (.waitExpiry k) s = .next t
    ∧ t = { s with locks := t.locks, events := t.events }
    ∧ t.locks.entry k = ⟨(s.locks.entry k).gen + 1, .free⟩ ∧ k ∉ t.locks.order
    ∧ t.locks = (s.locks.release k).sweep.1
    ∧ t.events = s.events
        ++ [(c.owner, .lockWaitEnded ⟨k, (s.locks.entry k).gen⟩ .waitLimit) :: (s.locks.release k).sweep.2])
  ∧ ∀ (s : State) (k : LockSlot) c ad, (s.locks.entry k).state = .orphaned c 0 ad →
    ∃ t, exec (.orphanExpiry k) s = .next t
    ∧ t = { s with locks := t.locks, events := t.events, announcements := s.announcements ++ [c.range] }
    ∧ t.locks.entry k = ⟨(s.locks.entry k).gen + 1, .free⟩
    ∧ t.locks = (s.locks.release k).sweep.1
    ∧ t.events = s.events
        ++ [(c.owner, .lockBroken ⟨k, (s.locks.entry k).gen⟩ .orphanExpired)
            :: (s.supervisor, .lockOrphanReleased ⟨k, (s.locks.entry k).gen⟩ c.owner .orphanExpired)
            :: (s.locks.release k).sweep.2]

/-- R125: a stall that has lasted its limit faults the run with LOCK_TIMEOUT at the stalled access; with nothing in flight
the run ends in the same action and CHANNEL_END is handed.
That the time may have passed the limit is the model's choice (log entry 11). -/
def Obligations.StallExpiryFaultsTheRun : Prop :=
  ∀ (s : State) (c : Channel) (p : Port) r, (s.chan c).state = .stalled → (s.chan c).stall = some r →
    r.limit ≤ r.time → (s.chan c).owner = some p → ∃ t, exec (.stallExpiry c) s = .next t
    ∧ FaultTaken s t c .lockTimeout (s.chan c).index (some r.refused.access.addr) ∧ EngineOnly s t
    ∧ (s.inFlight c = true → (t.chan c).state = .aborting ∧ t.events = s.events)
    ∧ (s.inFlight c = false → (t.chan c).state = .faulted ∧ (t.chan c).chunks = []
        ∧ t.events = s.events ++ [[(p, .channelEnd c (.faulted .lockTimeout) (s.chan c).bytesMoved)]])

/-! ### The port links (chapter 8) -/

/-- R152: what takes a link from TRAINING to DOWN; it is no port-down event and hands nothing.
That the window's expiry may be taken while its count reads 0 is the model's choice (log entry 11). -/
def Obligations.TrainingFails : Prop :=
  ∀ (s : State) (p : Port), (s.link p).link = .training →
    ((s.link p).trainTimer = some 0 → exec (.trainWindowExpiry p) s
        = .next (s.setLink p { s.link p with link := .down, trainTimer := none, readyTaken := none }))
    ∧ exec (.lossOfSignal p) s
        = .next (s.setLink p { s.link p with link := .down, trainTimer := none, readyTaken := none })
    ∧ exec (.badCheckPacket p) s
        = .next (s.setLink p { s.link p with link := .down, trainTimer := none, readyTaken := none })
    ∧ (∀ pkt, arrivesAsRequest pkt → exec (.requestReceived p pkt) s
        = .next (s.setLink p { s.link p with link := .down, trainTimer := none, readyTaken := none }))
    ∧ (∀ tag payload, exec (.fetchReply p tag payload) s
        = .next (s.setLink p { s.link p with link := .down, trainTimer := none, readyTaken := none }))
    ∧ (∀ tag payload, exec (.storeReply p tag payload) s
        = .next (s.setLink p { s.link p with link := .down, trainTimer := none, readyTaken := none }))
    ∧ ∀ w : Word, (s.link p).readyTaken = some false → (field w 0 8 = 0 ∨ 8 < field w 0 8) → exec (.ready p w) s
        = .next (s.setLink p { s.link p with link := .down, trainTimer := none, readyTaken := none })

/-- R160: at the expiry of a slot's timer the slot is freed with its sequence advanced and the timeout is handed to the
channel; the link stays as it is; then free slots are given to waiting requests by rotation, and nothing else changes (R116, R118).
That it may be taken while the count reads 0 is the model's choice (log entry 11). -/
def Obligations.SlotTimeoutEndsTheRequest : Prop :=
  ∀ (s : State) (p : Port) (h : HubSlot) (r : HubRequest), (s.link p).outstanding h = some ⟨r, some 0⟩ →
    ∃ t, exec (.slotTimeout p h) s = .next t ∧ SlotsGiven p (s.requestEnded p h r .timeout) t
    ∧ t = { s with links := t.links, claims := t.claims, channels := t.channels }
    ∧ t.claimsOf p = s.claimsOf p ++ [.ending r .timeout]
    ∧ ((t.link p).slots[h]).seq = ((s.link p).slots[h]).seq + 1
    ∧ (∀ o, (t.link p).outstanding h = some o → o.timer = none)
    ∧ (t.link p).link = (s.link p).link ∧ (t.link p).responses = (s.link p).responses
    ∧ (t.link p).service = (s.link p).service ∧ (t.link p).inbound = (s.link p).inbound
    ∧ ∀ q, q ≠ p → t.link q = s.link q ∧ t.claimsOf q = s.claimsOf q

/-- R150, R151, R153: a HELLO is answered in DOWN when HUBRDY is high, which starts training, and in TRAINING, where the window
runs on; otherwise it has no effect. -/
def Obligations.HelloIsAnswered : Prop :=
  (∀ (s : State) (p : Port), (s.link p).link = .down → s.seqState = .run → ∃ t, exec (.hello p) s = .next t
    ∧ t = { s with links := t.links, tx := t.tx }
    ∧ t.link p = { s.link p with link := .training, trainTimer := some s.settings.trainWindow.toNat
                                 readyTaken := some false }
    ∧ (∀ q, q ≠ p → t.link q = s.link q ∧ t.sentTo q = s.sentTo q)
    ∧ t.sentTo p = s.sentTo p ++ [⟨0x60#8, 0#8, 0#8,
        [BitVec.ofNat 32 (0x0440 + 65536 * p.val + 16777216 * s.supervisor.val), 0x00080410#32]⟩])
  ∧ (∀ (s : State) (p : Port), (s.link p).link = .training → ∃ t, exec (.hello p) s = .next t
    ∧ t = { s with tx := t.tx } ∧ (∀ q, q ≠ p → t.sentTo q = s.sentTo q)
    ∧ t.sentTo p = s.sentTo p ++ [⟨0x60#8, 0#8, 0#8,
        [BitVec.ofNat 32 (0x0440 + 65536 * p.val + 16777216 * s.supervisor.val), 0x00080410#32]⟩])
  ∧ (∀ (s : State) (p : Port), (s.link p).link = .down → s.seqState ≠ .run → exec (.hello p) s = .next s)
  ∧ ∀ (s : State) (p : Port), (s.link p).link ≠ .down → (s.link p).link ≠ .training → exec (.hello p) s = .next s

/-- R151 and R165: a valid READY sets slots allowed; with the dispatcher IDLE the link comes UP with full credit, sequence
number 0 and turn OTHER, PEER_UP is handed for the other ports, and waiting hub requests are given free slots (R116, R158); with a
request from before the loss in service the link waits in TRAINING. Port-down events of the port that other blocks have not taken, and
the endings before them, are taken first, so that none is left (the model's choice, log entry 10), and the PEER_UP events stand in port
order, in a list of their own behind the others (the model's choice, log entries 33 and 37). -/
def Obligations.ReadyBringsTheLinkUp : Prop :=
  ∀ (s : State) (p : Port) (w : Word), (s.link p).link = .training → (s.link p).readyTaken = some false →
    1 ≤ field w 0 8 → field w 0 8 ≤ 8 →
    ((s.link p).service = none → ∃ t, exec (.ready p w) s = .next t
      ∧ (t.link p).link = .up ∧ (t.link p).slotsAllowed = field w 0 8 ∧ (t.link p).heldCount = 0
      ∧ (t.link p).tags = [] ∧ (t.link p).noticeSeq = 0#8 ∧ (t.link p).turn = .other
      ∧ (t.link p).trainTimer = none ∧ (t.link p).readyTaken = none
      ∧ (∃ before, t.events = before ++ [(allPorts.filter (· != p)).map fun q => (q, .peerUp p)])
      ∧ t.portDown p = PortDownClaims.none ∧ t.claimsOf p = [] ∧ (∀ u, ¬GivesOne p t u)
      ∧ (s.portDown p = PortDownClaims.none → s.claimsOf p = [] →
          t = { s with links := t.links, events := t.events, channels := t.channels }
          ∧ t.events = s.events ++ [(allPorts.filter (· != p)).map fun q => (q, .peerUp p)]
          ∧ SlotsGiven p { s.setLink p { s.link p with
              link := .up, slotsAllowed := field w 0 8, heldCount := 0, tags := [], noticeSeq := 0#8, turn := .other
              trainTimer := none, readyTaken := none } with events := t.events } t))
    ∧ ((s.link p).service ≠ none → exec (.ready p w) s
        = .next (s.setLink p { s.link p with slotsAllowed := field w 0 8, readyTaken := some true }))

/-- R161 to R164: the loss of a link that is UP, soft by loss of signal or a bad packet, hard by PRSTn: what the Link Controller
clears, drops and hands on; PRSTn's level is recorded (R149). The PEER_DOWN events stand in port order (the model's choice, log
entry 33).
That a request presented and not granted leaves in this action is the model's reading (log entry 24). -/
def Obligations.LossClearsTheLink : Prop :=
  ∀ (s : State) (p : Port) (c : Instr) (dest : LinkState) (cause : DownCause) (loss : Loss),
    (s.link p).link = .up →
    (c, dest, cause, loss) ∈ [(.lossOfSignal p, .down, .linkLoss, .soft), (.badCheckPacket p, .down, .linkError, .soft),
      (.prstnAssert p, .off, .portReset, .hard)] →
    ∃ t, exec c s = .next t
    ∧ t = { s with links := t.links, claims := t.claims, portDowns := t.portDowns, events := t.events }
    ∧ LinkLost s t p dest cause loss
    ∧ (c = .prstnAssert p → (t.link p).prst = true) ∧ (c ≠ .prstnAssert p → (t.link p).prst = (s.link p).prst)
    ∧ ∀ q, q ≠ p → t.link q = s.link q ∧ t.claimsOf q = s.claimsOf q ∧ t.portDown q = s.portDown q

/-- R154, R155, R161, R163: a request on a link that is UP takes it down with OVERRUN at a held count of 16, or with TAG_REUSE when its
tag is in use, with every step of a soft loss; otherwise it is counted and queued, and an IDLE dispatcher takes it or answers it
MALFORMED.
The dispatcher acts in the same action (log entry 25), and the PEER_DOWN events stand in port order (the model's choice, log entry
33). -/
def Obligations.RequestIsCountedAndQueued : Prop :=
  ∀ (s : State) (p : Port) (pkt : Packet), (s.link p).link = .up → arrivesAsRequest pkt →
    (16 ≤ (s.link p).heldCount → ∃ t, exec (.requestReceived p pkt) s = .next t
      ∧ t = { s with links := t.links, claims := t.claims, portDowns := t.portDowns, events := t.events }
      ∧ LinkLost s t p .down .overrun .soft ∧ (t.link p).prst = (s.link p).prst ∧ ∀ q, q ≠ p → t.link q = s.link q)
    ∧ ((s.link p).heldCount < 16 → (pkt.tag.setWidth 4).toNat ∈ (s.link p).tags →
      ∃ t, exec (.requestReceived p pkt) s = .next t
      ∧ t = { s with links := t.links, claims := t.claims, portDowns := t.portDowns, events := t.events }
      ∧ LinkLost s t p .down .tagReuse .soft ∧ (t.link p).prst = (s.link p).prst ∧ ∀ q, q ≠ p → t.link q = s.link q)
    ∧ ((s.link p).heldCount < 16 → (pkt.tag.setWidth 4).toNat ∉ (s.link p).tags →
      ∃ t, exec (.requestReceived p pkt) s = .next t ∧ t = { s with links := t.links }
      ∧ (∀ q, q ≠ p → t.link q = s.link q)
      ∧ (t.link p).link = .up ∧ (t.link p).heldCount = (s.link p).heldCount + 1
      ∧ (∀ n, n ∈ (t.link p).tags ↔ n = (pkt.tag.setWidth 4).toNat ∨ n ∈ (s.link p).tags)
      ∧ ((s.link p).service ≠ none → (t.link p).service = (s.link p).service
          ∧ (t.link p).inbound = (s.link p).inbound ++ [pkt] ∧ (t.link p).responses = (s.link p).responses)
      ∧ (∀ req, (s.link p).service = none → (s.link p).inbound = [] → decodeRequest pkt = some req →
          (t.link p).service = some ⟨pkt, req, .handed, false⟩ ∧ (t.link p).inbound = []
          ∧ (t.link p).responses = (s.link p).responses)
      ∧ ((s.link p).service = none → (s.link p).inbound = [] → decodeRequest pkt = none →
          (t.link p).service = none ∧ (t.link p).inbound = []
          ∧ (t.link p).responses = (s.link p).responses ++ [⟨pkt.tag.setWidth 4, pkt.kind, .malformed, none, []⟩]))

/-- R159: a reply ends the request in its slot when the slot is outstanding and sent, the sequence is the slot's and the kinds
agree; a FETCH_REPLY with OK but another length is handed as FAILED; then free slots are given to waiting requests by rotation, and
nothing else changes (R116, R118); any other reply has no effect. -/
def Obligations.ReplyEndsItsRequest : Prop :=
  ∀ (s : State) (p : Port) (tag : Byte) (payload : List Word), (s.link p).link = .up →
    (∀ r n addr len, (s.link p).outstanding (replySlot tag) = some ⟨r, some n⟩ → tag.toNat < 128 →
      ((s.link p).slots[replySlot tag]).seq = replySeq tag → r.op = .fetch addr len →
      (∃ t, exec (.fetchReply p tag payload) s = .next t
        ∧ t = { s with links := t.links, claims := t.claims, channels := t.channels }
        ∧ ((t.link p).slots[replySlot tag]).seq = replySeq tag + 1
        ∧ (∀ q, q ≠ p → t.link q = s.link q ∧ t.claimsOf q = s.claimsOf q)
        ∧ (∀ w data, payload = w :: data → field w 0 8 = 0 → 4 * data.length = len →
            t.claimsOf p = s.claimsOf p ++ [.ending r (.replyOk data)]
            ∧ SlotsGiven p (s.requestEnded p (replySlot tag) r (.replyOk data)) t)
        ∧ (∀ w data, payload = w :: data → (field w 0 8 ≠ 0 ∨ 4 * data.length ≠ len) →
            t.claimsOf p = s.claimsOf p ++ [.ending r .replyFailed]
            ∧ SlotsGiven p (s.requestEnded p (replySlot tag) r .replyFailed) t))
      ∧ exec (.storeReply p tag payload) s = .next s)
    ∧ (∀ r n addr words, (s.link p).outstanding (replySlot tag) = some ⟨r, some n⟩ → tag.toNat < 128 →
      ((s.link p).slots[replySlot tag]).seq = replySeq tag → r.op = .store addr words →
      (∃ t, exec (.storeReply p tag payload) s = .next t
        ∧ t = { s with links := t.links, claims := t.claims, channels := t.channels }
        ∧ ((t.link p).slots[replySlot tag]).seq = replySeq tag + 1
        ∧ (∀ q, q ≠ p → t.link q = s.link q ∧ t.claimsOf q = s.claimsOf q)
        ∧ (∀ w data, payload = w :: data → field w 0 8 = 0 → t.claimsOf p = s.claimsOf p ++ [.ending r (.replyOk [])]
            ∧ SlotsGiven p (s.requestEnded p (replySlot tag) r (.replyOk [])) t)
        ∧ (∀ w data, payload = w :: data → field w 0 8 ≠ 0 → t.claimsOf p = s.claimsOf p ++ [.ending r .replyFailed]
            ∧ SlotsGiven p (s.requestEnded p (replySlot tag) r .replyFailed) t))
      ∧ exec (.fetchReply p tag payload) s = .next s)
    ∧ ((128 ≤ tag.toNat ∨ ((s.link p).slots[replySlot tag]).seq ≠ replySeq tag
        ∨ (∀ o ∈ (s.link p).outstanding (replySlot tag), o.timer = none)) →
      exec (.fetchReply p tag payload) s = .next s ∧ exec (.storeReply p tag payload) s = .next s)

/-- R156 and R157: the head response goes out when no hub request is ready or the turn is OTHER; its tag and its place in the held
count are free again.
The packet stands in the model's record (log entry 15). -/
def Obligations.ResponseSentReturnsTheCredit : Prop :=
  ∀ (s : State) (p : Port) r rest, (s.link p).link = .up → (s.link p).responses = r :: rest →
    ((s.link p).unsent = [] ∨ (s.link p).turn = .other) → ∃ t, exec (.responseSent p) s = .next t
    ∧ t = { s with links := t.links, tx := t.tx }
    ∧ t.sentTo p = s.sentTo p ++ [⟨0x40#8, r.tag.setWidth 8, 0#8,
        (r.detail.getD 0xFFFF#16 ++ r.kind ++ r.status.code) :: r.words⟩]
    ∧ t.link p = { s.link p with responses := rest, tags := (s.link p).tags.filter (· != r.tag.toNat)
                                 heldCount := (s.link p).heldCount - 1, turn := .hub }
    ∧ ∀ q, q ≠ p → t.link q = s.link q ∧ t.sentTo q = s.sentTo q

/-- R139, R140 and R157: the first PENDING record goes out when no response waits, fewer than 4 records are SENT, and no hub request
is ready or the turn is OTHER; it becomes SENT with the counter's value, and the counter goes up.
The packet stands in the model's record (log entry 15). -/
def Obligations.NoticeSentTakesANumber : Prop :=
  ∀ (s : State) (p : Port) sent r rest, (s.link p).link = .up → (s.link p).responses = [] →
    s.queue p = sent ++ r :: rest → (∀ x ∈ sent, x.isPending = false) → r.sent = none → sentCount (s.queue p) < 4 →
    ((s.link p).unsent = [] ∨ (s.link p).turn = .other) → ∃ t, exec (.noticeSent p) s = .next t
    ∧ t = { s with links := t.links, notices := t.notices, tx := t.tx }
    ∧ t.queue p = sent ++ { r with sent := some (s.link p).noticeSeq } :: rest
    ∧ t.link p = { s.link p with noticeSeq := (s.link p).noticeSeq + 1, turn := .hub }
    ∧ (∃ w ws, t.sentTo p = s.sentTo p ++ [⟨0x41#8, (s.link p).noticeSeq, 0#8, w :: ws⟩] ∧ ws = r.event.words
        ∧ (r.occurrences ≤ 255 → field w 24 8 = r.occurrences) ∧ field w 0 8 = r.event.code)
    ∧ ∀ q, q ≠ p → t.link q = s.link q ∧ t.queue q = s.queue q ∧ t.sentTo q = s.sentTo q

/-- R157 and R158: the oldest slot given goes out when the turn is HUB or nothing else is ready; its timer starts from
RESPONSE_TIMEOUT.
The packet stands in the model's record (log entry 15). -/
def Obligations.HubRequestSentStartsItsTimer : Prop :=
  ∀ (s : State) (p : Port) h rest o, (s.link p).link = .up → (s.link p).unsent = h :: rest →
    (s.link p).outstanding h = some o →
    ((s.link p).turn = .hub ∨ (s.link p).responses = [] ∧ offered (s.queue p) = none) →
    ∃ t, exec (.hubRequestSent p) s = .next t
    ∧ t = { s with links := t.links, tx := t.tx }
    ∧ t.sentTo p = s.sentTo p ++ [o.req.op.packet (BitVec.ofNat 4 h.val ++ ((s.link p).slots[h]).seq)]
    ∧ (t.link p).unsent = rest ∧ (t.link p).turn = .other
    ∧ (t.link p).outstanding h = some ⟨o.req, some s.settings.responseTimeout.toNat⟩
    ∧ ((t.link p).slots[h]).seq = ((s.link p).slots[h]).seq
    ∧ (∀ k, k ≠ h → (t.link p).slots[k] = (s.link p).slots[k])
    ∧ t.link p = { s.link p with unsent := rest, turn := .other, slots := (t.link p).slots }
    ∧ ∀ q, q ≠ p → t.link q = s.link q ∧ t.sentTo q = s.sentTo q

/-! ### Direct accesses and the arbiter (chapters 1 and 3) -/

/-- R10, with R12 to R16: the dispatcher's length and address checks on a direct request, in this order, and the store access it then
has waiting at the arbiter, made of the request's fields. -/
def Obligations.DirectRequestIsChecked : Prop :=
  ∀ (s : State) (p : Port) (c : Instr) (req : Request) (addr : Word) (n : Nat) (op : AccessOp) (g : Option Handle),
    s.request p = some req →
    ((∃ len, req = .read addr len g ∧ n = len.toNat ∧ op = .read (n / 4) ∧ c = .read p)
      ∨ (∃ len data, req = .write addr len data g ∧ n = len.toNat ∧ op = .write data ∧ c = .write p)
      ∨ (∃ x, req = .fetchAdd addr x g ∧ n = 4 ∧ op = .fetchAdd x ∧ c = .fetchAdd p)
      ∨ (∃ x, req = .swap addr x g ∧ n = 4 ∧ op = .swap x ∧ c = .swap p)
      ∨ (∃ x y, req = .compareSwap addr x y g ∧ n = 4 ∧ op = .compareSwap x y ∧ c = .compareSwap p)) →
    (¬(4 ≤ n ∧ n ≤ 64 ∧ n % 4 = 0) → ∃ t, exec c s = .next t ∧ AnsweredOnly s t p .badLength none [])
    ∧ ((4 ≤ n ∧ n ≤ 64 ∧ n % 4 = 0) → ¬(addr.toNat % 4 = 0 ∧ addr.toNat ≤ 0x3FFFF ∧ addr.toNat % 64 + n ≤ 64) →
        ∃ t, exec c s = .next t ∧ AnsweredOnly s t p .badAddress none [])
    ∧ ((4 ≤ n ∧ n ≤ 64 ∧ n % 4 = 0) → (addr.toNat % 4 = 0 ∧ addr.toNat ≤ 0x3FFFF ∧ addr.toNat % 64 + n ≤ 64) →
        ∃ t, exec c s = .next t
          ∧ t = s.setLink p { s.link p with service := (s.link p).service.map fun sv => { sv with stage := .presented } }
          ∧ t.memberAccess p .dispatcher = some ⟨0, ⟨addr.toNat, op, g⟩⟩)

/-- R17 and R18: with no access in progress the port named by PRIORITY_PORT is granted on a PRIORITY turn when its group waits,
otherwise the first waiting port after the last granted one; within the group the first waiting member after its last; the
rotation state moves as the rules say. -/
def Obligations.GrantFollowsTheRotation : Prop :=
  ∀ s : State, s.arbiter.inProgress = none →
    ((∀ q, s.groupWaiting q = false) → exec .arbiterGrant s = .next s)
    ∧ ((∃ q, s.groupWaiting q = true) → ∃ g, s.nextGrant = some g)
    ∧ ∀ p m a isPriority, s.nextGrant = some (p, m, a, isPriority) →
      s.memberAccess p m = some a
      ∧ (∀ m', (s.memberAccess p m').isSome = true →
          memberDistance s.arbiter.lastMember[p] m ≤ memberDistance s.arbiter.lastMember[p] m')
      ∧ (isPriority = true → s.settings.priorityPort.toNat = p.val ∧ s.arbiter.turn = .priority)
      ∧ (isPriority = false →
          (∀ q, s.groupWaiting q = true → rotationDistance s.arbiter.lastPort p ≤ rotationDistance s.arbiter.lastPort q)
          ∧ (s.arbiter.turn = .priority →
              ∀ q : Port, q.val = s.settings.priorityPort.toNat → s.groupWaiting q = false))
      ∧ ∃ t, exec .arbiterGrant s = .next t
        ∧ t.arbiter.lastPort = (if isPriority then s.arbiter.lastPort else p)
        ∧ t.arbiter.lastMember = s.arbiter.lastMember.set p m
        ∧ t.arbiter.turn = if isPriority then .rotation else .priority

/-- R11, R53 to R58 and law 5: the checks made at a grant, in order guard, lock, poison; the first failure is the outcome, and
the access is over with nothing changed; an access that passes is in progress.
That a refused access is over with its grant is the model's reading (log entry 9). -/
def Obligations.GrantMakesTheChecks : Prop :=
  ∀ (s : State) p m (a : ChannelAccess) isPriority, s.arbiter.inProgress = none → (∀ q, (s.link q).lawful) →
    s.nextGrant = some (p, m, a, isPriority) → ∃ t, exec .arbiterGrant s = .next t
    ∧ t = { s with links := t.links, arbiter := t.arbiter }
    ∧ (∀ c : Channel, m ≠ .chan c → t.waitingAccess c = s.waitingAccess c ∧ t.outcomeOf c = s.outcomeOf c)
    ∧ (∀ c, m = .chan c → t.waitingAccess c = none)
    ∧ ∀ g isWrite, g = a.access.addr / 64 → isWrite = a.access.op.isWrite →
      (∀ h, a.access.guard = some h → ¬GuardPasses s.locks p h →
        t.arbiter.inProgress = none ∧ Delivered s t p m a .guardFailed)
      ∧ ((∀ h, a.access.guard = some h → GuardPasses s.locks p h) →
        (∀ k, EntryRefuses s.locks p g isWrite k → (∀ j, j < k → ¬EntryRefuses s.locks p g isWrite j) →
          ∃ cls, t.arbiter.inProgress = none ∧ Delivered s t p m a (.lockRefused k cls)
            ∧ (cls = .ownPort ↔ ∃ j, EntryRefuses s.locks p g isWrite j
                ∧ ∃ c ∈ (s.locks.entry j).state.claim?, c.owner = p))
        ∧ ((∀ k, ¬EntryRefuses s.locks p g isWrite k) →
          (g ∈ s.poison → isWrite = false → t.arbiter.inProgress = none ∧ Delivered s t p m a .dataError)
          ∧ (g ∈ s.poison → isWrite = true → ¬(a.access.op.count = 16 ∧ a.access.addr % 64 = 0) →
              t.arbiter.inProgress = none ∧ Delivered s t p m a .poisoned)
          ∧ (g ∉ s.poison ∨ isWrite = true ∧ a.access.op.count = 16 ∧ a.access.addr % 64 = 0 →
              (∃ report, t.arbiter.inProgress = some ⟨p, m, a.chunk, a.access, report⟩
                ∧ ∀ h, h ∈ report ↔ a.access.guard = some h
                    ∨ ∃ c, s.locks.entry h.slot = ⟨h.gen, .held c⟩ ∧ c.owner = p ∧ c.first ≤ g ∧ g < c.first + c.count
                        ∧ c.leaseLen ≠ 0)
              ∧ (m = .dispatcher → t.links = (s.setLink p { s.link p with
                  service := (s.link p).service.map fun sv => { sv with stage := .granted } }).links)
              ∧ ∀ c, m = .chan c → t.links = s.links ∧ t.outcomeOf c = s.outcomeOf c)))

/-- R13, R3, R6 and R60: a WRITE carried out leaves each of its words new and clean and every other word as it was, clears the
granule's poison when it writes all of it, restarts leases by its report and is answered OK. R164: when the port's link has gone
down since the grant, the write and the report stand and no response joins the queue. -/
def Obligations.WriteAccessCompletes : Prop :=
  ∀ (s : State) (g : Granted) (data : List Word), s.memoryLawful → s.arbiter.inProgress = some g →
    g.access.op = .write data → ∃ t, exec .accessComplete s = .next t
    ∧ (∀ (i : Nat) (h : i < data.length), t.store.word (g.access.addr / 4 + i) = data[i]
        ∧ t.store.condition (g.access.addr / 4 + i) = .clean)
    ∧ (∀ x, x < g.access.addr / 4 ∨ g.access.addr / 4 + data.length ≤ x →
        t.store.word x = s.store.word x ∧ t.store.condition x = s.store.condition x)
    ∧ (∀ x, x ∈ t.poison ↔ x ∈ s.poison ∧ ¬(data.length = 16 ∧ g.access.addr % 64 = 0 ∧ x = g.access.addr / 64))
    ∧ t.reports = (if g.report = [] then s.reports else s.reports ++ [g.report])
    ∧ t.arbiter.inProgress = none
    ∧ (ResultWanted s g →
        t = { s with store := t.store, poison := t.poison, reports := t.reports, arbiter := t.arbiter, links := t.links }
        ∧ Delivered s t g.port g.member ⟨g.chunk, g.access⟩ (.done [] none))
    ∧ (ResultDiscarded s g → EndsDiscarded s t g.port)

/-- R12, R2 and R4: a READ carried out gives the words in ascending order with single-bit errors corrected and written back; one
that meets an uncorrectable word gives DATA_ERROR, poisons the granule and tells the supervisor. No word's value changes. R164: when
the port's link has gone down since the grant, all of this stands and no response joins the queue.
That the supervisor's event and a PEER_UP of the same action are two lists is the model's choice (log entry 37). -/
def Obligations.ReadAccessCompletes : Prop :=
  ∀ (s : State) (g : Granted) (n : Nat), s.memoryLawful → s.arbiter.inProgress = some g → g.access.op = .read n →
    ∃ t, exec .accessComplete s = .next t
    ∧ (ResultWanted s g → t = { s with store := t.store, poison := t.poison, reports := t.reports, events := t.events
                                       arbiter := t.arbiter, links := t.links })
    ∧ (ResultDiscarded s g → EndsDiscarded s t g.port)
    ∧ (∀ x, t.store.word x = s.store.word x)
    ∧ (∀ i, i < n → t.store.condition (g.access.addr / 4 + i) = afterRead (s.store.condition (g.access.addr / 4 + i)))
    ∧ (∀ x, x < g.access.addr / 4 ∨ g.access.addr / 4 + n ≤ x → t.store.condition x = s.store.condition x)
    ∧ t.arbiter.inProgress = none
    ∧ ((∀ i, i < n → s.store.condition (g.access.addr / 4 + i) ≠ .uncorrectable) →
        t.poison = s.poison ∧ t.reports = (if g.report = [] then s.reports else s.reports ++ [g.report])
        ∧ (ResultWanted s g → t.events = s.events ∧ Delivered s t g.port g.member ⟨g.chunk, g.access⟩
            (.done ((List.range n).map fun i => s.store.word (g.access.addr / 4 + i)) none)))
    ∧ ((∃ i, i < n ∧ s.store.condition (g.access.addr / 4 + i) = .uncorrectable) →
        (∀ x, x ∈ t.poison ↔ x = g.access.addr / 64 ∨ x ∈ s.poison)
        ∧ s.events ++ [[(s.supervisor, .storePoison (g.access.addr / 64))]] <+: t.events ∧ t.reports = s.reports
        ∧ (ResultWanted s g → t.events = s.events ++ [[(s.supervisor, .storePoison (g.access.addr / 64))]]
            ∧ Delivered s t g.port g.member ⟨g.chunk, g.access⟩ .dataError))

/-- R14 and R15: what FETCH_ADD, SWAP and COMPARE_SWAP write and answer, from the old value; an uncorrectable word is left, poisons
its granule and is answered DATA_ERROR. R164: when the port's link has gone down since the grant, all of this stands and no response
joins the queue.
That the supervisor's event and a PEER_UP of the same action are two lists is the model's choice (log entry 37). -/
def Obligations.AtomicAccessCompletes : Prop :=
  ∀ (s : State) (g : Granted) (old new : Word) (swapped : Option Bool), s.memoryLawful →
    s.arbiter.inProgress = some g → old = s.store.word (g.access.addr / 4) →
    ((∃ x, g.access.op = .fetchAdd x ∧ new = old + x ∧ swapped = none)
      ∨ (∃ v, g.access.op = .swap v ∧ new = v ∧ swapped = none)
      ∨ (∃ e v, g.access.op = .compareSwap e v ∧ old = e ∧ new = v ∧ swapped = some true)
      ∨ (∃ e v, g.access.op = .compareSwap e v ∧ old ≠ e ∧ new = old ∧ swapped = some false)) →
    ∃ t, exec .accessComplete s = .next t
    ∧ (ResultWanted s g → t = { s with store := t.store, poison := t.poison, reports := t.reports, events := t.events
                                       arbiter := t.arbiter, links := t.links })
    ∧ (ResultDiscarded s g → EndsDiscarded s t g.port)
    ∧ (∀ x, x ≠ g.access.addr / 4 → t.store.word x = s.store.word x ∧ t.store.condition x = s.store.condition x)
    ∧ t.arbiter.inProgress = none
    ∧ (s.store.condition (g.access.addr / 4) ≠ .uncorrectable →
        t.store.word (g.access.addr / 4) = new ∧ t.store.condition (g.access.addr / 4) = .clean
        ∧ t.poison = s.poison ∧ t.reports = (if g.report = [] then s.reports else s.reports ++ [g.report])
        ∧ (ResultWanted s g → t.events = s.events
            ∧ Delivered s t g.port g.member ⟨g.chunk, g.access⟩ (.done [old] swapped)))
    ∧ (s.store.condition (g.access.addr / 4) = .uncorrectable →
        t.store.word (g.access.addr / 4) = old ∧ t.store.condition (g.access.addr / 4) = .uncorrectable
        ∧ (∀ x, x ∈ t.poison ↔ x = g.access.addr / 64 ∨ x ∈ s.poison)
        ∧ s.events ++ [[(s.supervisor, .storePoison (g.access.addr / 64))]] <+: t.events ∧ t.reports = s.reports
        ∧ (ResultWanted s g → t.events = s.events ++ [[(s.supervisor, .storePoison (g.access.addr / 64))]]
            ∧ Delivered s t g.port g.member ⟨g.chunk, g.access⟩ .dataError))

/-! ### The Lock Unit (chapters 2 and 4) -/

/-- R42: a report sets the lease remaining of each named entry that is honoured, HELD and leased back to its lease length, and
passes over the others.
Reports are taken in the order handed (the model's choice, log entry 14). -/
def Obligations.ReportRestartsLeases : Prop :=
  ∀ (s : State) names rest, s.reports = names :: rest → ∃ t, exec .leaseRestartReport s = .next t
    ∧ t = { s with reports := rest, locks := t.locks } ∧ t.locks.order = s.locks.order
    ∧ ∀ k : LockSlot, (t.locks.entry k).gen = (s.locks.entry k).gen
      ∧ (∀ c, (s.locks.entry k).state = .held c → ⟨k, (s.locks.entry k).gen⟩ ∈ names → c.leaseLen ≠ 0 →
          (t.locks.entry k).state = .held { c with leaseLeft := c.leaseLen })
      ∧ ((⟨k, (s.locks.entry k).gen⟩ ∉ names ∨ (∀ c ∈ (s.locks.entry k).state.held?, c.leaseLen = 0)) →
          (t.locks.entry k).state = (s.locks.entry k).state)

/-- R28 to R31: a LOCK that passes its checks takes the lowest-numbered FREE slot with the generation it has, HELD when no other
port's entry conflicts, otherwise WAITING at the tail of the waiting order. -/
def Obligations.LockTakesTheLowestFreeSlot : Prop :=
  ∀ (s : State) (p : Port) (first count : Nat) (m : LockMode) (wait : Bool) (limit lease : Nat) (k : LockSlot) (r : Claim),
    s.request p = some (.lock first count m wait limit lease) → r = ⟨p, m, first, count, lease, lease⟩ →
    1 ≤ count → count ≤ 64 → first + count ≤ 4096 →
    (s.locks.ownedBy p).length < (s.settings.quota[p]).toNat →
    (s.locks.entry k).state = .free → (∀ j, j < k → (s.locks.entry j).state ≠ .free) →
    (∀ j : LockSlot, ∀ c ∈ (s.locks.entry j).state.claim?, c.owner = p → c.conflicts r = false) →
    ((∀ j : LockSlot, ∀ c ∈ (s.locks.entry j).state.claim?, c.owner ≠ p → c.conflicts r = false) →
      ∃ t, exec (.lock p) s = .next t ∧ LockAnswered s t p .granted (handleDetail k (s.locks.entry k).gen)
      ∧ t.locks = s.locks.setEntry k ⟨(s.locks.entry k).gen, .held r⟩
      ∧ t.events = s.events ∧ t.announcements = s.announcements)
    ∧ ((∃ j : LockSlot, ∃ c ∈ (s.locks.entry j).state.claim?, c.owner ≠ p ∧ c.conflicts r = true) → wait = true →
      (∀ j : LockSlot, ∀ c ∈ (s.locks.entry j).state.waiting?, c.owner ≠ p) → ¬ClosesCycle s.locks p r →
      ∃ t, exec (.lock p) s = .next t ∧ LockAnswered s t p .queued (handleDetail k (s.locks.entry k).gen)
      ∧ t.locks.table = (s.locks.setEntry k ⟨(s.locks.entry k).gen,
          .waiting r (if limit = 0 then s.settings.waitDefault.toNat else limit)⟩).table
      ∧ t.locks.order = s.locks.order ++ [k] ∧ t.events = s.events ∧ t.announcements = s.announcements)

/-- R28, steps 1 to 4 and 6 to 8, R27 and R33: the refusals of a LOCK, in order, with their details; nothing else changes. -/
def Obligations.LockIsRefused : Prop :=
  ∀ (s : State) (p : Port) (first count : Nat) (m : LockMode) (wait : Bool) (limit lease : Nat) (r : Claim),
    s.request p = some (.lock first count m wait limit lease) → r = ⟨p, m, first, count, lease, lease⟩ →
    (¬(1 ≤ count ∧ count ≤ 64 ∧ first + count ≤ 4096) →
      ∃ t, exec (.lock p) s = .next t ∧ AnsweredOnly s t p .badRange none [])
    ∧ (1 ≤ count → count ≤ 64 → first + count ≤ 4096 →
      ((s.settings.quota[p]).toNat ≤ (s.locks.ownedBy p).length →
        ∃ t, exec (.lock p) s = .next t ∧ AnsweredOnly s t p .quota none [])
      ∧ ((s.locks.ownedBy p).length < (s.settings.quota[p]).toNat →
        ((∀ k, (s.locks.entry k).state ≠ .free) →
          ∃ t, exec (.lock p) s = .next t ∧ AnsweredOnly s t p .tableFull none [])
        ∧ ((∃ k, (s.locks.entry k).state = .free) →
          (∀ (k : LockSlot) c, (s.locks.entry k).state.claim? = some c → c.owner = p → c.conflicts r = true →
            (∀ j, j < k → ∀ d ∈ (s.locks.entry j).state.claim?, d.owner = p → d.conflicts r = false) →
            ∃ t, exec (.lock p) s = .next t ∧ AnsweredOnly s t p .selfConflict (some (BitVec.ofNat 16 k.val)) [])
          ∧ ∀ (k : LockSlot) c,
            (∀ j : LockSlot, ∀ d ∈ (s.locks.entry j).state.claim?, d.owner = p → d.conflicts r = false) →
            (s.locks.entry k).state.claim? = some c → c.owner ≠ p → c.conflicts r = true →
            (∀ j, j < k → ∀ d ∈ (s.locks.entry j).state.claim?, d.owner ≠ p → d.conflicts r = false) →
            (wait = false → ∃ t, exec (.lock p) s = .next t
              ∧ AnsweredOnly s t p .conflict (some (BitVec.ofNat 16 k.val)) [])
            ∧ (∀ w d, wait = true → (s.locks.entry w).state.waiting? = some d → d.owner = p →
              (∀ j, j < w → ∀ d ∈ (s.locks.entry j).state.waiting?, d.owner ≠ p) → ∃ t, exec (.lock p) s = .next t
              ∧ AnsweredOnly s t p .waitBusy (some (BitVec.ofNat 16 w.val)) [])
            ∧ (wait = true → (∀ j : LockSlot, ∀ d ∈ (s.locks.entry j).state.waiting?, d.owner ≠ p) →
              ClosesCycle s.locks p r → ∃ t, exec (.lock p) s = .next t
              ∧ AnsweredOnly s t p .wouldDeadlock (some (BitVec.ofNat 16 k.val)) []))))

/-- R37 and R38: UNLOCK by the owner of a HELD or WAITING entry frees it, with its generation advanced, runs the sweep, and
announces a HELD entry's range; every other UNLOCK is refused and changes nothing. What a release and a sweep leave of the rest of
the table is SweepGrantsInArrivalOrder. -/
def Obligations.UnlockReleases : Prop :=
  ∀ (s : State) (p : Port) (h : Handle), s.request p = some (.unlock h) →
    (∀ c, s.locks.entry h.slot = ⟨h.gen, .held c⟩ → c.owner = p → ∃ t, exec (.unlock p) s = .next t
      ∧ LockAnswered s t p .ok none ∧ t.locks.entry h.slot = ⟨h.gen + 1, .free⟩
      ∧ t.locks = (s.locks.release h.slot).sweep.1
      ∧ t.events = joined s.events (s.locks.release h.slot).sweep.2
      ∧ t.announcements = s.announcements ++ [⟨c.first, c.count⟩])
    ∧ (∀ c n, s.locks.entry h.slot = ⟨h.gen, .waiting c n⟩ → c.owner = p → ∃ t, exec (.unlock p) s = .next t
      ∧ LockAnswered s t p .ok none ∧ t.locks.entry h.slot = ⟨h.gen + 1, .free⟩ ∧ h.slot ∉ t.locks.order
      ∧ t.locks = (s.locks.release h.slot).sweep.1
      ∧ t.events = joined s.events (s.locks.release h.slot).sweep.2
      ∧ t.announcements = s.announcements)
    ∧ ((s.locks.entry h.slot).gen ≠ h.gen ∨ (s.locks.entry h.slot).state = .free →
      ∃ t, exec (.unlock p) s = .next t ∧ AnsweredOnly s t p .staleHandle none [])
    ∧ (∀ c, (s.locks.entry h.slot).gen = h.gen → (s.locks.entry h.slot).state.claim? = some c →
      (c.owner ≠ p ∨ ∃ n a, (s.locks.entry h.slot).state = .orphaned c n a) →
      ∃ t, exec (.unlock p) s = .next t ∧ AnsweredOnly s t p .notOwner none [])

/-- R39: RENEW, row by row of its table. -/
def Obligations.RenewSetsTheLease : Prop :=
  ∀ (s : State) (p : Port) (h : Handle) (lease : Nat), s.request p = some (.renew h lease) →
    (∀ c, s.locks.entry h.slot = ⟨h.gen, .held c⟩ → c.owner = p → ∃ t, exec (.renew p) s = .next t
      ∧ LockAnswered s t p .ok none ∧ t.events = s.events ∧ t.announcements = s.announcements
      ∧ t.locks = s.locks.setEntry h.slot ⟨h.gen, .held { c with leaseLen := lease, leaseLeft := lease }⟩
      ∧ (lease = 0 → exec (.leaseExpiry h.slot) t = .next t))
    ∧ (∀ c n, s.locks.entry h.slot = ⟨h.gen, .waiting c n⟩ → c.owner = p →
      ∃ t, exec (.renew p) s = .next t ∧ AnsweredOnly s t p .badStateForLock none [])
    ∧ ((s.locks.entry h.slot).gen ≠ h.gen ∨ (s.locks.entry h.slot).state = .free →
      ∃ t, exec (.renew p) s = .next t ∧ AnsweredOnly s t p .staleHandle none [])
    ∧ (∀ c, (s.locks.entry h.slot).gen = h.gen → (s.locks.entry h.slot).state.claim? = some c →
      (c.owner ≠ p ∨ ∃ n a, (s.locks.entry h.slot).state = .orphaned c n a) →
      ∃ t, exec (.renew p) s = .next t ∧ AnsweredOnly s t p .notOwner none [])

/-- R75 and R76: ADOPT, row by row of its table: the former owner of an adoptable orphan holds it again under the same handle with a
full lease, and its range is announced. -/
def Obligations.AdoptTakesTheOrphanBack : Prop :=
  ∀ (s : State) (p : Port) (h : Handle), s.request p = some (.adopt h) →
    (∀ c n, s.locks.entry h.slot = ⟨h.gen, .orphaned c n true⟩ → c.owner = p → ∃ t, exec (.adopt p) s = .next t
      ∧ LockAnswered s t p .ok (handleDetail h.slot h.gen) ∧ t.events = s.events
      ∧ t.announcements = s.announcements ++ [⟨c.first, c.count⟩]
      ∧ t.locks = s.locks.setEntry h.slot ⟨h.gen, .held { c with leaseLeft := c.leaseLen }⟩
      ∧ GuardPasses t.locks p h)
    ∧ ((s.locks.entry h.slot).gen ≠ h.gen ∨ (s.locks.entry h.slot).state = .free →
      ∃ t, exec (.adopt p) s = .next t ∧ AnsweredOnly s t p .staleHandle none [])
    ∧ (∀ c, (s.locks.entry h.slot).gen = h.gen →
      ((s.locks.entry h.slot).state = .held c ∨ ∃ n, (s.locks.entry h.slot).state = .waiting c n) →
      ∃ t, exec (.adopt p) s = .next t ∧ AnsweredOnly s t p .notOrphaned none [])
    ∧ (∀ c n a, s.locks.entry h.slot = ⟨h.gen, .orphaned c n a⟩ → c.owner ≠ p →
      ∃ t, exec (.adopt p) s = .next t ∧ AnsweredOnly s t p .notOwner none [])
    ∧ (∀ c n, s.locks.entry h.slot = ⟨h.gen, .orphaned c n false⟩ → c.owner = p →
      ∃ t, exec (.adopt p) s = .next t ∧ AnsweredOnly s t p .notOrphaned none [])

/-- R77 to R79 with R172: RECLAIM and FORCE_RELEASE are the supervisor's; RECLAIM takes an orphan over under a new generation with a
full lease; FORCE_RELEASE ends the entry in the slot whatever its state, with the notice of that state before the sweep's. What a
release and a sweep leave of the rest of the table is SweepGrantsInArrivalOrder. -/
def Obligations.SupervisorReclaimsAndForces : Prop :=
  (∀ (s : State) (p : Port) (h : Handle), s.request p = some (.reclaim h) →
    (p ≠ s.supervisor → ∃ t, exec (.reclaim p) s = .next t ∧ AnsweredOnly s t p .notSupervisor none [])
    ∧ (p = s.supervisor →
      ((s.locks.entry h.slot).gen ≠ h.gen ∨ (s.locks.entry h.slot).state = .free →
        ∃ t, exec (.reclaim p) s = .next t ∧ AnsweredOnly s t p .staleHandle none [])
      ∧ (∀ c, (s.locks.entry h.slot).gen = h.gen →
        ((s.locks.entry h.slot).state = .held c ∨ ∃ n, (s.locks.entry h.slot).state = .waiting c n) →
        ∃ t, exec (.reclaim p) s = .next t ∧ AnsweredOnly s t p .notOrphaned none [])
      ∧ ∀ c n a, s.locks.entry h.slot = ⟨h.gen, .orphaned c n a⟩ →
        (∀ w, s.locks.waitingOf p = some w →
          ∃ t, exec (.reclaim p) s = .next t ∧ AnsweredOnly s t p .waitBusy (some (BitVec.ofNat 16 w.val)) [])
        ∧ ((∀ j : LockSlot, ∀ d ∈ (s.locks.entry j).state.waiting?, d.owner ≠ p) → ∃ t, exec (.reclaim p) s = .next t
          ∧ LockAnswered s t p .ok (handleDetail h.slot (h.gen + 1)) ∧ t.events = s.events
          ∧ t.announcements = s.announcements ++ [⟨c.first, c.count⟩]
          ∧ t.locks = s.locks.setEntry h.slot ⟨h.gen + 1, .held { c with owner := p, leaseLeft := c.leaseLen }⟩)))
  ∧ ∀ (s : State) (p : Port) (k : LockSlot), s.request p = some (.forceRelease k) →
    (p ≠ s.supervisor → ∃ t, exec (.forceRelease p) s = .next t ∧ AnsweredOnly s t p .notSupervisor none [])
    ∧ (p = s.supervisor →
      ((s.locks.entry k).state = .free → ∃ t, exec (.forceRelease p) s = .next t ∧ AnsweredOnly s t p .ok none [])
      ∧ ∀ c, (s.locks.entry k).state.claim? = some c → ∃ t, exec (.forceRelease p) s = .next t
        ∧ LockAnswered s t p .ok none ∧ t.locks.entry k = ⟨(s.locks.entry k).gen + 1, .free⟩
        ∧ t.locks = (s.locks.release k).sweep.1
        ∧ (∀ n, (s.locks.entry k).state = .waiting c n → t.announcements = s.announcements
            ∧ t.events = s.events
              ++ [(c.owner, .lockWaitEnded ⟨k, (s.locks.entry k).gen⟩ .forced) :: (s.locks.release k).sweep.2])
        ∧ ((s.locks.entry k).state = .held c → t.announcements = s.announcements ++ [⟨c.first, c.count⟩]
            ∧ t.events = s.events
              ++ [(c.owner, .lockBroken ⟨k, (s.locks.entry k).gen⟩ .forced) :: (s.locks.release k).sweep.2])
        ∧ ∀ n a, (s.locks.entry k).state = .orphaned c n a → t.announcements = s.announcements ++ [⟨c.first, c.count⟩]
            ∧ t.events = s.events
              ++ [(p, .lockOrphanReleased ⟨k, (s.locks.entry k).gen⟩ c.owner .forced) :: (s.locks.release k).sweep.2])

/-- R35 and law 3: the sweep grants, in arrival order, exactly the waiting entries that no standing entry, those granted earlier in the
sweep among them, and no earlier entry still waiting conflicts with; each granted entry is HELD with its full lease and told to its
owner; nothing else changes. A release, which runs before it, changes its own entry alone and leaves the order of the other waiting
entries (R22, R31). -/
def Obligations.SweepGrantsInArrivalOrder : Prop :=
  (∀ (u : LockUnit) (k : LockSlot), Released u (u.release k) k)
  ∧ ∀ (u v : LockUnit) (granted : List Handed), u.orderMatches → u.sweep = (v, granted) →
    v.order.Sublist u.order
    ∧ (∀ k, k ∉ u.order → v.entry k = u.entry k)
    ∧ (∀ k c n, (u.entry k).state = .waiting c n →
        k ∈ v.order ∧ v.entry k = u.entry k
        ∨ k ∉ v.order ∧ v.entry k = ⟨(u.entry k).gen, .held { c with leaseLeft := c.leaseLen }⟩)
    ∧ granted = u.order.filterMap (fun k => if k ∈ v.order then none
        else (u.entry k).state.waiting?.map fun c => (c.owner, .lockGranted ⟨k, (u.entry k).gen⟩))
    ∧ (∀ k ∈ u.order, k ∉ v.order → ∀ c ∈ (u.entry k).state.waiting?,
        (∀ j : LockSlot, ∀ d ∈ (u.entry j).state.standing?, d.conflicts c = false)
        ∧ (∀ j : LockSlot, j ≠ k → ∀ d ∈ (v.entry j).state.standing?, d.conflicts c = false)
        ∧ ∀ j ∈ v.order, u.order.idxOf j < u.order.idxOf k → ∀ d ∈ (u.entry j).state.waiting?, d.conflicts c = false)
    ∧ ∀ k ∈ v.order, ∀ c ∈ (u.entry k).state.waiting?,
        (∃ j : LockSlot, ∃ d ∈ (v.entry j).state.standing?, d.conflicts c = true)
        ∨ ∃ j ∈ v.order, u.order.idxOf j < u.order.idxOf k ∧ ∃ d ∈ (u.entry j).state.waiting?, d.conflicts c = true

/-- R40, R105 and R175 with Tables 9.2 and 10.5: LOCK_QUERY answers OK with the lock entry report, CHANNEL_QUERY of a channel that
exists OK with the channel report, CONFIG_READ of a setting that exists OK with its number and value, each as it stands; the others
are refused; nothing else changes. That the channel report's absent fields read as zero is the model's reading (log entry 34). -/
def Obligations.QueriesReportAndChangeNothing : Prop :=
  (∀ (s : State) (p : Port) (k : LockSlot), s.request p = some (.lockQuery k) →
    ∃ t, exec (.lockQuery p) s = .next t
      ∧ ∃ w0 w1 w2 w3, AnsweredOnly s t p .ok none [w0, w1, w2, w3] ∧ LockReported s.locks k w0 w1 w2 w3)
  ∧ (∀ (s : State) (p : Port) (b : Byte), s.request p = some (.channelQuery b) →
    (7 < b.toNat → ∃ t, exec (.channelQuery p) s = .next t ∧ AnsweredOnly s t p .badChannel none [])
    ∧ ∀ c : Channel, c.val = b.toNat → ∃ t, exec (.channelQuery p) s = .next t
      ∧ ∃ w0 w1 w2, AnsweredOnly s t p .ok none [w0, w1, w2] ∧ ChannelReported (s.chan c) w0 w1 w2)
  ∧ ∀ (s : State) (p : Port) (n : Byte), s.request p = some (.configRead n) →
    (n.toNat = 0x0E ∨ n.toNat = 0x0F ∨ 0x1A ≤ n.toNat →
      ∃ t, exec (.configRead p) s = .next t ∧ AnsweredOnly s t p .badSetting none [])
    ∧ (n.toNat ≤ 0x0D ∨ 0x10 ≤ n.toNat ∧ n.toNat ≤ 0x19 → ∃ v, SettingHolds s n.toNat v)
    ∧ ∀ v, SettingHolds s n.toNat v → ∃ t, exec (.configRead p) s = .next t
      ∧ ∃ w, AnsweredOnly s t p .ok none [w] ∧ field w 0 8 = n.toNat ∧ field w 8 8 = 0 ∧ field w 16 16 = v % 65536

/-- R68 to R72: the Lock Unit's port-down claim: the waiting entry removed, the held entries orphaned, or released when
ORPHAN_HOLD is 0, the port's orphans and other ports' held entries left, one sweep after these changes when an entry was removed or
released, the events in the order of the changes. What the sweep does is SweepGrantsInArrivalOrder. -/
def Obligations.LockPortDownOrphans : Prop :=
  ∀ (s : State) (p : Port) (loss : Loss) (hold : Nat), s.locks.lawful → (s.portDown p).lock = some loss →
    hold = s.settings.orphanHold.toNat → ∃ t, exec (.lockPortDown p) s = .next t
    ∧ t = { s with locks := t.locks, events := t.events, announcements := t.announcements, portDowns := t.portDowns }
    ∧ t.portDown p = { s.portDown p with lock := none } ∧ (∀ q, q ≠ p → t.portDown q = s.portDown q)
    ∧ (∀ (k : LockSlot) c, (s.locks.entry k).state = .held c → c.owner = p → hold ≠ 0 →
        t.locks.entry k = ⟨(s.locks.entry k).gen, .orphaned c hold (decide (loss = .soft))⟩)
    ∧ (∀ (k : LockSlot) c, (s.locks.entry k).state = .held c → c.owner = p → hold = 0 →
        t.locks.entry k = ⟨(s.locks.entry k).gen + 1, .free⟩)
    ∧ (∀ (k : LockSlot) c n, (s.locks.entry k).state = .waiting c n → c.owner = p →
        t.locks.entry k = ⟨(s.locks.entry k).gen + 1, .free⟩ ∧ k ∉ t.locks.order)
    ∧ (∀ (k : LockSlot) c n a, (s.locks.entry k).state = .orphaned c n a → t.locks.entry k = s.locks.entry k)
    ∧ (∀ (k : LockSlot) c, (s.locks.entry k).state = .held c → c.owner ≠ p → t.locks.entry k = s.locks.entry k)
    ∧ t.announcements = s.announcements ++ (if hold = 0 then
        (allLockSlots.filterMap fun k => (s.locks.entry k).state.held?.bind fun c =>
          if c.owner = p then some ⟨c.first, c.count⟩ else none) else [])
    ∧ ∃ (u : LockUnit) (grants : List Handed), (∀ g ∈ grants, ∃ h, g.2 = .lockGranted h)
      ∧ (∀ k : LockSlot, u.entry k = entryAfterLoss p loss hold (s.locks.entry k))
      ∧ u.order = s.locks.order.filter (fun k => (s.locks.entry k).state.waiting?.all fun c => decide (c.owner ≠ p))
      ∧ ((∃ k : LockSlot, (u.entry k).state = .free ∧ (s.locks.entry k).state ≠ .free) → (t.locks, grants) = u.sweep)
      ∧ ((∀ k : LockSlot, (u.entry k).state = .free → (s.locks.entry k).state = .free) → t.locks = u ∧ grants = [])
      ∧ t.events = joined s.events
        ((allLockSlots.filterMap fun k => (s.locks.entry k).state.waiting?.bind fun c =>
            if c.owner = p then some (p, .lockWaitEnded ⟨k, (s.locks.entry k).gen⟩ .portDown) else none)
          ++ (allLockSlots.flatMap fun k => match (s.locks.entry k).state.held? with
            | none => []
            | some c => if c.owner ≠ p then []
              else if hold = 0 then [(p, .lockBroken ⟨k, (s.locks.entry k).gen⟩ .orphanExpired),
                (s.supervisor, .lockOrphanReleased ⟨k, (s.locks.entry k).gen⟩ p .orphanExpired)]
              else [(s.supervisor, .lockOrphaned ⟨k, (s.locks.entry k).gen⟩ p (decide (loss = .soft)))])
          ++ grants)

/-! ### Transfer channels (chapters 5 and 6) -/

/-- R91 and R92: CHANNEL_START's checks in order, and the run it begins: a fresh context bound to the port, LOADING, with the FETCH of
descriptor 0 handed to the port's Link Controller. -/
def Obligations.ChannelStartBeginsARun : Prop :=
  ∀ (s : State) (p : Port) (b : Byte) (list : Word) (guard : Option Handle),
    s.request p = some (.channelStart b list guard) →
    (7 < b.toNat → ∃ t, exec (.channelStart p) s = .next t ∧ AnsweredOnly s t p .badChannel none [])
    ∧ ∀ c : Channel, c.val = b.toNat →
      (¬((s.chan c).state = .idle ∨ (s.chan c).owner = some p ∧ ((s.chan c).state = .complete
          ∨ (s.chan c).state = .faulted ∨ (s.chan c).state = .stopped)) →
        ∃ t, exec (.channelStart p) s = .next t ∧ AnsweredOnly s t p .channelBusy none [])
      ∧ (((s.chan c).state = .idle ∨ (s.chan c).owner = some p ∧ ((s.chan c).state = .complete
          ∨ (s.chan c).state = .faulted ∨ (s.chan c).state = .stopped)) →
        (list.toNat % 16 ≠ 0 → ∃ t, exec (.channelStart p) s = .next t ∧ AnsweredOnly s t p .badAddress none [])
        ∧ (∀ h, list.toNat % 16 = 0 → guard = some h → ¬GuardPasses s.locks p h →
          ∃ t, exec (.channelStart p) s = .next t ∧ AnsweredOnly s t p .staleHandle none [])
        ∧ (list.toNat % 16 = 0 → (∀ h, guard = some h → GuardPasses s.locks p h) →
          ∃ t, exec (.channelStart p) s = .next t ∧ AnsweredAs s t p .ok none []
          ∧ t = { s with channels := t.channels, links := t.links } ∧ (∀ q, q ≠ p → t.link q = s.link q)
          ∧ t.chan c = { ChannelContext.reset with state := .loading, owner := some p, list := some list, guard := guard }
          ∧ HubRequestHanded t p ⟨c, .first, .fetch list 16⟩
          ∧ ∀ d, d ≠ c → t.chan d = { s.chan d with chunks := (t.chan d).chunks }))

/-- R99 to R101, R103 and R104: CHANNEL_STOP and CHANNEL_RELEASE, row by row: a STOP of an active run withdraws what waits and drains
in ABORTING, or ends STOPPED at once when nothing is in flight; a release of an ended channel returns it to IDLE. -/
def Obligations.ChannelStopAndRelease : Prop :=
  (∀ (s : State) (p : Port) (b : Byte), s.request p = some (.channelStop b) →
    (7 < b.toNat → ∃ t, exec (.channelStop p) s = .next t ∧ AnsweredOnly s t p .badChannel none [])
    ∧ ∀ c : Channel, c.val = b.toNat →
      ((s.chan c).owner ≠ some p → ∃ t, exec (.channelStop p) s = .next t ∧ AnsweredOnly s t p .notOwner none [])
      ∧ ((s.chan c).owner = some p →
        (((s.chan c).state = .loading ∨ (s.chan c).state = .running ∨ (s.chan c).state = .stalled) →
          (s.chan c).fault = none → ∃ t, exec (.channelStop p) s = .next t ∧ AnsweredAs s t p .ok none []
          ∧ EngineOnly s t ∧ t.waitingAccess c = none ∧ (t.link p).waiting[c] = [] ∧ (t.chan c).fault = none
          ∧ (t.chan c).next = none ∧ (t.chan c).stall = none ∧ (t.chan c).owner = some p
          ∧ (t.chan c).bytesMoved = (s.chan c).bytesMoved ∧ (∀ d, d ≠ c → t.chan d = s.chan d)
          ∧ (∀ q, q ≠ p → t.link q = s.link q)
          ∧ (s.inFlight c = true → (t.chan c).state = .aborting ∧ (t.chan c).endMode = some .keep
              ∧ t.events = s.events)
          ∧ (s.inFlight c = false → (t.chan c).state = .stopped ∧ (t.chan c).chunks = [] ∧ (t.chan c).current = none
              ∧ t.events = s.events ++ [[(p, .channelEnd c .stopped (s.chan c).bytesMoved)]]))
        ∧ ((s.chan c).state = .aborting →
          ∃ t, exec (.channelStop p) s = .next t ∧ AnsweredOnly s t p .ok none [])
        ∧ (((s.chan c).state = .complete ∨ (s.chan c).state = .faulted ∨ (s.chan c).state = .stopped) →
          ∃ t, exec (.channelStop p) s = .next t ∧ AnsweredOnly s t p .badChannelState none [])))
  ∧ ∀ (s : State) (p : Port) (b : Byte), s.request p = some (.channelRelease b) →
    (7 < b.toNat → ∃ t, exec (.channelRelease p) s = .next t ∧ AnsweredOnly s t p .badChannel none [])
    ∧ ∀ c : Channel, c.val = b.toNat →
      ((s.chan c).owner ≠ some p → ∃ t, exec (.channelRelease p) s = .next t ∧ AnsweredOnly s t p .notOwner none [])
      ∧ ((s.chan c).owner = some p →
        (((s.chan c).state = .loading ∨ (s.chan c).state = .running ∨ (s.chan c).state = .stalled
            ∨ (s.chan c).state = .aborting) →
          ∃ t, exec (.channelRelease p) s = .next t ∧ AnsweredOnly s t p .channelBusy none [])
        ∧ (((s.chan c).state = .complete ∨ (s.chan c).state = .faulted ∨ (s.chan c).state = .stopped) →
          ∃ t, exec (.channelRelease p) s = .next t ∧ AnsweredAs s t p .ok none [] ∧ DispatcherOnly s t p
          ∧ t = { s with channels := t.channels, links := t.links } ∧ t.chan c = ChannelContext.reset
          ∧ ∀ d, d ≠ c → t.chan d = s.chan d))

/-- R93 to R96: the reply to a descriptor's FETCH. Descriptor 0 makes the run RUNNING and its movement begins, or faults it; the
lookahead's reply is kept in the next-descriptor field, and a run waiting for it goes on with it or faults, with LIST_TOO_LONG at
index 255 when descriptor 255 is not LAST.
That the channel's index becomes that of a descriptor found invalid is the model's reading (log entry 17). -/
def Obligations.DescriptorRepliesAreTaken : Prop :=
  (∀ (s u : State) (p : Port) (c : Channel) op data rest,
    s.claimsOf p = .ending ⟨c, .first, op⟩ (.replyOk data) :: rest → u = s.setClaims p rest →
    (s.chan c).state = .loading → (s.chan c).owner = some p → (s.chan c).chunks = [] →
    ∃ t, exec (.descriptorReply p) s = .next t ∧ EngineOnly u t ∧ t.claimsOf p = rest
    ∧ (∀ d, decodeDescriptor data = some d → (t.chan c).state = .running ∧ (t.chan c).current = some d
        ∧ (t.chan c).index = 0 ∧ (t.chan c).bytesMoved = (s.chan c).bytesMoved ∧ t.events = s.events
        ∧ (t.chan c).next = (if d.last then none else some .fetching)
        ∧ (d.last = false → HubRequestHanded t p ⟨c, .lookahead, .fetch ((s.chan c).list.getD 0#32 + 16#32) 16⟩)
        ∧ (d.kind = .toStore → t.waitingAccess c = s.waitingAccess c ∧ (t.chan c).chunks ≠ []
            ∧ ∀ k ∈ (t.chan c).chunks, HubRequestHanded t p ⟨c, .chunk k.store, .fetch k.far k.len⟩)
        ∧ (d.kind = .fromStore → s.accessPresented c = false → t.waitingAccess c
            = some ⟨d.store, ⟨d.store, .read (min (64 - d.store % 64) d.count / 4), (s.chan c).guard⟩⟩)
        ∧ (d.kind = .storeCopy → s.accessPresented c = false → t.waitingAccess c = some ⟨d.store, ⟨d.far.toNat,
            .read (min (min (64 - d.store % 64) d.count) (64 - d.far.toNat % 64) / 4), (s.chan c).guard⟩⟩)
        ∧ (d.kind = .storeFill → s.accessPresented c = false → t.waitingAccess c = some ⟨d.store, ⟨d.store,
            .write (List.replicate (min (64 - d.store % 64) d.count / 4) d.far), (s.chan c).guard⟩⟩))
    ∧ (decodeDescriptor data = none → FaultsRun u t c p .badDescriptor 0 none []))
  ∧ (∀ (s u : State) (p : Port) (c : Channel) op rest,
    s.claimsOf p = .ending ⟨c, .first, op⟩ .replyFailed :: rest → u = s.setClaims p rest →
    (s.chan c).state = .loading → (s.chan c).owner = some p →
    ∃ t, exec (.descriptorReply p) s = .next t ∧ t.claimsOf p = rest ∧ FaultsRun u t c p .masterError 0 none [])
  ∧ ∀ (s u : State) (p : Port) (c : Channel) op how rest,
    s.claimsOf p = .ending ⟨c, .lookahead, op⟩ how :: rest → u = s.setClaims p rest →
    (how = .replyFailed ∨ ∃ data, how = .replyOk data) →
    (s.chan c).state.active = true → (s.chan c).next = some .fetching → (s.chan c).owner = some p →
    ∃ t, exec (.lookaheadReply p) s = .next t ∧ EngineOnly u t ∧ t.claimsOf p = rest
    ∧ ((s.chan c).dataDone = false → t.events = s.events ∧ t.arbiter = s.arbiter
        ∧ t.chan c = { s.chan c with next := (t.chan c).next, chunks := (t.chan c).chunks }
        ∧ (∀ data d, how = .replyOk data → decodeDescriptor data = some d → (t.chan c).next = some (.valid d))
        ∧ (∀ data, how = .replyOk data → decodeDescriptor data = none →
            (t.chan c).next = some (.invalid .badDescriptor))
        ∧ (how = .replyFailed → (t.chan c).next = some (.invalid .masterError)))
    ∧ ((s.chan c).dataDone = true →
        (∀ data d, how = .replyOk data → decodeDescriptor data = some d →
            AdvancesBy u t c p (s.chan c).index (.valid d) [])
        ∧ (∀ data, how = .replyOk data → decodeDescriptor data = none →
            AdvancesBy u t c p (s.chan c).index (.invalid .badDescriptor) [])
        ∧ (how = .replyFailed → AdvancesBy u t c p (s.chan c).index (.invalid .masterError) []))

/-- R117, R118 and Table 6.4: the replies to a chunk's FETCH and STORE in a RUNNING or STALLED channel. The reply to a descriptor's last
STORE ends the descriptor: the run is COMPLETE, or goes on as the next-descriptor field decides (R95 to R97); before that
a RUNNING channel with no access presented presents the one that R114 names.
That the channel's index becomes that of a descriptor found invalid is the model's reading (log entry 17). -/
def Obligations.ChunkRepliesMoveTheChunkOn : Prop :=
  (∀ (s u : State) (p : Port) (c : Channel) (d : Descriptor) (k : Chunk) st a n how rest,
    s.claimsOf p = .ending ⟨c, .chunk st, .fetch a n⟩ how :: rest → u = s.setClaims p rest →
    ((s.chan c).state = .running ∨ (s.chan c).state = .stalled) → (s.chan c).owner = some p →
    (s.chan c).current = some d → d.kind = .toStore → k ∈ (s.chan c).chunks → k.store = st → NoStoreWaits s p c →
    (∀ data, how = .replyOk data → ∃ t, exec (.chunkFetchReply p) s = .next t ∧ EngineOnly u t ∧ t.claimsOf p = rest
      ∧ t.events = s.events ∧ (t.chan c).state = (s.chan c).state ∧ (t.chan c).bytesMoved = (s.chan c).bytesMoved
      ∧ (∃ k' ∈ (t.chan c).chunks, k'.store = st ∧ k'.len = k.len ∧ k'.buffer = data
          ∧ (k'.state = .dataHeld ∨ k'.state = .writing))
      ∧ ((s.chan c).state = .running → s.accessPresented c = false → (s.chan c).chunks.head? = some k →
          t.waitingAccess c = some ⟨st, ⟨st, .write data, (s.chan c).guard⟩⟩)
      ∧ ((s.chan c).state = .stalled ∨ s.accessPresented c = true → t.waitingAccess c = s.waitingAccess c))
    ∧ (how = .replyFailed → ∃ t, exec (.chunkFetchReply p) s = .next t ∧ t.claimsOf p = rest
      ∧ FaultsRun u t c p .masterError (s.chan c).index (some st) []))
  ∧ ∀ (s u : State) (p : Port) (c : Channel) (d : Descriptor) (k : Chunk) st a words how rest,
    s.claimsOf p = .ending ⟨c, .chunk st, .store a words⟩ how :: rest → u = s.setClaims p rest →
    ((s.chan c).state = .running ∨ (s.chan c).state = .stalled) → (s.chan c).owner = some p →
    (s.chan c).current = some d → d.kind = .fromStore → (s.chan c).chunkAt st = some k →
    (∀ data, how = .replyOk data → ∃ t, exec (.chunkStoreReply p) s = .next t ∧ EngineOnly u t ∧ t.claimsOf p = rest
      ∧ (((s.chan c).retire st).dataDone = false → t.events = s.events ∧ (t.chan c).state = (s.chan c).state
          ∧ (t.chan c).bytesMoved = (s.chan c).bytesMoved + k.len
          ∧ ((s.chan c).state = .running → s.accessPresented c = false → MovesOn t c p d (s.chan c).position
              ((s.chan c).chunks.filter fun j => j.store ≠ st) (s.chan c).guard)
          ∧ ((s.chan c).state = .stalled ∨ s.accessPresented c = true → t.waitingAccess c = s.waitingAccess c))
      ∧ (((s.chan c).retire st).dataDone = true → d.last = true → (t.chan c).state = .complete
          ∧ (t.chan c).bytesMoved = (s.chan c).bytesMoved + k.len ∧ (t.chan c).chunks = []
          ∧ (t.chan c).index = (s.chan c).index
          ∧ t.events = s.events ++ [(if d.notify then [(p, .channelMark c (s.chan c).index)] else [])
              ++ [(p, .channelEnd c .complete ((s.chan c).bytesMoved + k.len))]])
      ∧ (∀ n, ((s.chan c).retire st).dataDone = true → d.last = false → (s.chan c).next = some n →
          AdvancesBy (u.setChan c { s.chan c with chunks := [], bytesMoved := (s.chan c).bytesMoved + k.len }) t c p
            (s.chan c).index n (if d.notify then [(p, .channelMark c (s.chan c).index)] else [])))
    ∧ (how = .replyFailed → ∃ t, exec (.chunkStoreReply p) s = .next t ∧ t.claimsOf p = rest
      ∧ FaultsRun u t c p .masterError (s.chan c).index (some st) [])

/-- R127, R128, R94, R95 and Table 5.6: a timeout is MASTER_TIMEOUT for descriptor 0 and for a chunk, and an invalid mark for a lookahead,
which faults a run waiting for it; a drop leaves an active run as it stands; every ending and every access outcome taken in ABORTING
raises no fault and adds the bytes of a STORE answered OK or of a write carried out, and the last one ends the drain.
That the channel's index becomes that of a descriptor found invalid is the model's reading (log entry 17). -/
def Obligations.TimeoutsAndDropsAreTaken : Prop :=
  (∀ (s u : State) (p : Port) (c : Channel) op rest, s.claimsOf p = .ending ⟨c, .first, op⟩ .timeout :: rest →
    u = s.setClaims p rest → (s.chan c).state = .loading → (s.chan c).owner = some p →
    ∃ t, exec (.channelHubTimeout p) s = .next t ∧ t.claimsOf p = rest ∧ FaultsRun u t c p .masterTimeout 0 none [])
  ∧ (∀ (s u : State) (p : Port) (c : Channel) st op rest,
    s.claimsOf p = .ending ⟨c, .chunk st, op⟩ .timeout :: rest →
    u = s.setClaims p rest → ((s.chan c).state = .running ∨ (s.chan c).state = .stalled) → (s.chan c).owner = some p →
    ∃ t, exec (.channelHubTimeout p) s = .next t ∧ t.claimsOf p = rest
    ∧ FaultsRun u t c p .masterTimeout (s.chan c).index (some st) [])
  ∧ (∀ (s u : State) (p : Port) (c : Channel) op rest, s.claimsOf p = .ending ⟨c, .lookahead, op⟩ .timeout :: rest →
    u = s.setClaims p rest → (s.chan c).state.active = true → (s.chan c).next = some .fetching →
    (s.chan c).owner = some p →
    ∃ t, exec (.channelHubTimeout p) s = .next t ∧ t.claimsOf p = rest ∧ EngineOnly u t
    ∧ ((s.chan c).dataDone = false → t.events = s.events
        ∧ (t.chan c).next = some (.invalid .masterTimeout) ∧ (t.chan c).state = (s.chan c).state)
    ∧ ((s.chan c).dataDone = true → AdvancesBy u t c p (s.chan c).index (.invalid .masterTimeout) []))
  ∧ (∀ (s : State) (p : Port) r rest, s.claimsOf p = .ending r .dropped :: rest → (s.chan r.chan).state ≠ .aborting →
    (s.link p).link ≠ .up → exec (.hubRequestDrop p) s = .next (s.setClaims p rest))
  ∧ (∀ (s u : State) (p : Port) (cmd : Instr) r how rest, s.claimsOf p = .ending r how :: rest →
    u = s.setClaims p rest → (s.chan r.chan).state = .aborting → (s.chan r.chan).owner = some p → s.waitingAccess r.chan = none →
    (cmd = .channelHubTimeout p ∧ how = .timeout ∨ cmd = .hubRequestDrop p ∧ how = .dropped
      ∨ (how = .replyFailed ∨ ∃ data, how = .replyOk data)
        ∧ (cmd = .descriptorReply p ∧ r.purpose = .first ∨ cmd = .lookaheadReply p ∧ r.purpose = .lookahead
          ∨ cmd = .chunkFetchReply p ∧ r.purpose.chunk?.isSome = true ∧ r.op.isFetch = true
          ∨ cmd = .chunkStoreReply p ∧ r.purpose.chunk?.isSome = true ∧ r.op.isStore = true)) →
    ∃ t, exec cmd s = .next t ∧ t.claimsOf p = rest ∧ DrainsOn u t r.chan p (movedByEnding (s.chan r.chan) r how))
  ∧ ∀ (s u : State) (p : Port) (c : Channel) (a : ChannelAccess) (o : AccessOutcome),
    s.outcomeOf c = some (a, o) → u = s.setOutcome c none → (s.chan c).state = .aborting → (s.chan c).owner = some p →
    s.waitingAccess c = none → ∃ t, exec (.channelAccessOutcome c) s = .next t ∧ t.outcomeOf c = none
    ∧ DrainsOn u t c p (movedByOutcome (s.chan c) a o)

/-- R121 to R123 and R126: a channel's refused access. A refusal by another port's lock stalls the channel, or faults it where the
descriptor halts on locks; every other failure faults it; nothing is retired. A STORE of the channel that waits is given a slot in the
same action when one is free (R116, step 3 of R118). -/
def Obligations.RefusedChunkStallsOrFaults : Prop :=
  ∀ (s u : State) (p : Port) (c : Channel) (d : Descriptor) (a : ChannelAccess) (o : AccessOutcome),
    s.outcomeOf c = some (a, o) → u = s.setOutcome c none →
    ((s.chan c).state = .running ∨ (s.chan c).state = .stalled) →
    (s.chan c).owner = some p → (s.chan c).current = some d →
    (∀ k, o = .lockRefused k .otherPort → d.haltOnLock = false → ∃ t, exec (.channelAccessOutcome c) s = .next t
      ∧ EngineOnly u t ∧ t.outcomeOf c = none ∧ t.waitingAccess c = s.waitingAccess c ∧ t.events = s.events
      ∧ (t.chan c).state = .stalled ∧ (t.chan c).bytesMoved = (s.chan c).bytesMoved
      ∧ ((s.chan c).stall = none → (t.chan c).stall = some ⟨a.access.addr / 64, 0, s.settings.stallLimit.toNat, a⟩)
      ∧ (∀ r, (s.chan c).stall = some r → (t.chan c).stall = some r)
      ∧ SlotsGiven p (u.setChan c { s.chan c with
          state := .stalled, stall := (t.chan c).stall
          chunks := if a.access.op.isWrite then
            (s.chan c).chunks.map fun k => if k.store = a.chunk then { k with state := .dataHeld } else k
            else (s.chan c).chunks }) t
      ∧ (NoStoreWaits s p c ∨ (∀ v, ¬GivesOne p s v) →
        (a.access.op.isWrite = true → ∀ k ∈ (t.chan c).chunks, k.store = a.chunk → k.state = .dataHeld)
        ∧ (a.access.op.isWrite = false → (t.chan c).chunks = (s.chan c).chunks)))
    ∧ ∀ code, (o = .guardFailed ∧ code = .guardLost ∨ (∃ k, o = .lockRefused k .ownPort) ∧ code = .selfLocked
          ∨ (∃ k, o = .lockRefused k .otherPort) ∧ d.haltOnLock = true ∧ code = .locked
          ∨ o = .dataError ∧ code = .dataError ∨ o = .poisoned ∧ code = .poisoned) →
      ∃ t, exec (.channelAccessOutcome c) s = .next t ∧ t.outcomeOf c = none
      ∧ FaultsRun u t c p code (s.chan c).index (some a.access.addr) []

/-- R117 to R120, R124, R96 and R97: a channel's access carried out. A write retires its chunk, and the run goes on, advances to the
next descriptor or is COMPLETE; a read fills its chunk, whose STORE is handed or whose write is presented; a stall ends. A run that
goes on presents in the same action the access that R114 names, and TO_STORE hands the next chunk's FETCH (R113).
That the channel's index becomes that of a descriptor found invalid is the model's reading (log entry 17). -/
def Obligations.CarriedOutChunkMovesOn : Prop :=
  ∀ (s u : State) (p : Port) (c : Channel) (d : Descriptor) (k : Chunk) (a : ChannelAccess) data swapped,
    s.outcomeOf c = some (a, .done data swapped) → u = s.setOutcome c none →
    ((s.chan c).state = .running ∨ (s.chan c).state = .stalled) → (s.chan c).owner = some p →
    (s.chan c).current = some d → (s.chan c).chunkAt a.chunk = some k →
    ∃ t, exec (.channelAccessOutcome c) s = .next t ∧ EngineOnly u t ∧ t.outcomeOf c = none
    ∧ (a.access.op.isWrite = true → ((s.chan c).retire a.chunk).dataDone = false →
        (t.chan c).state = .running ∧ (t.chan c).stall = none ∧ t.events = s.events
        ∧ (t.chan c).current = some d ∧ (t.chan c).bytesMoved = (s.chan c).bytesMoved + k.len
        ∧ (u.accessPresented c = false → MovesOn t c p d (s.chan c).position
            ((s.chan c).chunks.filter fun j => j.store ≠ a.chunk) (s.chan c).guard))
    ∧ (a.access.op.isWrite = true → ((s.chan c).retire a.chunk).dataDone = true → d.last = true →
        (t.chan c).state = .complete ∧ (t.chan c).current = none ∧ (t.chan c).next = none ∧ (t.chan c).chunks = []
        ∧ (t.chan c).index = (s.chan c).index ∧ (t.chan c).bytesMoved = (s.chan c).bytesMoved + k.len
        ∧ t.events = s.events ++ [(if d.notify then [(p, .channelMark c (s.chan c).index)] else [])
            ++ [(p, .channelEnd c .complete ((s.chan c).bytesMoved + k.len))]])
    ∧ (∀ n, a.access.op.isWrite = true → ((s.chan c).retire a.chunk).dataDone = true → d.last = false →
        (s.chan c).next = some n →
        AdvancesBy (u.setChan c { s.chan c with chunks := [], bytesMoved := (s.chan c).bytesMoved + k.len
                                                state := .running, stall := none }) t c p
          (s.chan c).index n (if d.notify then [(p, .channelMark c (s.chan c).index)] else []))
    ∧ (a.access.op.isWrite = false →
        (t.chan c).state = .running ∧ (t.chan c).stall = none ∧ t.events = s.events
        ∧ (t.chan c).bytesMoved = (s.chan c).bytesMoved
        ∧ (d.kind = .fromStore → HubRequestHanded t p ⟨c, .chunk a.chunk, .store k.far data⟩)
        ∧ (u.accessPresented c = false → MovesOn t c p d (s.chan c).position
            ((s.chan c).chunks.map fun j => if j.store = a.chunk then
              { j with buffer := data, state := if d.kind = .fromStore then .readDone else .dataHeld } else j)
            (s.chan c).guard)
        ∧ (d.kind = .storeCopy → (s.chan c).chunks = [k] → s.waitingAccess c = none → s.grantedTo c = false →
            t.waitingAccess c = some ⟨a.chunk, ⟨a.chunk, .write data, (s.chan c).guard⟩⟩))

/-- R124: an announcement makes each STALLED channel whose stall granule it covers, and that has no access presented, present its
refused access again, and changes no other channel.
Announcements are taken in the order handed (the model's choice, log entry 14); that one whose retry a port-down event has withdrawn
presents it again before the channel takes that event is the model's choice too (log entry 38). -/
def Obligations.AnnouncementRetriesTheStalled : Prop :=
  ∀ (s : State) (r : GranuleRange) rest, s.announcements = r :: rest → ∃ t, exec .releaseAnnouncement s = .next t
    ∧ t = { s with announcements := rest, channels := t.channels
                   arbiter := { s.arbiter with waiting := t.arbiter.waiting } }
    ∧ ∀ c : Channel,
      (∀ st, (s.chan c).state = .stalled → (s.chan c).stall = some st → r.first ≤ st.granule →
        st.granule < r.first + r.count → s.accessPresented c = false → t.waitingAccess c = some st.refused
          ∧ t.chan c = { s.chan c with chunks := (t.chan c).chunks }
          ∧ (st.refused.access.op.isWrite = true → ∀ k ∈ (t.chan c).chunks, k.store = st.refused.chunk →
              k.state = .writing)
          ∧ (st.refused.access.op.isWrite = false → (t.chan c).chunks = (s.chan c).chunks))
      ∧ ((s.chan c).state ≠ .stalled ∨ s.accessPresented c = true
          ∨ (∀ st ∈ (s.chan c).stall, ¬(r.first ≤ st.granule ∧ st.granule < r.first + r.count)) →
        t.waitingAccess c = s.waitingAccess c ∧ t.chan c = s.chan c)

/-- R106: the Channel Engine's port-down claim, for each channel of the port by its state and the kind of loss. That the CHANNEL_END
events of several channels stand in channel order is the model's choice (log entry 32), and is not stated. -/
def Obligations.ChannelPortDownByState : Prop :=
  ∀ (s u : State) (p : Port) (loss : Loss) rest, s.claimsOf p = .portDown loss :: rest → u = s.setClaims p rest →
    ∃ t, exec (.channelPortDown p) s = .next t ∧ EngineOnly u t ∧ t.claimsOf p = rest
    ∧ (loss = .hard → t.events = s.events)
    ∧ (∀ c : Channel, (s.chan c).owner ≠ some p → t.chan c = s.chan c ∧ t.waitingAccess c = s.waitingAccess c)
    ∧ ∀ c : Channel, (s.chan c).owner = some p →
      ((s.chan c).state.active = true → t.waitingAccess c = none
        ∧ (loss = .soft → FaultTaken u t c .portDown (s.chan c).index none
            ∧ (u.inFlight c = true → (t.chan c).state = .aborting)
            ∧ (u.inFlight c = false → (t.chan c).state = .faulted ∧ ∃ batch, t.events = s.events ++ [batch]
                ∧ (p, .channelEnd c (.faulted .portDown) (s.chan c).bytesMoved) ∈ batch))
        ∧ (loss = .hard → u.inFlight c = false → t.chan c = ChannelContext.reset)
        ∧ (loss = .hard → u.inFlight c = true → (t.chan c).state = .aborting ∧ (t.chan c).endMode = some .unbind
            ∧ (t.chan c).fault = some ⟨.portDown, (s.chan c).index, none⟩))
      ∧ ((s.chan c).state = .aborting → s.waitingAccess c = none →
        (loss = .soft → t.chan c = s.chan c)
        ∧ (loss = .hard → u.inFlight c = true → t.chan c = { s.chan c with endMode := some .unbind })
        ∧ (loss = .hard → u.inFlight c = false → t.chan c = ChannelContext.reset))
      ∧ ((s.chan c).state.ended = true →
        (loss = .soft → t.chan c = s.chan c) ∧ (loss = .hard → t.chan c = ChannelContext.reset))

/-! ### Notices (chapter 7) -/

/-- R136: an event is discarded when the port's link is OFF or FENCED; otherwise it merges into the PENDING record of its subject,
which keeps its place, or joins the tail as a new record.
Events wait in a list for each action, and actions are taken in any order, a peer's PEER_DOWN and its later PEER_UP too (the model's
choice, log entries 12 and 39); an event of a hard loss taken after the link has become DOWN is accepted like any other (the model's
choice, log entry 35). -/
def Obligations.NoticeEventCoalesces : Prop :=
  (∀ (s : State) (k : Nat) (p : Port) e rest, s.events[k]? = some ((p, e) :: rest) →
    ∃ t, exec (.noticeEvent k) s = .next t ∧ t = { s with events := t.events, notices := t.notices }
    ∧ t.events = (if rest = [] then s.events.eraseIdx k else s.events.set k rest)
    ∧ (∀ q, q ≠ p → t.queue q = s.queue q)
    ∧ ((s.link p).link = .off ∨ (s.link p).link = .fenced → t.queue p = s.queue p)
    ∧ ((s.link p).link ≠ .off → (s.link p).link ≠ .fenced →
      (e.subject ∉ pendingSubjects (s.queue p) → t.queue p = s.queue p ++ [⟨e, 1, none⟩])
      ∧ ∀ before r after, s.queue p = before ++ r :: after → r.sent = none → r.event.subject = e.subject →
        e.subject ∉ pendingSubjects before → e.subject ∉ pendingSubjects after →
        t.queue p = before ++ ⟨e, min 255 (r.occurrences + 1), none⟩ :: after))
  ∧ ∀ (s : State) (k : Nat), s.events.length ≤ k → exec (.noticeEvent k) s = .next s

/-- R141: NOTICE_ACK of a SENT record's number removes that record and every one sent before it and is answered OK; any other number is
answered BAD_SEQUENCE and removes nothing. -/
def Obligations.NoticeAckRemovesWhatWasSent : Prop :=
  ∀ (s : State) (p : Port) (seq : Byte), s.request p = some (.noticeAck seq) →
    (∀ before r after, s.queue p = before ++ r :: after → r.sent = some seq → (∀ x ∈ before, x.sent ≠ some seq) →
      ∃ t, exec (.noticeAck p) s = .next t ∧ t.queue p = after ∧ (∀ q, q ≠ p → t.queue q = s.queue q)
      ∧ AnsweredAs s t p .ok none [] ∧ DispatcherOnly s t p ∧ t = { s with links := t.links, notices := t.notices }
      ∧ (sentCount (s.queue p) ≤ 4 → ∀ x, after.find? (fun y => y.isPending) = some x →
          offered (t.queue p) = some x))
    ∧ ((∀ x ∈ s.queue p, x.sent ≠ some seq) →
      ∃ t, exec (.noticeAck p) s = .next t ∧ AnsweredOnly s t p .badSequence none [])

/-- R20, R142 and R143: at a port-down event the arbiter withdraws the waiting accesses of the port's dispatcher and channels, and the
Notice Unit rewinds the port's queue after a soft loss, keeping the newest news of every subject at its first place, or empties it
after a hard one.
What the arbiter finds of the dispatcher's request is the model's reading (log entry 24); that a RUNNING channel whose access is
withdrawn presents nothing in that action and keeps its chunk list is the model's choice (log entry 31), and so are that a STALLED
channel keeps its own when its retry is withdrawn (log entry 38) and that an emptying taken after the link has become DOWN removes every
record (log entry 36). -/
def Obligations.PortDownWithdrawsAndRewinds : Prop :=
  (∀ (s : State) (p : Port), (s.portDown p).arbiter = true → ∃ t, exec (.arbiterPortDown p) s = .next t
    ∧ t = { s with links := t.links, portDowns := t.portDowns
                   arbiter := { s.arbiter with waiting := t.arbiter.waiting } }
    ∧ t.portDown p = { s.portDown p with arbiter := false }
    ∧ (∀ q, q ≠ p → t.link q = s.link q ∧ t.portDown q = s.portDown q)
    ∧ (∀ c : Channel, t.waitingAccess c = if (s.chan c).owner = some p then none else s.waitingAccess c)
    ∧ ((∀ sv ∈ (s.link p).service, sv.stage ≠ .presented) → t.link p = s.link p)
    ∧ (∀ sv, (s.link p).service = some sv → sv.stage = .presented → (s.link p).inbound = [] →
        t.link p = { s.link p with service := none, heldCount := (s.link p).heldCount - 1
                                   tags := (s.link p).tags.filter (· != (sv.pkt.tag.setWidth 4).toNat) }))
  ∧ (∀ (s : State) (p : Port), (s.portDown p).notice = some .soft → queueLawful p (s.queue p) →
    ∃ t, exec (.noticeRewind p) s = .next t ∧ t = { s with notices := t.notices, portDowns := t.portDowns }
    ∧ t.portDown p = { s.portDown p with notice := none }
    ∧ (∀ q, q ≠ p → t.queue q = s.queue q ∧ t.portDown q = s.portDown q)
    ∧ (t.queue p).map (fun r => r.event.subject) = ((s.queue p).map fun r => r.event.subject).eraseDups
    ∧ ∀ r ∈ t.queue p, r.sent = none
      ∧ (((s.queue p).filter fun x => decide (x.event.subject = r.event.subject)).getLast?.map fun x => x.event)
          = some r.event
      ∧ r.occurrences = min 255
          (((s.queue p).filter fun x => decide (x.event.subject = r.event.subject)).map fun x => x.occurrences).sum)
  ∧ ∀ (s : State) (p : Port), (s.portDown p).notice = some .hard →
    ∃ t, exec (.noticeQueueEmpty p) s = .next t ∧ t = { s with notices := t.notices, portDowns := t.portDowns }
    ∧ t.queue p = [] ∧ t.portDown p = { s.portDown p with notice := none }
    ∧ ∀ q, q ≠ p → t.queue q = s.queue q ∧ t.portDown q = s.portDown q

/-! ### Supervision and settings (chapter 9) -/

/-- R172, R173, R176, R177 and R179: the checks of a CONFIG_WRITE in order; one that passes sets its setting to the value and no other;
SUPERVISOR takes only a port whose link is UP; TIMEBASE leaves the unit in progress and every count as they are.
Which of the three rows takes a request is the model's reading of the table (log entry 29). -/
def Obligations.ConfigWriteSetsOneSetting : Prop :=
  ∀ (s : State) (p : Port) (n : Byte) (v : Half) (c : Instr), s.request p = some (.configWrite n v) →
    (n = 0x02#8 ∧ c = .configWriteSupervisor p ∨ n = 0x03#8 ∧ c = .configWriteTimebase p
      ∨ n ≠ 0x02#8 ∧ n ≠ 0x03#8 ∧ c = .configWrite p) →
    (p ≠ s.supervisor → ∃ t, exec c s = .next t ∧ AnsweredOnly s t p .notSupervisor none [])
    ∧ ∀ good : Prop, (good ↔ (n.toNat = 2 ∧ v.toNat ≤ 3 ∨ n.toNat = 3 ∧ v.toNat ≤ 3 ∨ n.toNat = 4 ∧ v.toNat ≤ 4
        ∨ 5 ≤ n.toNat ∧ n.toNat ≤ 8 ∧ 1 ≤ v.toNat ∧ v.toNat ≤ 32 ∨ n.toNat = 9 ∧ 1 ≤ v.toNat ∨ n.toNat = 10
        ∨ n.toNat = 11 ∧ 1 ≤ v.toNat ∧ v.toNat ≤ 255 ∨ n.toNat = 12 ∧ 1 ≤ v.toNat
        ∨ n.toNat = 13 ∧ 1 ≤ v.toNat ∧ v.toNat ≤ 255)) →
      (p = s.supervisor → ¬good → ∃ t, exec c s = .next t ∧ AnsweredOnly s t p .badSetting none [])
      ∧ (p = s.supervisor → good → n ≠ 0x02#8 → ∃ t, exec c s = .next t ∧ AnsweredAs s t p .ok none []
        ∧ DispatcherOnly s t p ∧ t = { s with settings := t.settings, links := t.links }
        ∧ settingValue t n.toNat = some v
        ∧ ∀ m, 2 ≤ m → m ≤ 13 → m ≠ n.toNat → settingValue t m = settingValue s m)
      ∧ (p = s.supervisor → good → n = 0x02#8 → ∀ q : Port, q.val = v.toNat →
        (q = p → ∃ t, exec c s = .next t ∧ AnsweredOnly s t p .ok none [])
        ∧ (q ≠ p → (s.link q).link ≠ .up → ∃ t, exec c s = .next t ∧ AnsweredOnly s t p .notReady none [])
        ∧ (q ≠ p → (s.link q).link = .up → ∃ t, exec c s = .next t ∧ AnsweredAs s t p .ok none []
          ∧ DispatcherOnly s t p
          ∧ t = { s with settings := { s.settings with supervisor := q }, links := t.links } ∧ t.supervisor = q))

/-- R180, R181, R166 and R172: FENCE and UNFENCE, row by row; a FENCE of a link that is UP is a hard loss with cause FENCE, with every
step of R163, the PEER_DOWN events in port order (the model's choice, log entry 33). -/
def Obligations.FenceShutsAPortOut : Prop :=
  (∀ (s : State) (p q : Port), s.request p = some (.fence q) →
    (p ≠ s.supervisor → ∃ t, exec (.fence p) s = .next t ∧ AnsweredOnly s t p .notSupervisor none [])
    ∧ (p = s.supervisor → q = p → ∃ t, exec (.fence p) s = .next t ∧ AnsweredOnly s t p .badSetting none [])
    ∧ (p = s.supervisor → q ≠ p →
      ((s.link q).link = .fenced → ∃ t, exec (.fence p) s = .next t ∧ AnsweredOnly s t p .ok none [])
      ∧ (((s.link q).link = .off ∨ (s.link q).link = .down ∨ (s.link q).link = .training) →
        ∃ t, exec (.fence p) s = .next t ∧ AnsweredAs s t p .ok none [] ∧ t = { s with links := t.links }
        ∧ t.link q = { s.link q with link := .fenced, trainTimer := none, readyTaken := none }
        ∧ ∀ r, r ≠ p → r ≠ q → t.link r = s.link r)
      ∧ ((s.link q).link = .up → ∃ t, exec (.fence p) s = .next t ∧ AnsweredAs s t p .ok none []
        ∧ t = { s with links := t.links, claims := t.claims, portDowns := t.portDowns, events := t.events }
        ∧ LinkLost s t q .fenced .fence .hard ∧ (t.link q).prst = (s.link q).prst
        ∧ ∀ r, r ≠ p → r ≠ q → t.link r = s.link r)))
  ∧ ∀ (s : State) (p q : Port), s.request p = some (.unfence q) →
    (p ≠ s.supervisor → ∃ t, exec (.unfence p) s = .next t ∧ AnsweredOnly s t p .notSupervisor none [])
    ∧ (p = s.supervisor → (s.link q).link ≠ .fenced → ∃ t, exec (.unfence p) s = .next t ∧ AnsweredOnly s t p .ok none [])
    ∧ (p = s.supervisor → q ≠ p → (s.link q).link = .fenced → ∃ t, exec (.unfence p) s = .next t
      ∧ AnsweredAs s t p .ok none [] ∧ t = { s with links := t.links }
      ∧ t.link q = { s.link q with link := if (s.link q).prst then .off else .down, trainTimer := none, readyTaken := none }
      ∧ ∀ r, r ≠ p → r ≠ q → t.link r = s.link r)

/-! ### The laws of the device -/

/-- Every law below holds in the state right after cold reset. -/
def Obligations.LawsHoldAtReset : Prop :=
  State.reset.memoryLawful ∧ State.reset.locks.lawful ∧ State.reset.noticesLawful
    ∧ (∀ p : Port, (State.reset.link p).lawful) ∧ (∀ c : Channel, (State.reset.chan c).lawful)
    ∧ State.reset.quietOutsideRun ∧ State.reset.locks.noCycle ∧ State.reset.poisonInStore ∧ State.reset.channelsLawful

/-- The store and the poison set keep their canonical form at every step; the form is the model's own (log entry 19), and so is the count
of words that INIT has filled (log entry 6). The poison set holds granules 0 to 4095 at every step (R4), since every access on its way
to the store lies in it (R10, R93). -/
def Obligations.EveryStepKeepsTheStoreForm : Prop :=
  (∀ s t : State, s.memoryLawful → step s = .next t → t.memoryLawful)
  ∧ ∀ s t : State, s.poisonInStore → step s = .next t → t.poisonInStore

/-- Laws 1, 2 and 6 of the device and the waiting order hold of the Lock Table at every step (R21, R29, R31, R42), and law 4 with them:
no port comes to wait for itself through the wait-for relation (R32, R33). -/
def Obligations.EveryStepKeepsTheLockLaws : Prop :=
  (∀ s t : State, s.locks.lawful → step s = .next t → t.locks.lawful)
  ∧ ∀ s t : State, s.locks.lawful → s.locks.noCycle → step s = .next t → t.locks.noCycle

/-- Law 7 of the device holds of every notice queue at every step (R133, R134, R136, R139, R142). -/
def Obligations.EveryStepKeepsTheNoticeLaw : Prop :=
  ∀ s t : State, s.noticesLawful → step s = .next t → t.noticesLawful

/-- Law 8 of the device holds of every Link Controller at every step (R154, R158, R163). -/
def Obligations.EveryStepKeepsTheLinkLaw : Prop :=
  ∀ s t : State, (∀ p : Port, (s.link p).lawful) → step s = .next t → ∀ p : Port, (t.link p).lawful

/-- A channel holds at most four chunks (law 9, R113), IDLE, LOADING and the ended states hold nothing of a run in motion (R90, R112),
and a stall record stands in STALLED only (Table 5.1, R123, R124), at every step.
With what is in flight fitting the channel's state, an IDLE channel has no hub request outstanding and no store access waiting or granted
at every step (law 9, R90, R101). -/
def Obligations.EveryStepKeepsTheChannelLaw : Prop :=
  (∀ s t : State, (∀ c : Channel, (s.chan c).lawful) → step s = .next t → ∀ c : Channel, (t.chan c).lawful)
  ∧ ∀ s t : State, s.channelsLawful → step s = .next t → t.channelsLawful

/-- Outside RUN every block stays as after reset at every step (R167, R182). -/
def Obligations.EveryStepKeepsBlocksQuietOutsideRun : Prop :=
  ∀ s t : State, s.quietOutsideRun → step s = .next t → t.quietOutsideRun
end

