-- ==== Sys2Proof/Laws/Locks.lean ====
section
/-! SUPPORT. What the operations on the Lock Table do: reading and replacing an entry, releasing, granting, the sweep, the searches
for slots, and handles. -/

namespace Sys2Proof.Machine

/-! ### Searches over the slots -/

/-- Every slot is searched. -/
theorem mem_allLockSlots (k : LockSlot) : k ∈ allLockSlots := List.mem_finRange k

/-- The slots are searched in rising order. -/
theorem allLockSlots_sorted : allLockSlots.Pairwise (· < ·) := List.pairwise_lt_finRange 32

/-- The head of the slots that pass a test is the lowest-numbered that does. -/
theorem filter_allLockSlots_head {P : LockSlot → Bool} {k : LockSlot} {rest : List LockSlot}
    (h : allLockSlots.filter P = k :: rest) : P k = true ∧ ∀ j, j < k → P j = false := by
  have hk : k ∈ allLockSlots.filter P := by rw [h]; exact List.mem_cons_self
  refine ⟨(List.mem_filter.mp hk).2, fun j hj => ?_⟩
  by_contra hP
  have hjm : j ∈ allLockSlots.filter P := List.mem_filter.mpr ⟨mem_allLockSlots j, by simpa using hP⟩
  have hs : (allLockSlots.filter P).Pairwise (· < ·) := allLockSlots_sorted.sublist List.filter_sublist
  rw [h] at hjm hs
  rcases List.mem_cons.mp hjm with rfl | hr
  · exact absurd hj (lt_irrefl _)
  · exact absurd ((List.pairwise_cons.mp hs).1 j hr) (not_lt.mpr hj.le)

/-- No slot passes a test that finds none. -/
theorem filter_allLockSlots_nil {P : LockSlot → Bool} (h : allLockSlots.filter P = []) (k : LockSlot) : P k = false := by
  simpa using List.filter_eq_nil_iff.mp h k (mem_allLockSlots k)

/-- A search finds the lowest-numbered slot that passes its test. -/
theorem find_allLockSlots_eq_some {P : LockSlot → Bool} {k : LockSlot} :
    allLockSlots.find? P = some k ↔ P k = true ∧ ∀ j, j < k → P j = false := by
  rw [← List.head?_filter]
  constructor
  · intro h
    obtain ⟨rest, hr⟩ : ∃ rest, allLockSlots.filter P = k :: rest := by
      cases hf : allLockSlots.filter P with
      | nil => simp [hf] at h
      | cons a l => simp [hf] at h; exact ⟨l, by rw [h]⟩
    exact filter_allLockSlots_head hr
  · rintro ⟨hk, hlow⟩
    cases hf : allLockSlots.filter P with
    | nil => simp [filter_allLockSlots_nil hf k] at hk
    | cons a l =>
      obtain ⟨ha, hal⟩ := filter_allLockSlots_head hf
      rcases lt_trichotomy a k with h | h | h
      · simp [hlow a h] at ha
      · simp [h]
      · simp [hal k h] at hk

/-- A search that finds nothing: no slot passes. -/
theorem find_allLockSlots_eq_none {P : LockSlot → Bool} :
    allLockSlots.find? P = none ↔ ∀ k, P k = false := by
  simp [List.find?_eq_none, mem_allLockSlots]

/-! ### Entries -/

@[simp] theorem LockUnit.entry_setEntry_self (u : LockUnit) (k : LockSlot) (e : LockEntry) :
    (u.setEntry k e).entry k = e := by
  simp [LockUnit.setEntry, LockUnit.entry]

theorem LockUnit.entry_setEntry_other (u : LockUnit) {k j : LockSlot} (e : LockEntry) (h : j ≠ k) :
    (u.setEntry k e).entry j = u.entry j := by
  simp [LockUnit.setEntry, LockUnit.entry, Vector.getElem_set_ne, Fin.val_ne_of_ne h.symm]

@[simp] theorem LockUnit.order_setEntry (u : LockUnit) (k : LockSlot) (e : LockEntry) :
    (u.setEntry k e).order = u.order := rfl

/-- The waiting order has no part in an entry. -/
@[simp] theorem LockUnit.entry_order (u : LockUnit) (l : List LockSlot) (k : LockSlot) :
    LockUnit.entry { u with order := l } k = u.entry k := rfl

/-- A placed entry keeps its slot's generation. -/
theorem LockUnit.place_eq (u : LockUnit) (k : LockSlot) (e : EntryState) :
    u.place k e = u.setEntry k ⟨(u.entry k).gen, e⟩ := rfl

/-- The fields of a standing or waiting entry are those of its claim. -/
theorem EntryState.claim_of_standing {e : EntryState} {c : Claim} (h : c ∈ e.standing?) : c ∈ e.claim? := by
  cases e <;> simp_all [EntryState.standing?, EntryState.claim?]

theorem EntryState.claim_of_waiting {e : EntryState} {c : Claim} (h : c ∈ e.waiting?) : c ∈ e.claim? := by
  cases e <;> simp_all [EntryState.waiting?, EntryState.claim?]

theorem EntryState.claim_of_held {e : EntryState} {c : Claim} (h : c ∈ e.held?) : c ∈ e.claim? := by
  cases e <;> simp_all [EntryState.held?, EntryState.claim?]

/-- An entry has a claim exactly outside FREE. -/
theorem EntryState.claim_isSome_iff (e : EntryState) : e.claim?.isSome = true ↔ e ≠ .free := by
  cases e <;> simp [EntryState.claim?]

/-! ### Releasing and granting -/

/-- A released entry is FREE with its generation advanced (R22). -/
@[simp] theorem LockUnit.entry_release_self (u : LockUnit) (k : LockSlot) :
    (u.release k).entry k = ⟨(u.entry k).gen + 1, .free⟩ := by
  simp [LockUnit.release, LockUnit.entry, LockUnit.setEntry]

theorem LockUnit.entry_release_other (u : LockUnit) {k j : LockSlot} (h : j ≠ k) :
    (u.release k).entry j = u.entry j := by
  simp only [LockUnit.release, LockUnit.entry_order]
  exact u.entry_setEntry_other _ h

/-- A released slot stands in the waiting order no more; the others keep their order (R31). -/
@[simp] theorem LockUnit.order_release (u : LockUnit) (k : LockSlot) :
    (u.release k).order = u.order.filter (fun j => j != k) := rfl

@[simp] theorem LockUnit.entry_grant_self (u : LockUnit) (k : LockSlot) (c : Claim) :
    (u.grant k c).entry k = ⟨(u.entry k).gen, .held c.fullLease⟩ := by
  simp [LockUnit.grant]

theorem LockUnit.entry_grant_other (u : LockUnit) {k j : LockSlot} (c : Claim) (h : j ≠ k) :
    (u.grant k c).entry j = u.entry j := u.entry_setEntry_other _ h

@[simp] theorem LockUnit.order_grant (u : LockUnit) (k : LockSlot) (c : Claim) : (u.grant k c).order = u.order := rfl

/-- The lease starts from its full length, and nothing else of the claim changes. -/
@[simp] theorem Claim.conflicts_fullLease (c d : Claim) : c.fullLease.conflicts d = c.conflicts d := rfl

/-! ### The sweep -/

/-- Everything a sweep can do to an entry: it stays as it is, or it was WAITING and is now HELD with a full lease under the same
generation. -/
theorem sweepFrom_entry (todo kept : List LockSlot) (u : LockUnit) (j : LockSlot) :
    (sweepFrom todo kept u).1.entry j = u.entry j
      ∨ ∃ c, (u.entry j).state.waiting? = some c
        ∧ (sweepFrom todo kept u).1.entry j = ⟨(u.entry j).gen, .held c.fullLease⟩ := by
  induction todo generalizing kept u with
  | nil => exact Or.inl rfl
  | cons k rest ih =>
    unfold sweepFrom
    split
    · next c hc =>
      split
      · rcases ih kept (u.grant k c) with h | ⟨d, hd, h⟩
        · by_cases hj : j = k
          · subst hj
            exact Or.inr ⟨c, hc, by simp [h]⟩
          · rw [u.entry_grant_other c hj] at h
            exact Or.inl h
        · by_cases hj : j = k
          · subst hj
            simp [EntryState.waiting?] at hd
          · rw [u.entry_grant_other c hj] at hd h
            exact Or.inr ⟨d, hd, h⟩
      · exact ih (kept ++ [k]) u
    · exact ih kept u

/-- An entry that is not WAITING stays as it is in a sweep. -/
theorem LockUnit.entry_sweep_of_not_waiting (u : LockUnit) (j : LockSlot) (h : (u.entry j).state.waiting? = none) :
    u.sweep.1.entry j = u.entry j := by
  rcases sweepFrom_entry u.order [] u j with h' | ⟨c, hc, _⟩
  · exact h'
  · simp [hc] at h

/-- The waiting order after a sweep is what was kept before it, and some of what was examined, in order. -/
theorem sweepFrom_order (todo kept : List LockSlot) (u : LockUnit) :
    ∃ l, l.Sublist todo ∧ (sweepFrom todo kept u).1.order = kept ++ l := by
  induction todo generalizing kept u with
  | nil => exact ⟨[], List.Sublist.refl _, by simp [sweepFrom]⟩
  | cons k rest ih =>
    unfold sweepFrom
    split
    · split
      · next c _ _ =>
        obtain ⟨l, hl, h⟩ := ih kept (u.grant k c)
        exact ⟨l, hl.cons k, h⟩
      · obtain ⟨l, hl, h⟩ := ih (kept ++ [k]) u
        exact ⟨k :: l, hl.cons_cons k, by simpa using h⟩
    · obtain ⟨l, hl, h⟩ := ih kept u
      exact ⟨l, hl.cons k, h⟩

/-- The entries still waiting after a sweep keep their order (R31). -/
theorem LockUnit.order_sweep_sublist (u : LockUnit) : u.sweep.1.order.Sublist u.order := by
  obtain ⟨l, hl, h⟩ := sweepFrom_order u.order [] u
  have : u.sweep.1.order = l := by simpa [LockUnit.sweep] using h
  rw [this]
  exact hl

/-- Every event of a sweep is LOCK_GRANTED. -/
theorem sweepFrom_events (todo kept : List LockSlot) (u : LockUnit) :
    ∀ e ∈ (sweepFrom todo kept u).2, ∃ h, e.2 = .lockGranted h := by
  induction todo generalizing kept u with
  | nil => simp [sweepFrom]
  | cons k rest ih =>
    unfold sweepFrom
    split
    · split
      · intro e he
        rcases List.mem_cons.mp he with rfl | he
        · exact ⟨_, rfl⟩
        · exact ih _ _ e he
      · exact ih _ _
    · exact ih _ _

/-- The released slot is FREE after the sweep that its release runs, and its old handle is stale (R23). -/
theorem LockUnit.entry_release_sweep (u : LockUnit) (k : LockSlot) :
    (u.release k).sweep.1.entry k = ⟨(u.entry k).gen + 1, .free⟩ := by
  rw [LockUnit.entry_sweep_of_not_waiting] <;> simp [EntryState.waiting?]

/-- What a release with its sweep hands on. -/
@[simp] theorem LockUnit.releaseAndSweep_unit (u : LockUnit) (k : LockSlot) (ev : List Handed) (r : List GranuleRange) :
    (u.releaseAndSweep k ev r).unit = (u.release k).sweep.1 := rfl

@[simp] theorem LockUnit.releaseAndSweep_events (u : LockUnit) (k : LockSlot) (ev : List Handed) (r : List GranuleRange) :
    (u.releaseAndSweep k ev r).events = ev ++ (u.release k).sweep.2 := rfl

@[simp] theorem LockUnit.releaseAndSweep_released (u : LockUnit) (k : LockSlot) (ev : List Handed) (r : List GranuleRange) :
    (u.releaseAndSweep k ev r).released = r := rfl

/-! ### Handles -/

/-- A handle is honoured exactly when its slot is outside FREE with its generation (R23). -/
theorem LockUnit.honoured_eq_some (u : LockUnit) (h : Handle) (e : EntryState) :
    u.honoured h = some e ↔ u.entry h.slot = ⟨h.gen, e⟩ ∧ e ≠ .free := by
  unfold LockUnit.honoured
  constructor
  · intro hh
    split at hh
    · next hc =>
      cases hh
      exact ⟨by rw [← hc.1], hc.2⟩
    · simp at hh
  · rintro ⟨he, hf⟩
    simp [he, hf]

/-- A handle is stale exactly when its slot is FREE or has another generation (R23). -/
theorem LockUnit.honoured_eq_none (u : LockUnit) (h : Handle) :
    u.honoured h = none ↔ (u.entry h.slot).gen ≠ h.gen ∨ (u.entry h.slot).state = .free := by
  unfold LockUnit.honoured
  split
  · next hc => simp [hc.1, hc.2]
  · next hc =>
    simp only [true_iff]
    by_cases hg : (u.entry h.slot).gen = h.gen
    · exact Or.inr (by by_contra hf; exact hc ⟨hg, hf⟩)
    · exact Or.inl hg

/-- The guard check is that of R57. -/
theorem LockUnit.guardHolds_iff (u : LockUnit) (p : Port) (h : Handle) :
    u.guardHolds p h = true ↔ GuardPasses u p h := by
  unfold LockUnit.guardHolds GuardPasses
  constructor
  · intro hh
    split at hh
    · next c hc =>
      exact ⟨c, ((u.honoured_eq_some h _).mp hc).1, by simpa using hh⟩
    · simp at hh
  · rintro ⟨c, he, ho⟩
    have : u.honoured h = some (.held c) := (u.honoured_eq_some h _).mpr ⟨he, by simp⟩
    simp [this, ho]

/-- A covering entry refuses as Table 3.2 says. -/
theorem LockUnit.mem_refusers (u : LockUnit) (p : Port) (g : Nat) (isWrite : Bool) (k : LockSlot) :
    k ∈ u.refusers p g isWrite ↔ EntryRefuses u p g isWrite k := by
  unfold LockUnit.refusers EntryRefuses
  rw [List.mem_filter]
  simp only [mem_allLockSlots, true_and]
  cases h : (u.entry k).state with
  | free => simp [EntryState.standing?]
  | waiting c n => simp [EntryState.standing?]
  | held c =>
    cases hm : c.mode <;> simp [EntryState.standing?, EntryState.refuses, Claim.covers, hm] <;> tauto
  | orphaned c n a =>
    cases hm : c.mode <;> simp [EntryState.standing?, EntryState.refuses, Claim.covers, hm] <;> tauto

/-! ### Effects put into State -/

@[simp] theorem State.lockEffect_locks (s : State) (e : LockEffect) : (s.lockEffect e).locks = e.unit := rfl

/-- A claim's effect changes the Lock Unit, the events and the announcements alone. -/
theorem State.lockEffect_eq (s : State) (e : LockEffect) :
    s.lockEffect e = { s with locks := e.unit, events := if e.events = [] then s.events else s.events ++ [e.events],
                              announcements := s.announcements ++ e.released } := rfl

/-- An effect that changes nothing leaves the state. -/
@[simp] theorem State.lockEffect_nothing (s : State) : s.lockEffect ⟨s.locks, [], []⟩ = s := by
  simp [State.lockEffect_eq]

end Sys2Proof.Machine
end

