-- ==== Sys2Proof/Laws/Memory.lean ====
section
/-! SUPPORT. What the operations over sparse data, sets and the store do: reads after writes, and the canonical form
that every one of them keeps. -/

namespace Sys2Proof.Machine

/-! ### Sparse data -/

theorem cellsRead_above {α : Type} (bg : Nat → α) (l : List (Nat × α)) (a : Nat)
    (h : ∀ e ∈ l, a < e.1) : cellsRead bg l a = bg a := by
  induction l with
  | nil => rfl
  | cons e rest ih =>
    have h0 : a < e.1 := h e (by simp)
    simp only [cellsRead, if_neg (Nat.ne_of_lt h0)]
    exact ih fun e' he => h e' (List.mem_cons_of_mem _ he)

theorem cellsRising_cons {α : Type} (e : Nat × α) (l : List (Nat × α)) :
    cellsRising (e :: l) = true ↔ (∀ x ∈ l, e.1 < x.1) ∧ cellsRising l = true := by
  simp [cellsRising]

theorem cellsRead_cellsWrite_self {α : Type} [DecidableEq α] (bg : Nat → α) (l : List (Nat × α)) (a : Nat) (v : α)
    (h : cellsRising l = true) : cellsRead bg (cellsWrite bg l a v) a = v := by
  induction l with
  | nil => by_cases hv : v = bg a <;> simp [cellsWrite, cellsRead, hv]
  | cons e rest ih =>
    obtain ⟨hk, hr⟩ := (cellsRising_cons e rest).1 h
    by_cases h1 : a < e.1
    · by_cases hv : v = bg a
      · simp only [cellsWrite, if_pos h1, if_pos hv]
        rw [hv]
        refine cellsRead_above bg _ a fun x hx => ?_
        rcases List.mem_cons.1 hx with rfl | hx
        · exact h1
        · exact Nat.lt_trans h1 (hk x hx)
      · simp [cellsWrite, h1, hv, cellsRead]
    · by_cases h2 : a = e.1
      · by_cases hv : v = bg a
        · simp only [cellsWrite, if_neg h1, if_pos h2, if_pos hv]
          rw [hv]
          exact cellsRead_above bg _ a fun x hx => h2 ▸ hk x hx
        · simp [cellsWrite, h2, cellsRead, h2 ▸ hv]
      · simp only [cellsWrite, if_neg h1, if_neg h2, cellsRead]
        exact ih hr

theorem cellsRead_cellsWrite_other {α : Type} [DecidableEq α] (bg : Nat → α) (l : List (Nat × α)) (a b : Nat) (v : α)
    (h : b ≠ a) : cellsRead bg (cellsWrite bg l a v) b = cellsRead bg l b := by
  induction l with
  | nil => by_cases hv : v = bg a <;> simp [cellsWrite, cellsRead, hv, h]
  | cons e rest ih =>
    simp only [cellsWrite]
    split_ifs with h1 h2 h3 h4
    · rfl
    · simp [cellsRead, h]
    · subst h3; simp [cellsRead, h]
    · subst h3; simp [cellsRead, h]
    · simp [cellsRead, ih]

theorem mem_cellsWrite {α : Type} [DecidableEq α] (bg : Nat → α) (l : List (Nat × α)) (a : Nat) (v : α)
    (e : Nat × α) (h : e ∈ cellsWrite bg l a v) : e = (a, v) ∨ e ∈ l := by
  induction l with
  | nil =>
    simp only [cellsWrite] at h
    split_ifs at h <;> simp_all
  | cons f rest ih =>
    simp only [cellsWrite] at h
    split_ifs at h with h1 h2 h3 h4
    · exact .inr h
    · rcases List.mem_cons.1 h with h | h
      · exact .inl h
      · exact .inr h
    · exact .inr (List.mem_cons_of_mem _ h)
    · rcases List.mem_cons.1 h with h | h
      · exact .inl h
      · exact .inr (List.mem_cons_of_mem _ h)
    · rcases List.mem_cons.1 h with h | h
      · exact .inr (by simp [h])
      · rcases ih h with h | h
        · exact .inl h
        · exact .inr (List.mem_cons_of_mem _ h)

theorem cellsRising_cellsWrite {α : Type} [DecidableEq α] (bg : Nat → α) (l : List (Nat × α)) (a : Nat) (v : α)
    (h : cellsRising l = true) : cellsRising (cellsWrite bg l a v) = true := by
  induction l with
  | nil =>
    simp only [cellsWrite]
    split_ifs <;> rfl
  | cons e rest ih =>
    obtain ⟨hk, hr⟩ := (cellsRising_cons e rest).1 h
    simp only [cellsWrite]
    split_ifs with h1 h2 h3 h4
    · exact h
    · refine (cellsRising_cons _ _).2 ⟨fun x hx => ?_, h⟩
      rcases List.mem_cons.1 hx with rfl | hx
      · exact h1
      · exact Nat.lt_trans h1 (hk x hx)
    · exact hr
    · exact (cellsRising_cons _ _).2 ⟨fun x hx => h3 ▸ hk x hx, hr⟩
    · refine (cellsRising_cons _ _).2 ⟨fun x hx => ?_, ih hr⟩
      rcases mem_cellsWrite bg rest a v x hx with rfl | hx
      · have : e.1 < a := by omega
        exact this
      · exact hk x hx

theorem cellsWf_iff {α : Type} [DecidableEq α] (bg : Nat → α) (l : List (Nat × α)) :
    cellsWf bg l = true ↔ cellsRising l = true ∧ ∀ e ∈ l, e.2 ≠ bg e.1 := by
  simp [cellsWf]

/-- A write keeps the canonical form. -/
theorem cellsWf_cellsWrite {α : Type} [DecidableEq α] (bg : Nat → α) (l : List (Nat × α)) (a : Nat) (v : α)
    (h : cellsWf bg l = true) : cellsWf bg (cellsWrite bg l a v) = true := by
  obtain ⟨hr, hb⟩ := (cellsWf_iff bg l).1 h
  refine (cellsWf_iff bg _).2 ⟨cellsRising_cellsWrite bg l a v hr, ?_⟩
  clear h hr
  induction l with
  | nil =>
    simp only [cellsWrite]
    split_ifs with hv <;> simp [hv]
  | cons f rest ih =>
    simp only [cellsWrite]
    have hrest : ∀ x ∈ rest, x.2 ≠ bg x.1 := fun x hx => hb x (List.mem_cons_of_mem _ hx)
    split_ifs with h1 h2 h3 h4
    · exact hb
    · intro x hx
      rcases List.mem_cons.1 hx with rfl | hx
      · exact h2
      · exact hb x hx
    · exact hrest
    · intro x hx
      rcases List.mem_cons.1 hx with rfl | hx
      · exact h4
      · exact hrest x hx
    · intro x hx
      rcases List.mem_cons.1 hx with rfl | hx
      · exact hb _ (by simp)
      · exact ih hrest x hx

/-! ### Sets of numbers -/

theorem mem_setInsert (n k : Nat) (l : List Nat) : k ∈ setInsert n l ↔ k = n ∨ k ∈ l := by
  induction l with
  | nil => simp [setInsert]
  | cons j rest ih =>
    simp only [setInsert]
    split_ifs with h1 h2
    · simp
    · subst h2; simp
    · simp only [List.mem_cons, ih]; tauto

theorem mem_setErase (n k : Nat) (l : List Nat) : k ∈ setErase n l ↔ k ∈ l ∧ k ≠ n := by
  simp [setErase]

theorem setRising_cons (k : Nat) (l : List Nat) :
    setRising (k :: l) = true ↔ (∀ j ∈ l, k < j) ∧ setRising l = true := by
  simp [setRising]

theorem setRising_setInsert (n : Nat) (l : List Nat) (h : setRising l = true) : setRising (setInsert n l) = true := by
  induction l with
  | nil => rfl
  | cons k rest ih =>
    obtain ⟨hk, hr⟩ := (setRising_cons k rest).1 h
    simp only [setInsert]
    split_ifs with h1 h2
    · refine (setRising_cons _ _).2 ⟨fun j hj => ?_, h⟩
      rcases List.mem_cons.1 hj with rfl | hj
      · exact h1
      · exact Nat.lt_trans h1 (hk j hj)
    · exact h
    · refine (setRising_cons _ _).2 ⟨fun j hj => ?_, ih hr⟩
      rcases (mem_setInsert n j rest).1 hj with rfl | hj
      · omega
      · exact hk j hj

theorem setRising_setErase (n : Nat) (l : List Nat) (h : setRising l = true) : setRising (setErase n l) = true := by
  induction l with
  | nil => rfl
  | cons k rest ih =>
    obtain ⟨hk, hr⟩ := (setRising_cons k rest).1 h
    simp only [setErase, List.filter_cons]
    split_ifs with h1
    · exact (setRising_cons _ _).2 ⟨fun j hj => hk j (List.mem_of_mem_filter hj), ih hr⟩
    · exact ih hr

theorem poisonWf_setInsert (n : Nat) (l : List Nat) (hn : n < 4096) (h : poisonWf l = true) :
    poisonWf (setInsert n l) = true := by
  simp only [poisonWf, Bool.and_eq_true, List.all_eq_true, decide_eq_true_eq] at h ⊢
  refine ⟨setRising_setInsert n l h.1, fun k hk => ?_⟩
  rcases (mem_setInsert n k l).1 hk with rfl | hk
  · exact hn
  · exact h.2 k hk

theorem poisonWf_setErase (n : Nat) (l : List Nat) (h : poisonWf l = true) : poisonWf (setErase n l) = true := by
  simp only [poisonWf, Bool.and_eq_true, List.all_eq_true, decide_eq_true_eq] at h ⊢
  exact ⟨setRising_setErase n l h.1, fun k hk => h.2 k ((mem_setErase n k l).1 hk).1⟩

/-! ### Store bytes and conditions -/

theorem Store.byte_writeByte_self (st : Store) (a : Nat) (b : Byte) (h : cellsRising st.bytes = true) :
    (st.writeByte a b).byte a = b := cellsRead_cellsWrite_self _ _ _ _ h

theorem Store.byte_writeByte_other (st : Store) (a : Nat) (b : Byte) (x : Nat) (h : x ≠ a) :
    (st.writeByte a b).byte x = st.byte x := cellsRead_cellsWrite_other _ _ _ _ _ h

@[simp] theorem Store.condition_writeByte (st : Store) (a : Nat) (b : Byte) (w : Nat) :
    (st.writeByte a b).condition w = st.condition w := rfl

theorem Store.condition_setCondition_self (st : Store) (w : Nat) (c : Condition)
    (h : cellsRising st.conditions = true) : (st.setCondition w c).condition w = c :=
  cellsRead_cellsWrite_self _ _ _ _ h

theorem Store.condition_setCondition_other (st : Store) (w : Nat) (c : Condition) (x : Nat) (h : x ≠ w) :
    (st.setCondition w c).condition x = st.condition x := cellsRead_cellsWrite_other _ _ _ _ _ h

@[simp] theorem Store.byte_setCondition (st : Store) (w : Nat) (c : Condition) (a : Nat) :
    (st.setCondition w c).byte a = st.byte a := rfl

@[simp] theorem Store.word_setCondition (st : Store) (w : Nat) (c : Condition) (x : Nat) :
    (st.setCondition w c).word x = st.word x := rfl

@[simp] theorem Store.condition_setValue (st : Store) (w : Nat) (v : Word) (x : Nat) :
    (st.setValue w v).condition x = st.condition x := rfl

theorem Store.rising_writeByte (st : Store) (a : Nat) (b : Byte) (h : cellsRising st.bytes = true) :
    cellsRising (st.writeByte a b).bytes = true := cellsRising_cellsWrite _ _ _ _ h

theorem Store.byte_setValue_other (st : Store) (w : Nat) (v : Word) (x : Nat) (h : x / 4 ≠ w) :
    (st.setValue w v).byte x = st.byte x := by
  simp only [Store.setValue]
  rw [byte_writeByte_other _ _ _ _ (by omega), byte_writeByte_other _ _ _ _ (by omega),
    byte_writeByte_other _ _ _ _ (by omega), byte_writeByte_other _ _ _ _ (by omega)]

/-- The value written is the value read (R1, R3). -/
theorem Store.word_setValue_self (st : Store) (w : Nat) (v : Word) (h : cellsRising st.bytes = true) :
    (st.setValue w v).word w = v := by
  have r1 := st.rising_writeByte (4 * w) (v.extractLsb' 0 8) h
  have r2 := Store.rising_writeByte _ (4 * w + 1) (v.extractLsb' 8 8) r1
  have r3 := Store.rising_writeByte _ (4 * w + 2) (v.extractLsb' 16 8) r2
  simp only [Store.word, Store.setValue]
  rw [byte_writeByte_self _ _ _ r3, byte_writeByte_other _ _ _ (4 * w + 2) (by omega), byte_writeByte_self _ _ _ r2,
    byte_writeByte_other _ _ _ (4 * w + 1) (by omega), byte_writeByte_other _ _ _ (4 * w + 1) (by omega),
    byte_writeByte_self _ _ _ r1,
    byte_writeByte_other _ _ _ (4 * w) (by omega), byte_writeByte_other _ _ _ (4 * w) (by omega),
    byte_writeByte_other _ _ _ (4 * w) (by omega), byte_writeByte_self _ _ _ h]
  ext i hi
  simp only [BitVec.getElem_append, BitVec.getElem_extractLsb']
  split_ifs <;> rw [BitVec.getLsbD_eq_getElem (by omega)] <;> congr 1 <;> omega

theorem Store.word_setValue_other (st : Store) (w : Nat) (v : Word) (x : Nat) (h : x ≠ w) :
    (st.setValue w v).word x = st.word x := by
  simp only [Store.word]
  rw [byte_setValue_other _ _ _ _ (by omega), byte_setValue_other _ _ _ _ (by omega),
    byte_setValue_other _ _ _ _ (by omega), byte_setValue_other _ _ _ _ (by omega)]

theorem Store.word_writeWord_self (st : Store) (w : Nat) (v : Word) (h : cellsRising st.bytes = true) :
    (st.writeWord w v).word w = v := by
  simp [Store.writeWord, st.word_setValue_self w v h]

theorem Store.word_writeWord_other (st : Store) (w : Nat) (v : Word) (x : Nat) (h : x ≠ w) :
    (st.writeWord w v).word x = st.word x := by
  simp [Store.writeWord, st.word_setValue_other w v x h]

theorem Store.condition_writeWord_self (st : Store) (w : Nat) (v : Word) (h : cellsRising st.conditions = true) :
    (st.writeWord w v).condition w = .clean := Store.condition_setCondition_self _ _ _ h

theorem Store.condition_writeWord_other (st : Store) (w : Nat) (v : Word) (x : Nat) (h : x ≠ w) :
    (st.writeWord w v).condition x = st.condition x := Store.condition_setCondition_other _ _ _ _ h

/-! ### The canonical form of the store -/

/-- The parts of the store's canonical form. -/
theorem Store.wf_iff (st : Store) : st.wf = true ↔
    cellsWf st.background.byte st.bytes = true ∧ (∀ e ∈ st.bytes, e.1 < 0x40000)
      ∧ cellsWf st.background.condition st.conditions = true ∧ ∀ e ∈ st.conditions, e.1 < 0x10000 := by
  simp only [Store.wf, Bool.and_eq_true, List.all_eq_true, decide_eq_true_eq, and_assoc]

theorem Store.wf_bytes_rising (st : Store) (h : st.wf = true) : cellsRising st.bytes = true :=
  ((cellsWf_iff _ _).1 ((Store.wf_iff st).1 h).1).1

theorem Store.wf_conditions_rising (st : Store) (h : st.wf = true) : cellsRising st.conditions = true :=
  ((cellsWf_iff _ _).1 ((Store.wf_iff st).1 h).2.2.1).1

theorem Store.wf_writeByte (st : Store) (a : Nat) (b : Byte) (ha : a < 0x40000) (h : st.wf = true) :
    (st.writeByte a b).wf = true := by
  obtain ⟨h1, h2, h3, h4⟩ := (Store.wf_iff st).1 h
  refine (Store.wf_iff _).2 ⟨cellsWf_cellsWrite _ _ _ _ h1, fun e he => ?_, h3, h4⟩
  rcases mem_cellsWrite _ _ _ _ e he with rfl | he
  · exact ha
  · exact h2 e he

theorem Store.wf_setCondition (st : Store) (w : Nat) (c : Condition) (hw : w < 0x10000) (h : st.wf = true) :
    (st.setCondition w c).wf = true := by
  obtain ⟨h1, h2, h3, h4⟩ := (Store.wf_iff st).1 h
  refine (Store.wf_iff _).2 ⟨h1, h2, cellsWf_cellsWrite _ _ _ _ h3, fun e he => ?_⟩
  rcases mem_cellsWrite _ _ _ _ e he with rfl | he
  · exact hw
  · exact h4 e he

theorem Store.wf_writeWord (st : Store) (w : Nat) (v : Word) (hw : w < 0x10000) (h : st.wf = true) :
    (st.writeWord w v).wf = true := by
  refine Store.wf_setCondition _ _ _ hw ?_
  exact Store.wf_writeByte _ _ _ (by omega) (Store.wf_writeByte _ _ _ (by omega)
    (Store.wf_writeByte _ _ _ (by omega) (Store.wf_writeByte _ _ _ (by omega) h)))

theorem Store.wf_writeWords (st : Store) (w : Nat) (l : List Word) (hw : w + l.length ≤ 0x10000)
    (h : st.wf = true) : (st.writeWords w l).wf = true := by
  induction l generalizing st w with
  | nil => exact h
  | cons v rest ih =>
    simp only [List.length_cons] at hw
    exact ih _ _ (by omega) (Store.wf_writeWord st w v (by omega) h)

theorem Store.wf_correct (st : Store) (w : Nat) (hw : w < 0x10000) (h : st.wf = true) : (st.correct w).wf = true := by
  unfold Store.correct
  split
  · exact h
  · exact Store.wf_setCondition _ _ _ hw h
  · exact h

theorem Store.wf_correctAll (st : Store) (w n : Nat) (hw : w + n ≤ 0x10000) (h : st.wf = true) :
    (st.correctAll w n).wf = true := by
  induction n generalizing st w with
  | zero => exact h
  | succ n ih => exact ih _ _ (by omega) (Store.wf_correct st w (by omega) h)

/-! ### Words written and corrected -/

@[simp] theorem Store.word_correct (st : Store) (w x : Nat) : (st.correct w).word x = st.word x := by
  unfold Store.correct
  split <;> simp

@[simp] theorem Store.word_correctAll (st : Store) (w n x : Nat) : (st.correctAll w n).word x = st.word x := by
  induction n generalizing st w with
  | zero => rfl
  | succ n ih => simp [Store.correctAll, ih]

@[simp] theorem Store.byte_correct (st : Store) (w a : Nat) : (st.correct w).byte a = st.byte a := by
  unfold Store.correct
  split <;> simp

@[simp] theorem Store.byte_correctAll (st : Store) (w n a : Nat) : (st.correctAll w n).byte a = st.byte a := by
  induction n generalizing st w with
  | zero => rfl
  | succ n ih => simp [Store.correctAll, ih]

theorem Store.byte_writeWord_other (st : Store) (w : Nat) (v : Word) (a : Nat) (h : a / 4 ≠ w) :
    (st.writeWord w v).byte a = st.byte a := by
  simp [Store.writeWord, st.byte_setValue_other w v a h]

/-- Every byte outside the words written is left (R3). -/
theorem Store.byte_writeWords_other (st : Store) (w : Nat) (l : List Word) (a : Nat)
    (h : a / 4 < w ∨ w + l.length ≤ a / 4) : (st.writeWords w l).byte a = st.byte a := by
  induction l generalizing st w with
  | nil => rfl
  | cons v rest ih =>
    simp only [List.length_cons] at h
    simp only [Store.writeWords]
    rw [ih _ _ (by omega), Store.byte_writeWord_other _ _ _ _ (by omega)]

end Sys2Proof.Machine
end

