-- ==== Sys2Proof/Laws/Access.lean ====
section
/-! SUPPORT. What reading, writing, cutting and initialising do to the store, and the checks made at a grant. -/

namespace Sys2Proof.Machine

/-! ### Reading words -/

/-- The words read are those of consecutive word numbers, ascending (R12). -/
theorem Store.words_eq (st : Store) (w n : Nat) : st.words w n = (List.range n).map fun i => st.word (w + i) := by
  induction n generalizing w with
  | zero => rfl
  | succ n ih =>
    rw [Store.words, ih, List.range_succ_eq_map]
    simp [Function.comp_def, Nat.add_assoc, Nat.add_comm 1]

/-- An uncorrectable word was met exactly when one of the words read is uncorrectable. -/
theorem Store.anyUncorrectable_iff (st : Store) (w n : Nat) :
    st.anyUncorrectable w n = true ↔ ∃ i, i < n ∧ st.condition (w + i) = .uncorrectable := by
  induction n generalizing w with
  | zero => simp [Store.anyUncorrectable]
  | succ n ih =>
    rw [Store.anyUncorrectable, Bool.or_eq_true, decide_eq_true_eq, ih]
    constructor
    · rintro (h | ⟨i, hi, h⟩)
      · exact ⟨0, by omega, by simpa using h⟩
      · exact ⟨i + 1, by omega, by rw [← h]; congr 1; omega⟩
    · rintro ⟨i, hi, h⟩
      cases i with
      | zero => exact Or.inl (by simpa using h)
      | succ i => exact Or.inr ⟨i, by omega, by rw [← h]; congr 1; omega⟩

/-- A read corrects a single-bit error and leaves every other condition (R2). -/
theorem Store.condition_correct (st : Store) (w x : Nat) (h : cellsRising st.conditions = true) :
    (st.correct w).condition x = if x = w then afterRead (st.condition w) else st.condition x := by
  unfold Store.correct
  split
  · next hc =>
    split
    · next hx => subst hx; rw [hc]; rfl
    · rfl
  · next hc =>
    split
    · next hx => subst hx; rw [st.condition_setCondition_self _ _ h, hc]; rfl
    · next hx => exact st.condition_setCondition_other _ _ _ hx
  · next hc =>
    split
    · next hx => subst hx; rw [hc]; rfl
    · rfl

theorem Store.rising_setCondition (st : Store) (w : Nat) (c : Condition) (h : cellsRising st.conditions = true) :
    cellsRising (st.setCondition w c).conditions = true := cellsRising_cellsWrite _ _ _ _ h

theorem Store.rising_correct (st : Store) (w : Nat) (h : cellsRising st.conditions = true) :
    cellsRising (st.correct w).conditions = true := by
  unfold Store.correct
  split
  · exact h
  · exact st.rising_setCondition _ _ h
  · exact h

/-- Every word read is corrected where it can be, and no other word changes condition (R2). -/
theorem Store.condition_correctAll (st : Store) (w n x : Nat) (h : cellsRising st.conditions = true) :
    (st.correctAll w n).condition x = if w ≤ x ∧ x < w + n then afterRead (st.condition x) else st.condition x := by
  induction n generalizing st w with
  | zero => rw [Store.correctAll, if_neg (by omega)]
  | succ n ih =>
    rw [Store.correctAll, ih _ _ (st.rising_correct w h), st.condition_correct w x h]
    by_cases hx : x = w
    · subst hx
      rw [if_neg (by omega), if_pos rfl, if_pos (by omega)]
    · rw [if_neg hx]
      by_cases hr : w + 1 ≤ x ∧ x < w + 1 + n
      · rw [if_pos hr, if_pos (by omega)]
      · rw [if_neg hr, if_neg (by omega)]

/-! ### Writing words -/

theorem Store.rising_setValue (st : Store) (w : Nat) (v : Word) (h : cellsRising st.bytes = true) :
    cellsRising (st.setValue w v).bytes = true :=
  Store.rising_writeByte _ _ _ (Store.rising_writeByte _ _ _ (Store.rising_writeByte _ _ _ (st.rising_writeByte _ _ h)))

theorem Store.rising_bytes_writeWord (st : Store) (w : Nat) (v : Word) (h : cellsRising st.bytes = true) :
    cellsRising (st.writeWord w v).bytes = true := st.rising_setValue w v h

theorem Store.rising_conditions_writeWord (st : Store) (w : Nat) (v : Word) (h : cellsRising st.conditions = true) :
    cellsRising (st.writeWord w v).conditions = true := Store.rising_setCondition (st.setValue w v) w .clean h

/-- A word outside those written keeps its value and condition. -/
theorem Store.writeWords_other (st : Store) (w : Nat) (l : List Word) (x : Nat) (h : x < w ∨ w + l.length ≤ x) :
    (st.writeWords w l).word x = st.word x ∧ (st.writeWords w l).condition x = st.condition x := by
  induction l generalizing st w with
  | nil => exact ⟨rfl, rfl⟩
  | cons v rest ih =>
    simp only [List.length_cons] at h
    have hx : x ≠ w := by omega
    obtain ⟨h1, h2⟩ := ih (st.writeWord w v) (w + 1) (by omega)
    rw [Store.writeWords, h1, h2, st.word_writeWord_other w v x hx, st.condition_writeWord_other w v x hx]
    exact ⟨rfl, rfl⟩

/-- A word written holds the word carried and is clean (R3, R13). -/
theorem Store.writeWords_self (st : Store) (w : Nat) (l : List Word) (i : Nat) (hi : i < l.length)
    (hb : cellsRising st.bytes = true) (hc : cellsRising st.conditions = true) :
    (st.writeWords w l).word (w + i) = l[i] ∧ (st.writeWords w l).condition (w + i) = .clean := by
  induction l generalizing st w i with
  | nil => simp at hi
  | cons v rest ih =>
    rw [Store.writeWords]
    cases i with
    | zero =>
      obtain ⟨h1, h2⟩ := (st.writeWord w v).writeWords_other (w + 1) rest (w + 0) (by omega)
      rw [h1, h2]
      exact ⟨by simpa using st.word_writeWord_self w v hb, by simpa using st.condition_writeWord_self w v hc⟩
    | succ i =>
      have h := ih (st.writeWord w v) (w + 1) i (by simpa using hi) (st.rising_bytes_writeWord w v hb)
        (st.rising_conditions_writeWord w v hc)
      have hw : w + 1 + i = w + (i + 1) := by omega
      rw [hw] at h
      simpa using h

/-! ### The canonical form -/

/-- The store at cold reset lists nothing. -/
theorem Store.wf_reset : State.reset.store.wf = true := rfl

/-- An access inside the store keeps its form, whatever it does (R12 to R15). -/
theorem StoreAccess.wf_carryOut (a : StoreAccess) (st : Store) (ha : a.addr / 4 + a.op.count ≤ 0x10000)
    (h : st.wf = true) : (a.carryOut st).store.wf = true := by
  have atomic : ∀ (new : Word → Option Word) (sw : Word → Option Bool), a.addr / 4 + 1 ≤ 0x10000 →
      (atomicEffect st (a.addr / 4) new sw).store.wf = true := by
    intro new sw hw
    unfold atomicEffect
    split
    · exact h
    all_goals
      split
      · exact Store.wf_writeWord st _ _ (by omega) h
      · exact Store.wf_correct st _ (by omega) h
  unfold StoreAccess.carryOut
  cases hop : a.op with
  | read n =>
    simp only [hop, AccessOp.count] at ha
    dsimp only
    split <;> exact Store.wf_correctAll st _ _ ha h
  | write data =>
    simp only [hop, AccessOp.count] at ha
    exact Store.wf_writeWords st _ _ ha h
  | fetchAdd x => exact atomic _ _ (by simpa [hop, AccessOp.count] using ha)
  | swap v => exact atomic _ _ (by simpa [hop, AccessOp.count] using ha)
  | compareSwap e v => exact atomic _ _ (by simpa [hop, AccessOp.count] using ha)

theorem Store.wf_cutWrite (st : Store) (n w : Nat) (v : Word) (hw : w < 0x10000) (h : st.wf = true) :
    (st.cutWrite n w v).wf = true := by
  unfold Store.cutWrite
  split
  · exact Store.wf_writeWord st _ _ hw h
  · split
    · exact Store.wf_writeWord st _ _ hw h
    · exact Store.wf_setCondition st _ _ hw h
    · exact Store.wf_setCondition st _ _ hw h

theorem Store.wf_cutWrites (st : Store) (n w : Nat) (l : List Word) (hw : w + l.length ≤ 0x10000) (h : st.wf = true) :
    (st.cutWrites n w l).wf = true := by
  induction l generalizing st w with
  | nil => exact h
  | cons v rest ih =>
    simp only [List.length_cons] at hw
    exact ih _ _ (by omega) (Store.wf_cutWrite st n w v (by omega) h)

theorem Store.wf_cutReads (st : Store) (n w k : Nat) (hw : w + k ≤ 0x10000) (h : st.wf = true) :
    (st.cutReads n w k).wf = true := by
  induction k generalizing st w with
  | zero => exact h
  | succ k ih =>
    refine ih _ _ (by omega) ?_
    split
    · exact Store.wf_correct st w (by omega) h
    · exact h

/-- A cut access inside the store keeps its form (R9). -/
theorem StoreAccess.wf_cut (a : StoreAccess) (n : Nat) (st : Store) (ha : a.addr / 4 + a.op.count ≤ 0x10000)
    (h : st.wf = true) : (a.cut n st).wf = true := by
  unfold StoreAccess.cut
  dsimp only
  cases hop : a.op with
  | read k => exact Store.wf_cutReads st _ _ _ (by simpa [hop, AccessOp.count] using ha) h
  | write data => exact Store.wf_cutWrites st _ _ _ (by simpa [hop, AccessOp.count] using ha) h
  | fetchAdd x =>
    simp only [hop, AccessOp.count] at ha
    dsimp only
    split
    · exact h
    · exact Store.wf_cutWrite st _ _ _ (by omega) h
  | swap v =>
    simp only [hop, AccessOp.count] at ha
    dsimp only
    split
    · exact h
    · exact Store.wf_cutWrite st _ _ _ (by omega) h
  | compareSwap e v =>
    simp only [hop, AccessOp.count] at ha
    dsimp only
    split
    · exact h
    · split
      · exact Store.wf_cutWrite st _ _ _ (by omega) h
      · exact Store.wf_cutReads st _ _ _ ha h

/-- The store after a completed INIT lists nothing (R7). -/
theorem Store.wf_initialised (st : Store) : st.initialised.wf = true := rfl

/-- A filtered list of cells stays in order. -/
theorem cellsRising_filter {α : Type} (p : Nat × α → Bool) (l : List (Nat × α)) (h : cellsRising l = true) :
    cellsRising (l.filter p) = true := by
  induction l with
  | nil => rfl
  | cons e rest ih =>
    obtain ⟨h1, h2⟩ := (cellsRising_cons e rest).1 h
    rw [List.filter_cons]
    split
    · exact (cellsRising_cons e _).2 ⟨fun x hx => h1 x (List.mem_filter.mp hx).1, ih h2⟩
    · exact ih h2

/-- At and above the words filled, a byte or condition where nothing is listed is that of power-up (R7, R8). -/
theorem Background.byte_above (b : Background) (a : Nat) (h : b.filled ≤ a / 4) :
    b.byte a = Config.powerUpByte b.reset a := if_neg (by omega)

theorem Background.condition_above (b : Background) (w : Nat) (h : b.filled ≤ w) :
    b.condition w = Config.powerUpCondition b.reset w := if_neg (by omega)

/-- INIT stopped where nothing had been filled keeps the form (R8). -/
theorem Store.wf_stopInit (st : Store) (n : Nat) (hf : st.background.filled = 0) (h : st.wf = true) :
    (st.stopInit n).wf = true := by
  obtain ⟨h1, h2, h3, h4⟩ := (Store.wf_iff st).1 h
  obtain ⟨r1, n1⟩ := (cellsWf_iff _ _).1 h1
  obtain ⟨r3, n3⟩ := (cellsWf_iff _ _).1 h3
  refine (Store.wf_iff _).2 ⟨(cellsWf_iff _ _).2 ⟨cellsRising_filter _ _ r1, ?_⟩, ?_, (cellsWf_iff _ _).2
    ⟨cellsRising_filter _ _ r3, ?_⟩, ?_⟩
  · intro e he
    obtain ⟨hm, hp⟩ := List.mem_filter.mp he
    have hk := of_decide_eq_true hp
    have := n1 e hm
    rw [Background.byte_above _ _ (by omega)] at this
    rw [Background.byte_above _ _ (show Config.initProgress n % 65536 ≤ e.1 / 4 by omega)]
    exact this
  · exact fun e he => h2 e (List.mem_filter.mp he).1
  · intro e he
    obtain ⟨hm, hp⟩ := List.mem_filter.mp he
    have hk := of_decide_eq_true hp
    have := n3 e hm
    rw [Background.condition_above _ _ (by omega)] at this
    rw [Background.condition_above _ _ (show Config.initProgress n % 65536 ≤ e.1 by omega)]
    exact this
  · exact fun e he => h4 e (List.mem_filter.mp he).1

/-! ### The checks at a grant (R11) -/

/-- The guard check passes without a guard or with one that R57 accepts. -/
theorem guardCheck_eq_none (u : LockUnit) (p : Port) (a : StoreAccess) :
    guardCheck u p a = none ↔ ∀ h, a.guard = some h → GuardPasses u p h := by
  unfold guardCheck
  cases hg : a.guard with
  | none => simp
  | some h =>
    by_cases hp : u.guardHolds p h = true
    · have := (u.guardHolds_iff p h).1 hp
      simp [hp, this]
    · have : ¬ GuardPasses u p h := fun hh => hp ((u.guardHolds_iff p h).2 hh)
      simp [hp, this]

/-- The lock check passes when no entry refuses (R53). -/
theorem lockCheck_eq_none (u : LockUnit) (p : Port) (a : StoreAccess) :
    lockCheck u p a = none ↔ ∀ k, ¬EntryRefuses u p (granuleOf a.addr) a.op.isWrite k := by
  unfold lockCheck
  split
  · next h =>
    simp only [true_iff]
    intro k hk
    have := (u.mem_refusers p _ _ k).2 hk
    simp [h] at this
  · next k rest h =>
    simp only [reduceCtorEq, false_iff, not_forall, not_not]
    exact ⟨k, (u.mem_refusers p _ _ k).1 (by simp [h])⟩

end Sys2Proof.Machine
end

