-- ==== Sys2Proof/Laws/State.lean ====
section
/-! SUPPORT. What each update of State does to each field and to each part read through an accessor. -/

namespace Sys2Proof.Machine
/-! ### setLink -/
@[simp] theorem State.setLink_pending (s : State) (p : Port) (lc : LinkController) : (s.setLink p lc).pending = s.pending := rfl
@[simp] theorem State.setLink_seqState (s : State) (p : Port) (lc : LinkController) : (s.setLink p lc).seqState = s.seqState := rfl
@[simp] theorem State.setLink_hrst (s : State) (p : Port) (lc : LinkController) : (s.setLink p lc).hrst = s.hrst := rfl
@[simp] theorem State.setLink_straps (s : State) (p : Port) (lc : LinkController) : (s.setLink p lc).straps = s.straps := rfl
@[simp] theorem State.setLink_settings (s : State) (p : Port) (lc : LinkController) : (s.setLink p lc).settings = s.settings := rfl
@[simp] theorem State.setLink_timebase (s : State) (p : Port) (lc : LinkController) : (s.setLink p lc).timebase = s.timebase := rfl
@[simp] theorem State.setLink_store (s : State) (p : Port) (lc : LinkController) : (s.setLink p lc).store = s.store := rfl
@[simp] theorem State.setLink_poison (s : State) (p : Port) (lc : LinkController) : (s.setLink p lc).poison = s.poison := rfl
@[simp] theorem State.setLink_arbiter (s : State) (p : Port) (lc : LinkController) : (s.setLink p lc).arbiter = s.arbiter := rfl
@[simp] theorem State.setLink_locks (s : State) (p : Port) (lc : LinkController) : (s.setLink p lc).locks = s.locks := rfl
@[simp] theorem State.setLink_channels (s : State) (p : Port) (lc : LinkController) : (s.setLink p lc).channels = s.channels := rfl
@[simp] theorem State.setLink_notices (s : State) (p : Port) (lc : LinkController) : (s.setLink p lc).notices = s.notices := rfl
@[simp] theorem State.setLink_events (s : State) (p : Port) (lc : LinkController) : (s.setLink p lc).events = s.events := rfl
@[simp] theorem State.setLink_announcements (s : State) (p : Port) (lc : LinkController) : (s.setLink p lc).announcements = s.announcements := rfl
@[simp] theorem State.setLink_reports (s : State) (p : Port) (lc : LinkController) : (s.setLink p lc).reports = s.reports := rfl
@[simp] theorem State.setLink_claims (s : State) (p : Port) (lc : LinkController) : (s.setLink p lc).claims = s.claims := rfl
@[simp] theorem State.setLink_portDowns (s : State) (p : Port) (lc : LinkController) : (s.setLink p lc).portDowns = s.portDowns := rfl
@[simp] theorem State.setLink_tx (s : State) (p : Port) (lc : LinkController) : (s.setLink p lc).tx = s.tx := rfl
@[simp] theorem State.setLink_fresh (s : State) (p : Port) (lc : LinkController) : (s.setLink p lc).fresh = s.fresh := rfl
@[simp] theorem State.setLink_chan (s : State) (p : Port) (lc : LinkController) (i : Channel) : (s.setLink p lc).chan i = s.chan i := rfl
@[simp] theorem State.setLink_queue (s : State) (p : Port) (lc : LinkController) (i : Port) : (s.setLink p lc).queue i = s.queue i := rfl
@[simp] theorem State.setLink_claimsOf (s : State) (p : Port) (lc : LinkController) (i : Port) : (s.setLink p lc).claimsOf i = s.claimsOf i := rfl
@[simp] theorem State.setLink_portDown (s : State) (p : Port) (lc : LinkController) (i : Port) : (s.setLink p lc).portDown i = s.portDown i := rfl
@[simp] theorem State.setLink_sentTo (s : State) (p : Port) (lc : LinkController) (i : Port) : (s.setLink p lc).sentTo i = s.sentTo i := rfl
@[simp] theorem State.setLink_waitingAccess (s : State) (p : Port) (lc : LinkController) (i : Channel) : (s.setLink p lc).waitingAccess i = s.waitingAccess i := rfl
@[simp] theorem State.setLink_outcomeOf (s : State) (p : Port) (lc : LinkController) (i : Channel) : (s.setLink p lc).outcomeOf i = s.outcomeOf i := rfl
/-! ### setChan -/
@[simp] theorem State.setChan_pending (s : State) (c : Channel) (ctx : ChannelContext) : (s.setChan c ctx).pending = s.pending := rfl
@[simp] theorem State.setChan_seqState (s : State) (c : Channel) (ctx : ChannelContext) : (s.setChan c ctx).seqState = s.seqState := rfl
@[simp] theorem State.setChan_hrst (s : State) (c : Channel) (ctx : ChannelContext) : (s.setChan c ctx).hrst = s.hrst := rfl
@[simp] theorem State.setChan_straps (s : State) (c : Channel) (ctx : ChannelContext) : (s.setChan c ctx).straps = s.straps := rfl
@[simp] theorem State.setChan_settings (s : State) (c : Channel) (ctx : ChannelContext) : (s.setChan c ctx).settings = s.settings := rfl
@[simp] theorem State.setChan_timebase (s : State) (c : Channel) (ctx : ChannelContext) : (s.setChan c ctx).timebase = s.timebase := rfl
@[simp] theorem State.setChan_store (s : State) (c : Channel) (ctx : ChannelContext) : (s.setChan c ctx).store = s.store := rfl
@[simp] theorem State.setChan_poison (s : State) (c : Channel) (ctx : ChannelContext) : (s.setChan c ctx).poison = s.poison := rfl
@[simp] theorem State.setChan_arbiter (s : State) (c : Channel) (ctx : ChannelContext) : (s.setChan c ctx).arbiter = s.arbiter := rfl
@[simp] theorem State.setChan_locks (s : State) (c : Channel) (ctx : ChannelContext) : (s.setChan c ctx).locks = s.locks := rfl
@[simp] theorem State.setChan_links (s : State) (c : Channel) (ctx : ChannelContext) : (s.setChan c ctx).links = s.links := rfl
@[simp] theorem State.setChan_notices (s : State) (c : Channel) (ctx : ChannelContext) : (s.setChan c ctx).notices = s.notices := rfl
@[simp] theorem State.setChan_events (s : State) (c : Channel) (ctx : ChannelContext) : (s.setChan c ctx).events = s.events := rfl
@[simp] theorem State.setChan_announcements (s : State) (c : Channel) (ctx : ChannelContext) : (s.setChan c ctx).announcements = s.announcements := rfl
@[simp] theorem State.setChan_reports (s : State) (c : Channel) (ctx : ChannelContext) : (s.setChan c ctx).reports = s.reports := rfl
@[simp] theorem State.setChan_claims (s : State) (c : Channel) (ctx : ChannelContext) : (s.setChan c ctx).claims = s.claims := rfl
@[simp] theorem State.setChan_portDowns (s : State) (c : Channel) (ctx : ChannelContext) : (s.setChan c ctx).portDowns = s.portDowns := rfl
@[simp] theorem State.setChan_tx (s : State) (c : Channel) (ctx : ChannelContext) : (s.setChan c ctx).tx = s.tx := rfl
@[simp] theorem State.setChan_fresh (s : State) (c : Channel) (ctx : ChannelContext) : (s.setChan c ctx).fresh = s.fresh := rfl
@[simp] theorem State.setChan_link (s : State) (c : Channel) (ctx : ChannelContext) (i : Port) : (s.setChan c ctx).link i = s.link i := rfl
@[simp] theorem State.setChan_queue (s : State) (c : Channel) (ctx : ChannelContext) (i : Port) : (s.setChan c ctx).queue i = s.queue i := rfl
@[simp] theorem State.setChan_claimsOf (s : State) (c : Channel) (ctx : ChannelContext) (i : Port) : (s.setChan c ctx).claimsOf i = s.claimsOf i := rfl
@[simp] theorem State.setChan_portDown (s : State) (c : Channel) (ctx : ChannelContext) (i : Port) : (s.setChan c ctx).portDown i = s.portDown i := rfl
@[simp] theorem State.setChan_sentTo (s : State) (c : Channel) (ctx : ChannelContext) (i : Port) : (s.setChan c ctx).sentTo i = s.sentTo i := rfl
@[simp] theorem State.setChan_waitingAccess (s : State) (c : Channel) (ctx : ChannelContext) (i : Channel) : (s.setChan c ctx).waitingAccess i = s.waitingAccess i := rfl
@[simp] theorem State.setChan_outcomeOf (s : State) (c : Channel) (ctx : ChannelContext) (i : Channel) : (s.setChan c ctx).outcomeOf i = s.outcomeOf i := rfl
/-! ### setQueue -/
@[simp] theorem State.setQueue_pending (s : State) (p : Port) (q : List NoticeRecord) : (s.setQueue p q).pending = s.pending := rfl
@[simp] theorem State.setQueue_seqState (s : State) (p : Port) (q : List NoticeRecord) : (s.setQueue p q).seqState = s.seqState := rfl
@[simp] theorem State.setQueue_hrst (s : State) (p : Port) (q : List NoticeRecord) : (s.setQueue p q).hrst = s.hrst := rfl
@[simp] theorem State.setQueue_straps (s : State) (p : Port) (q : List NoticeRecord) : (s.setQueue p q).straps = s.straps := rfl
@[simp] theorem State.setQueue_settings (s : State) (p : Port) (q : List NoticeRecord) : (s.setQueue p q).settings = s.settings := rfl
@[simp] theorem State.setQueue_timebase (s : State) (p : Port) (q : List NoticeRecord) : (s.setQueue p q).timebase = s.timebase := rfl
@[simp] theorem State.setQueue_store (s : State) (p : Port) (q : List NoticeRecord) : (s.setQueue p q).store = s.store := rfl
@[simp] theorem State.setQueue_poison (s : State) (p : Port) (q : List NoticeRecord) : (s.setQueue p q).poison = s.poison := rfl
@[simp] theorem State.setQueue_arbiter (s : State) (p : Port) (q : List NoticeRecord) : (s.setQueue p q).arbiter = s.arbiter := rfl
@[simp] theorem State.setQueue_locks (s : State) (p : Port) (q : List NoticeRecord) : (s.setQueue p q).locks = s.locks := rfl
@[simp] theorem State.setQueue_channels (s : State) (p : Port) (q : List NoticeRecord) : (s.setQueue p q).channels = s.channels := rfl
@[simp] theorem State.setQueue_links (s : State) (p : Port) (q : List NoticeRecord) : (s.setQueue p q).links = s.links := rfl
@[simp] theorem State.setQueue_events (s : State) (p : Port) (q : List NoticeRecord) : (s.setQueue p q).events = s.events := rfl
@[simp] theorem State.setQueue_announcements (s : State) (p : Port) (q : List NoticeRecord) : (s.setQueue p q).announcements = s.announcements := rfl
@[simp] theorem State.setQueue_reports (s : State) (p : Port) (q : List NoticeRecord) : (s.setQueue p q).reports = s.reports := rfl
@[simp] theorem State.setQueue_claims (s : State) (p : Port) (q : List NoticeRecord) : (s.setQueue p q).claims = s.claims := rfl
@[simp] theorem State.setQueue_portDowns (s : State) (p : Port) (q : List NoticeRecord) : (s.setQueue p q).portDowns = s.portDowns := rfl
@[simp] theorem State.setQueue_tx (s : State) (p : Port) (q : List NoticeRecord) : (s.setQueue p q).tx = s.tx := rfl
@[simp] theorem State.setQueue_fresh (s : State) (p : Port) (q : List NoticeRecord) : (s.setQueue p q).fresh = s.fresh := rfl
@[simp] theorem State.setQueue_link (s : State) (p : Port) (q : List NoticeRecord) (i : Port) : (s.setQueue p q).link i = s.link i := rfl
@[simp] theorem State.setQueue_chan (s : State) (p : Port) (q : List NoticeRecord) (i : Channel) : (s.setQueue p q).chan i = s.chan i := rfl
@[simp] theorem State.setQueue_claimsOf (s : State) (p : Port) (q : List NoticeRecord) (i : Port) : (s.setQueue p q).claimsOf i = s.claimsOf i := rfl
@[simp] theorem State.setQueue_portDown (s : State) (p : Port) (q : List NoticeRecord) (i : Port) : (s.setQueue p q).portDown i = s.portDown i := rfl
@[simp] theorem State.setQueue_sentTo (s : State) (p : Port) (q : List NoticeRecord) (i : Port) : (s.setQueue p q).sentTo i = s.sentTo i := rfl
@[simp] theorem State.setQueue_waitingAccess (s : State) (p : Port) (q : List NoticeRecord) (i : Channel) : (s.setQueue p q).waitingAccess i = s.waitingAccess i := rfl
@[simp] theorem State.setQueue_outcomeOf (s : State) (p : Port) (q : List NoticeRecord) (i : Channel) : (s.setQueue p q).outcomeOf i = s.outcomeOf i := rfl
/-! ### setClaims -/
@[simp] theorem State.setClaims_pending (s : State) (p : Port) (l : List ChannelClaim) : (s.setClaims p l).pending = s.pending := rfl
@[simp] theorem State.setClaims_seqState (s : State) (p : Port) (l : List ChannelClaim) : (s.setClaims p l).seqState = s.seqState := rfl
@[simp] theorem State.setClaims_hrst (s : State) (p : Port) (l : List ChannelClaim) : (s.setClaims p l).hrst = s.hrst := rfl
@[simp] theorem State.setClaims_straps (s : State) (p : Port) (l : List ChannelClaim) : (s.setClaims p l).straps = s.straps := rfl
@[simp] theorem State.setClaims_settings (s : State) (p : Port) (l : List ChannelClaim) : (s.setClaims p l).settings = s.settings := rfl
@[simp] theorem State.setClaims_timebase (s : State) (p : Port) (l : List ChannelClaim) : (s.setClaims p l).timebase = s.timebase := rfl
@[simp] theorem State.setClaims_store (s : State) (p : Port) (l : List ChannelClaim) : (s.setClaims p l).store = s.store := rfl
@[simp] theorem State.setClaims_poison (s : State) (p : Port) (l : List ChannelClaim) : (s.setClaims p l).poison = s.poison := rfl
@[simp] theorem State.setClaims_arbiter (s : State) (p : Port) (l : List ChannelClaim) : (s.setClaims p l).arbiter = s.arbiter := rfl
@[simp] theorem State.setClaims_locks (s : State) (p : Port) (l : List ChannelClaim) : (s.setClaims p l).locks = s.locks := rfl
@[simp] theorem State.setClaims_channels (s : State) (p : Port) (l : List ChannelClaim) : (s.setClaims p l).channels = s.channels := rfl
@[simp] theorem State.setClaims_links (s : State) (p : Port) (l : List ChannelClaim) : (s.setClaims p l).links = s.links := rfl
@[simp] theorem State.setClaims_notices (s : State) (p : Port) (l : List ChannelClaim) : (s.setClaims p l).notices = s.notices := rfl
@[simp] theorem State.setClaims_events (s : State) (p : Port) (l : List ChannelClaim) : (s.setClaims p l).events = s.events := rfl
@[simp] theorem State.setClaims_announcements (s : State) (p : Port) (l : List ChannelClaim) : (s.setClaims p l).announcements = s.announcements := rfl
@[simp] theorem State.setClaims_reports (s : State) (p : Port) (l : List ChannelClaim) : (s.setClaims p l).reports = s.reports := rfl
@[simp] theorem State.setClaims_portDowns (s : State) (p : Port) (l : List ChannelClaim) : (s.setClaims p l).portDowns = s.portDowns := rfl
@[simp] theorem State.setClaims_tx (s : State) (p : Port) (l : List ChannelClaim) : (s.setClaims p l).tx = s.tx := rfl
@[simp] theorem State.setClaims_fresh (s : State) (p : Port) (l : List ChannelClaim) : (s.setClaims p l).fresh = s.fresh := rfl
@[simp] theorem State.setClaims_link (s : State) (p : Port) (l : List ChannelClaim) (i : Port) : (s.setClaims p l).link i = s.link i := rfl
@[simp] theorem State.setClaims_chan (s : State) (p : Port) (l : List ChannelClaim) (i : Channel) : (s.setClaims p l).chan i = s.chan i := rfl
@[simp] theorem State.setClaims_queue (s : State) (p : Port) (l : List ChannelClaim) (i : Port) : (s.setClaims p l).queue i = s.queue i := rfl
@[simp] theorem State.setClaims_portDown (s : State) (p : Port) (l : List ChannelClaim) (i : Port) : (s.setClaims p l).portDown i = s.portDown i := rfl
@[simp] theorem State.setClaims_sentTo (s : State) (p : Port) (l : List ChannelClaim) (i : Port) : (s.setClaims p l).sentTo i = s.sentTo i := rfl
@[simp] theorem State.setClaims_waitingAccess (s : State) (p : Port) (l : List ChannelClaim) (i : Channel) : (s.setClaims p l).waitingAccess i = s.waitingAccess i := rfl
@[simp] theorem State.setClaims_outcomeOf (s : State) (p : Port) (l : List ChannelClaim) (i : Channel) : (s.setClaims p l).outcomeOf i = s.outcomeOf i := rfl
/-! ### setPortDown -/
@[simp] theorem State.setPortDown_pending (s : State) (p : Port) (d : PortDownClaims) : (s.setPortDown p d).pending = s.pending := rfl
@[simp] theorem State.setPortDown_seqState (s : State) (p : Port) (d : PortDownClaims) : (s.setPortDown p d).seqState = s.seqState := rfl
@[simp] theorem State.setPortDown_hrst (s : State) (p : Port) (d : PortDownClaims) : (s.setPortDown p d).hrst = s.hrst := rfl
@[simp] theorem State.setPortDown_straps (s : State) (p : Port) (d : PortDownClaims) : (s.setPortDown p d).straps = s.straps := rfl
@[simp] theorem State.setPortDown_settings (s : State) (p : Port) (d : PortDownClaims) : (s.setPortDown p d).settings = s.settings := rfl
@[simp] theorem State.setPortDown_timebase (s : State) (p : Port) (d : PortDownClaims) : (s.setPortDown p d).timebase = s.timebase := rfl
@[simp] theorem State.setPortDown_store (s : State) (p : Port) (d : PortDownClaims) : (s.setPortDown p d).store = s.store := rfl
@[simp] theorem State.setPortDown_poison (s : State) (p : Port) (d : PortDownClaims) : (s.setPortDown p d).poison = s.poison := rfl
@[simp] theorem State.setPortDown_arbiter (s : State) (p : Port) (d : PortDownClaims) : (s.setPortDown p d).arbiter = s.arbiter := rfl
@[simp] theorem State.setPortDown_locks (s : State) (p : Port) (d : PortDownClaims) : (s.setPortDown p d).locks = s.locks := rfl
@[simp] theorem State.setPortDown_channels (s : State) (p : Port) (d : PortDownClaims) : (s.setPortDown p d).channels = s.channels := rfl
@[simp] theorem State.setPortDown_links (s : State) (p : Port) (d : PortDownClaims) : (s.setPortDown p d).links = s.links := rfl
@[simp] theorem State.setPortDown_notices (s : State) (p : Port) (d : PortDownClaims) : (s.setPortDown p d).notices = s.notices := rfl
@[simp] theorem State.setPortDown_events (s : State) (p : Port) (d : PortDownClaims) : (s.setPortDown p d).events = s.events := rfl
@[simp] theorem State.setPortDown_announcements (s : State) (p : Port) (d : PortDownClaims) : (s.setPortDown p d).announcements = s.announcements := rfl
@[simp] theorem State.setPortDown_reports (s : State) (p : Port) (d : PortDownClaims) : (s.setPortDown p d).reports = s.reports := rfl
@[simp] theorem State.setPortDown_claims (s : State) (p : Port) (d : PortDownClaims) : (s.setPortDown p d).claims = s.claims := rfl
@[simp] theorem State.setPortDown_tx (s : State) (p : Port) (d : PortDownClaims) : (s.setPortDown p d).tx = s.tx := rfl
@[simp] theorem State.setPortDown_fresh (s : State) (p : Port) (d : PortDownClaims) : (s.setPortDown p d).fresh = s.fresh := rfl
@[simp] theorem State.setPortDown_link (s : State) (p : Port) (d : PortDownClaims) (i : Port) : (s.setPortDown p d).link i = s.link i := rfl
@[simp] theorem State.setPortDown_chan (s : State) (p : Port) (d : PortDownClaims) (i : Channel) : (s.setPortDown p d).chan i = s.chan i := rfl
@[simp] theorem State.setPortDown_queue (s : State) (p : Port) (d : PortDownClaims) (i : Port) : (s.setPortDown p d).queue i = s.queue i := rfl
@[simp] theorem State.setPortDown_claimsOf (s : State) (p : Port) (d : PortDownClaims) (i : Port) : (s.setPortDown p d).claimsOf i = s.claimsOf i := rfl
@[simp] theorem State.setPortDown_sentTo (s : State) (p : Port) (d : PortDownClaims) (i : Port) : (s.setPortDown p d).sentTo i = s.sentTo i := rfl
@[simp] theorem State.setPortDown_waitingAccess (s : State) (p : Port) (d : PortDownClaims) (i : Channel) : (s.setPortDown p d).waitingAccess i = s.waitingAccess i := rfl
@[simp] theorem State.setPortDown_outcomeOf (s : State) (p : Port) (d : PortDownClaims) (i : Channel) : (s.setPortDown p d).outcomeOf i = s.outcomeOf i := rfl
/-! ### setArbiter -/
@[simp] theorem State.setArbiter_pending (s : State) (a : Arbiter) : (s.setArbiter a).pending = s.pending := rfl
@[simp] theorem State.setArbiter_seqState (s : State) (a : Arbiter) : (s.setArbiter a).seqState = s.seqState := rfl
@[simp] theorem State.setArbiter_hrst (s : State) (a : Arbiter) : (s.setArbiter a).hrst = s.hrst := rfl
@[simp] theorem State.setArbiter_straps (s : State) (a : Arbiter) : (s.setArbiter a).straps = s.straps := rfl
@[simp] theorem State.setArbiter_settings (s : State) (a : Arbiter) : (s.setArbiter a).settings = s.settings := rfl
@[simp] theorem State.setArbiter_timebase (s : State) (a : Arbiter) : (s.setArbiter a).timebase = s.timebase := rfl
@[simp] theorem State.setArbiter_store (s : State) (a : Arbiter) : (s.setArbiter a).store = s.store := rfl
@[simp] theorem State.setArbiter_poison (s : State) (a : Arbiter) : (s.setArbiter a).poison = s.poison := rfl
@[simp] theorem State.setArbiter_locks (s : State) (a : Arbiter) : (s.setArbiter a).locks = s.locks := rfl
@[simp] theorem State.setArbiter_channels (s : State) (a : Arbiter) : (s.setArbiter a).channels = s.channels := rfl
@[simp] theorem State.setArbiter_links (s : State) (a : Arbiter) : (s.setArbiter a).links = s.links := rfl
@[simp] theorem State.setArbiter_notices (s : State) (a : Arbiter) : (s.setArbiter a).notices = s.notices := rfl
@[simp] theorem State.setArbiter_events (s : State) (a : Arbiter) : (s.setArbiter a).events = s.events := rfl
@[simp] theorem State.setArbiter_announcements (s : State) (a : Arbiter) : (s.setArbiter a).announcements = s.announcements := rfl
@[simp] theorem State.setArbiter_reports (s : State) (a : Arbiter) : (s.setArbiter a).reports = s.reports := rfl
@[simp] theorem State.setArbiter_claims (s : State) (a : Arbiter) : (s.setArbiter a).claims = s.claims := rfl
@[simp] theorem State.setArbiter_portDowns (s : State) (a : Arbiter) : (s.setArbiter a).portDowns = s.portDowns := rfl
@[simp] theorem State.setArbiter_tx (s : State) (a : Arbiter) : (s.setArbiter a).tx = s.tx := rfl
@[simp] theorem State.setArbiter_fresh (s : State) (a : Arbiter) : (s.setArbiter a).fresh = s.fresh := rfl
@[simp] theorem State.setArbiter_link (s : State) (a : Arbiter) (i : Port) : (s.setArbiter a).link i = s.link i := rfl
@[simp] theorem State.setArbiter_chan (s : State) (a : Arbiter) (i : Channel) : (s.setArbiter a).chan i = s.chan i := rfl
@[simp] theorem State.setArbiter_queue (s : State) (a : Arbiter) (i : Port) : (s.setArbiter a).queue i = s.queue i := rfl
@[simp] theorem State.setArbiter_claimsOf (s : State) (a : Arbiter) (i : Port) : (s.setArbiter a).claimsOf i = s.claimsOf i := rfl
@[simp] theorem State.setArbiter_portDown (s : State) (a : Arbiter) (i : Port) : (s.setArbiter a).portDown i = s.portDown i := rfl
@[simp] theorem State.setArbiter_sentTo (s : State) (a : Arbiter) (i : Port) : (s.setArbiter a).sentTo i = s.sentTo i := rfl
/-! ### setLocks -/
@[simp] theorem State.setLocks_pending (s : State) (u : LockUnit) : (s.setLocks u).pending = s.pending := rfl
@[simp] theorem State.setLocks_seqState (s : State) (u : LockUnit) : (s.setLocks u).seqState = s.seqState := rfl
@[simp] theorem State.setLocks_hrst (s : State) (u : LockUnit) : (s.setLocks u).hrst = s.hrst := rfl
@[simp] theorem State.setLocks_straps (s : State) (u : LockUnit) : (s.setLocks u).straps = s.straps := rfl
@[simp] theorem State.setLocks_settings (s : State) (u : LockUnit) : (s.setLocks u).settings = s.settings := rfl
@[simp] theorem State.setLocks_timebase (s : State) (u : LockUnit) : (s.setLocks u).timebase = s.timebase := rfl
@[simp] theorem State.setLocks_store (s : State) (u : LockUnit) : (s.setLocks u).store = s.store := rfl
@[simp] theorem State.setLocks_poison (s : State) (u : LockUnit) : (s.setLocks u).poison = s.poison := rfl
@[simp] theorem State.setLocks_arbiter (s : State) (u : LockUnit) : (s.setLocks u).arbiter = s.arbiter := rfl
@[simp] theorem State.setLocks_channels (s : State) (u : LockUnit) : (s.setLocks u).channels = s.channels := rfl
@[simp] theorem State.setLocks_links (s : State) (u : LockUnit) : (s.setLocks u).links = s.links := rfl
@[simp] theorem State.setLocks_notices (s : State) (u : LockUnit) : (s.setLocks u).notices = s.notices := rfl
@[simp] theorem State.setLocks_events (s : State) (u : LockUnit) : (s.setLocks u).events = s.events := rfl
@[simp] theorem State.setLocks_announcements (s : State) (u : LockUnit) : (s.setLocks u).announcements = s.announcements := rfl
@[simp] theorem State.setLocks_reports (s : State) (u : LockUnit) : (s.setLocks u).reports = s.reports := rfl
@[simp] theorem State.setLocks_claims (s : State) (u : LockUnit) : (s.setLocks u).claims = s.claims := rfl
@[simp] theorem State.setLocks_portDowns (s : State) (u : LockUnit) : (s.setLocks u).portDowns = s.portDowns := rfl
@[simp] theorem State.setLocks_tx (s : State) (u : LockUnit) : (s.setLocks u).tx = s.tx := rfl
@[simp] theorem State.setLocks_fresh (s : State) (u : LockUnit) : (s.setLocks u).fresh = s.fresh := rfl
@[simp] theorem State.setLocks_link (s : State) (u : LockUnit) (i : Port) : (s.setLocks u).link i = s.link i := rfl
@[simp] theorem State.setLocks_chan (s : State) (u : LockUnit) (i : Channel) : (s.setLocks u).chan i = s.chan i := rfl
@[simp] theorem State.setLocks_queue (s : State) (u : LockUnit) (i : Port) : (s.setLocks u).queue i = s.queue i := rfl
@[simp] theorem State.setLocks_claimsOf (s : State) (u : LockUnit) (i : Port) : (s.setLocks u).claimsOf i = s.claimsOf i := rfl
@[simp] theorem State.setLocks_portDown (s : State) (u : LockUnit) (i : Port) : (s.setLocks u).portDown i = s.portDown i := rfl
@[simp] theorem State.setLocks_sentTo (s : State) (u : LockUnit) (i : Port) : (s.setLocks u).sentTo i = s.sentTo i := rfl
@[simp] theorem State.setLocks_waitingAccess (s : State) (u : LockUnit) (i : Channel) : (s.setLocks u).waitingAccess i = s.waitingAccess i := rfl
@[simp] theorem State.setLocks_outcomeOf (s : State) (u : LockUnit) (i : Channel) : (s.setLocks u).outcomeOf i = s.outcomeOf i := rfl
/-! ### setStore -/
@[simp] theorem State.setStore_pending (s : State) (st : Store) : (s.setStore st).pending = s.pending := rfl
@[simp] theorem State.setStore_seqState (s : State) (st : Store) : (s.setStore st).seqState = s.seqState := rfl
@[simp] theorem State.setStore_hrst (s : State) (st : Store) : (s.setStore st).hrst = s.hrst := rfl
@[simp] theorem State.setStore_straps (s : State) (st : Store) : (s.setStore st).straps = s.straps := rfl
@[simp] theorem State.setStore_settings (s : State) (st : Store) : (s.setStore st).settings = s.settings := rfl
@[simp] theorem State.setStore_timebase (s : State) (st : Store) : (s.setStore st).timebase = s.timebase := rfl
@[simp] theorem State.setStore_poison (s : State) (st : Store) : (s.setStore st).poison = s.poison := rfl
@[simp] theorem State.setStore_arbiter (s : State) (st : Store) : (s.setStore st).arbiter = s.arbiter := rfl
@[simp] theorem State.setStore_locks (s : State) (st : Store) : (s.setStore st).locks = s.locks := rfl
@[simp] theorem State.setStore_channels (s : State) (st : Store) : (s.setStore st).channels = s.channels := rfl
@[simp] theorem State.setStore_links (s : State) (st : Store) : (s.setStore st).links = s.links := rfl
@[simp] theorem State.setStore_notices (s : State) (st : Store) : (s.setStore st).notices = s.notices := rfl
@[simp] theorem State.setStore_events (s : State) (st : Store) : (s.setStore st).events = s.events := rfl
@[simp] theorem State.setStore_announcements (s : State) (st : Store) : (s.setStore st).announcements = s.announcements := rfl
@[simp] theorem State.setStore_reports (s : State) (st : Store) : (s.setStore st).reports = s.reports := rfl
@[simp] theorem State.setStore_claims (s : State) (st : Store) : (s.setStore st).claims = s.claims := rfl
@[simp] theorem State.setStore_portDowns (s : State) (st : Store) : (s.setStore st).portDowns = s.portDowns := rfl
@[simp] theorem State.setStore_tx (s : State) (st : Store) : (s.setStore st).tx = s.tx := rfl
@[simp] theorem State.setStore_fresh (s : State) (st : Store) : (s.setStore st).fresh = s.fresh := rfl
@[simp] theorem State.setStore_link (s : State) (st : Store) (i : Port) : (s.setStore st).link i = s.link i := rfl
@[simp] theorem State.setStore_chan (s : State) (st : Store) (i : Channel) : (s.setStore st).chan i = s.chan i := rfl
@[simp] theorem State.setStore_queue (s : State) (st : Store) (i : Port) : (s.setStore st).queue i = s.queue i := rfl
@[simp] theorem State.setStore_claimsOf (s : State) (st : Store) (i : Port) : (s.setStore st).claimsOf i = s.claimsOf i := rfl
@[simp] theorem State.setStore_portDown (s : State) (st : Store) (i : Port) : (s.setStore st).portDown i = s.portDown i := rfl
@[simp] theorem State.setStore_sentTo (s : State) (st : Store) (i : Port) : (s.setStore st).sentTo i = s.sentTo i := rfl
@[simp] theorem State.setStore_waitingAccess (s : State) (st : Store) (i : Channel) : (s.setStore st).waitingAccess i = s.waitingAccess i := rfl
@[simp] theorem State.setStore_outcomeOf (s : State) (st : Store) (i : Channel) : (s.setStore st).outcomeOf i = s.outcomeOf i := rfl
/-! ### setPoison -/
@[simp] theorem State.setPoison_pending (s : State) (l : List Nat) : (s.setPoison l).pending = s.pending := rfl
@[simp] theorem State.setPoison_seqState (s : State) (l : List Nat) : (s.setPoison l).seqState = s.seqState := rfl
@[simp] theorem State.setPoison_hrst (s : State) (l : List Nat) : (s.setPoison l).hrst = s.hrst := rfl
@[simp] theorem State.setPoison_straps (s : State) (l : List Nat) : (s.setPoison l).straps = s.straps := rfl
@[simp] theorem State.setPoison_settings (s : State) (l : List Nat) : (s.setPoison l).settings = s.settings := rfl
@[simp] theorem State.setPoison_timebase (s : State) (l : List Nat) : (s.setPoison l).timebase = s.timebase := rfl
@[simp] theorem State.setPoison_store (s : State) (l : List Nat) : (s.setPoison l).store = s.store := rfl
@[simp] theorem State.setPoison_arbiter (s : State) (l : List Nat) : (s.setPoison l).arbiter = s.arbiter := rfl
@[simp] theorem State.setPoison_locks (s : State) (l : List Nat) : (s.setPoison l).locks = s.locks := rfl
@[simp] theorem State.setPoison_channels (s : State) (l : List Nat) : (s.setPoison l).channels = s.channels := rfl
@[simp] theorem State.setPoison_links (s : State) (l : List Nat) : (s.setPoison l).links = s.links := rfl
@[simp] theorem State.setPoison_notices (s : State) (l : List Nat) : (s.setPoison l).notices = s.notices := rfl
@[simp] theorem State.setPoison_events (s : State) (l : List Nat) : (s.setPoison l).events = s.events := rfl
@[simp] theorem State.setPoison_announcements (s : State) (l : List Nat) : (s.setPoison l).announcements = s.announcements := rfl
@[simp] theorem State.setPoison_reports (s : State) (l : List Nat) : (s.setPoison l).reports = s.reports := rfl
@[simp] theorem State.setPoison_claims (s : State) (l : List Nat) : (s.setPoison l).claims = s.claims := rfl
@[simp] theorem State.setPoison_portDowns (s : State) (l : List Nat) : (s.setPoison l).portDowns = s.portDowns := rfl
@[simp] theorem State.setPoison_tx (s : State) (l : List Nat) : (s.setPoison l).tx = s.tx := rfl
@[simp] theorem State.setPoison_fresh (s : State) (l : List Nat) : (s.setPoison l).fresh = s.fresh := rfl
@[simp] theorem State.setPoison_link (s : State) (l : List Nat) (i : Port) : (s.setPoison l).link i = s.link i := rfl
@[simp] theorem State.setPoison_chan (s : State) (l : List Nat) (i : Channel) : (s.setPoison l).chan i = s.chan i := rfl
@[simp] theorem State.setPoison_queue (s : State) (l : List Nat) (i : Port) : (s.setPoison l).queue i = s.queue i := rfl
@[simp] theorem State.setPoison_claimsOf (s : State) (l : List Nat) (i : Port) : (s.setPoison l).claimsOf i = s.claimsOf i := rfl
@[simp] theorem State.setPoison_portDown (s : State) (l : List Nat) (i : Port) : (s.setPoison l).portDown i = s.portDown i := rfl
@[simp] theorem State.setPoison_sentTo (s : State) (l : List Nat) (i : Port) : (s.setPoison l).sentTo i = s.sentTo i := rfl
@[simp] theorem State.setPoison_waitingAccess (s : State) (l : List Nat) (i : Channel) : (s.setPoison l).waitingAccess i = s.waitingAccess i := rfl
@[simp] theorem State.setPoison_outcomeOf (s : State) (l : List Nat) (i : Channel) : (s.setPoison l).outcomeOf i = s.outcomeOf i := rfl
/-! ### setSettings -/
@[simp] theorem State.setSettings_pending (s : State) (t : Settings) : (s.setSettings t).pending = s.pending := rfl
@[simp] theorem State.setSettings_seqState (s : State) (t : Settings) : (s.setSettings t).seqState = s.seqState := rfl
@[simp] theorem State.setSettings_hrst (s : State) (t : Settings) : (s.setSettings t).hrst = s.hrst := rfl
@[simp] theorem State.setSettings_straps (s : State) (t : Settings) : (s.setSettings t).straps = s.straps := rfl
@[simp] theorem State.setSettings_timebase (s : State) (t : Settings) : (s.setSettings t).timebase = s.timebase := rfl
@[simp] theorem State.setSettings_store (s : State) (t : Settings) : (s.setSettings t).store = s.store := rfl
@[simp] theorem State.setSettings_poison (s : State) (t : Settings) : (s.setSettings t).poison = s.poison := rfl
@[simp] theorem State.setSettings_arbiter (s : State) (t : Settings) : (s.setSettings t).arbiter = s.arbiter := rfl
@[simp] theorem State.setSettings_locks (s : State) (t : Settings) : (s.setSettings t).locks = s.locks := rfl
@[simp] theorem State.setSettings_channels (s : State) (t : Settings) : (s.setSettings t).channels = s.channels := rfl
@[simp] theorem State.setSettings_links (s : State) (t : Settings) : (s.setSettings t).links = s.links := rfl
@[simp] theorem State.setSettings_notices (s : State) (t : Settings) : (s.setSettings t).notices = s.notices := rfl
@[simp] theorem State.setSettings_events (s : State) (t : Settings) : (s.setSettings t).events = s.events := rfl
@[simp] theorem State.setSettings_announcements (s : State) (t : Settings) : (s.setSettings t).announcements = s.announcements := rfl
@[simp] theorem State.setSettings_reports (s : State) (t : Settings) : (s.setSettings t).reports = s.reports := rfl
@[simp] theorem State.setSettings_claims (s : State) (t : Settings) : (s.setSettings t).claims = s.claims := rfl
@[simp] theorem State.setSettings_portDowns (s : State) (t : Settings) : (s.setSettings t).portDowns = s.portDowns := rfl
@[simp] theorem State.setSettings_tx (s : State) (t : Settings) : (s.setSettings t).tx = s.tx := rfl
@[simp] theorem State.setSettings_fresh (s : State) (t : Settings) : (s.setSettings t).fresh = s.fresh := rfl
@[simp] theorem State.setSettings_link (s : State) (t : Settings) (i : Port) : (s.setSettings t).link i = s.link i := rfl
@[simp] theorem State.setSettings_chan (s : State) (t : Settings) (i : Channel) : (s.setSettings t).chan i = s.chan i := rfl
@[simp] theorem State.setSettings_queue (s : State) (t : Settings) (i : Port) : (s.setSettings t).queue i = s.queue i := rfl
@[simp] theorem State.setSettings_claimsOf (s : State) (t : Settings) (i : Port) : (s.setSettings t).claimsOf i = s.claimsOf i := rfl
@[simp] theorem State.setSettings_portDown (s : State) (t : Settings) (i : Port) : (s.setSettings t).portDown i = s.portDown i := rfl
@[simp] theorem State.setSettings_sentTo (s : State) (t : Settings) (i : Port) : (s.setSettings t).sentTo i = s.sentTo i := rfl
@[simp] theorem State.setSettings_waitingAccess (s : State) (t : Settings) (i : Channel) : (s.setSettings t).waitingAccess i = s.waitingAccess i := rfl
@[simp] theorem State.setSettings_outcomeOf (s : State) (t : Settings) (i : Channel) : (s.setSettings t).outcomeOf i = s.outcomeOf i := rfl
/-! ### send -/
@[simp] theorem State.send_pending (s : State) (p : Port) (pkt : Packet) : (s.send p pkt).pending = s.pending := rfl
@[simp] theorem State.send_seqState (s : State) (p : Port) (pkt : Packet) : (s.send p pkt).seqState = s.seqState := rfl
@[simp] theorem State.send_hrst (s : State) (p : Port) (pkt : Packet) : (s.send p pkt).hrst = s.hrst := rfl
@[simp] theorem State.send_straps (s : State) (p : Port) (pkt : Packet) : (s.send p pkt).straps = s.straps := rfl
@[simp] theorem State.send_settings (s : State) (p : Port) (pkt : Packet) : (s.send p pkt).settings = s.settings := rfl
@[simp] theorem State.send_timebase (s : State) (p : Port) (pkt : Packet) : (s.send p pkt).timebase = s.timebase := rfl
@[simp] theorem State.send_store (s : State) (p : Port) (pkt : Packet) : (s.send p pkt).store = s.store := rfl
@[simp] theorem State.send_poison (s : State) (p : Port) (pkt : Packet) : (s.send p pkt).poison = s.poison := rfl
@[simp] theorem State.send_arbiter (s : State) (p : Port) (pkt : Packet) : (s.send p pkt).arbiter = s.arbiter := rfl
@[simp] theorem State.send_locks (s : State) (p : Port) (pkt : Packet) : (s.send p pkt).locks = s.locks := rfl
@[simp] theorem State.send_channels (s : State) (p : Port) (pkt : Packet) : (s.send p pkt).channels = s.channels := rfl
@[simp] theorem State.send_links (s : State) (p : Port) (pkt : Packet) : (s.send p pkt).links = s.links := rfl
@[simp] theorem State.send_notices (s : State) (p : Port) (pkt : Packet) : (s.send p pkt).notices = s.notices := rfl
@[simp] theorem State.send_events (s : State) (p : Port) (pkt : Packet) : (s.send p pkt).events = s.events := rfl
@[simp] theorem State.send_announcements (s : State) (p : Port) (pkt : Packet) : (s.send p pkt).announcements = s.announcements := rfl
@[simp] theorem State.send_reports (s : State) (p : Port) (pkt : Packet) : (s.send p pkt).reports = s.reports := rfl
@[simp] theorem State.send_claims (s : State) (p : Port) (pkt : Packet) : (s.send p pkt).claims = s.claims := rfl
@[simp] theorem State.send_portDowns (s : State) (p : Port) (pkt : Packet) : (s.send p pkt).portDowns = s.portDowns := rfl
@[simp] theorem State.send_fresh (s : State) (p : Port) (pkt : Packet) : (s.send p pkt).fresh = s.fresh := rfl
@[simp] theorem State.send_link (s : State) (p : Port) (pkt : Packet) (i : Port) : (s.send p pkt).link i = s.link i := rfl
@[simp] theorem State.send_chan (s : State) (p : Port) (pkt : Packet) (i : Channel) : (s.send p pkt).chan i = s.chan i := rfl
@[simp] theorem State.send_queue (s : State) (p : Port) (pkt : Packet) (i : Port) : (s.send p pkt).queue i = s.queue i := rfl
@[simp] theorem State.send_claimsOf (s : State) (p : Port) (pkt : Packet) (i : Port) : (s.send p pkt).claimsOf i = s.claimsOf i := rfl
@[simp] theorem State.send_portDown (s : State) (p : Port) (pkt : Packet) (i : Port) : (s.send p pkt).portDown i = s.portDown i := rfl
@[simp] theorem State.send_waitingAccess (s : State) (p : Port) (pkt : Packet) (i : Channel) : (s.send p pkt).waitingAccess i = s.waitingAccess i := rfl
@[simp] theorem State.send_outcomeOf (s : State) (p : Port) (pkt : Packet) (i : Channel) : (s.send p pkt).outcomeOf i = s.outcomeOf i := rfl
/-! ### hand -/
@[simp] theorem State.hand_pending (s : State) (l : List Handed) : (s.hand l).pending = s.pending := rfl
@[simp] theorem State.hand_seqState (s : State) (l : List Handed) : (s.hand l).seqState = s.seqState := rfl
@[simp] theorem State.hand_hrst (s : State) (l : List Handed) : (s.hand l).hrst = s.hrst := rfl
@[simp] theorem State.hand_straps (s : State) (l : List Handed) : (s.hand l).straps = s.straps := rfl
@[simp] theorem State.hand_settings (s : State) (l : List Handed) : (s.hand l).settings = s.settings := rfl
@[simp] theorem State.hand_timebase (s : State) (l : List Handed) : (s.hand l).timebase = s.timebase := rfl
@[simp] theorem State.hand_store (s : State) (l : List Handed) : (s.hand l).store = s.store := rfl
@[simp] theorem State.hand_poison (s : State) (l : List Handed) : (s.hand l).poison = s.poison := rfl
@[simp] theorem State.hand_arbiter (s : State) (l : List Handed) : (s.hand l).arbiter = s.arbiter := rfl
@[simp] theorem State.hand_locks (s : State) (l : List Handed) : (s.hand l).locks = s.locks := rfl
@[simp] theorem State.hand_channels (s : State) (l : List Handed) : (s.hand l).channels = s.channels := rfl
@[simp] theorem State.hand_links (s : State) (l : List Handed) : (s.hand l).links = s.links := rfl
@[simp] theorem State.hand_notices (s : State) (l : List Handed) : (s.hand l).notices = s.notices := rfl
@[simp] theorem State.hand_announcements (s : State) (l : List Handed) : (s.hand l).announcements = s.announcements := rfl
@[simp] theorem State.hand_reports (s : State) (l : List Handed) : (s.hand l).reports = s.reports := rfl
@[simp] theorem State.hand_claims (s : State) (l : List Handed) : (s.hand l).claims = s.claims := rfl
@[simp] theorem State.hand_portDowns (s : State) (l : List Handed) : (s.hand l).portDowns = s.portDowns := rfl
@[simp] theorem State.hand_tx (s : State) (l : List Handed) : (s.hand l).tx = s.tx := rfl
@[simp] theorem State.hand_fresh (s : State) (l : List Handed) : (s.hand l).fresh = s.fresh := rfl
@[simp] theorem State.hand_link (s : State) (l : List Handed) (i : Port) : (s.hand l).link i = s.link i := rfl
@[simp] theorem State.hand_chan (s : State) (l : List Handed) (i : Channel) : (s.hand l).chan i = s.chan i := rfl
@[simp] theorem State.hand_queue (s : State) (l : List Handed) (i : Port) : (s.hand l).queue i = s.queue i := rfl
@[simp] theorem State.hand_claimsOf (s : State) (l : List Handed) (i : Port) : (s.hand l).claimsOf i = s.claimsOf i := rfl
@[simp] theorem State.hand_portDown (s : State) (l : List Handed) (i : Port) : (s.hand l).portDown i = s.portDown i := rfl
@[simp] theorem State.hand_sentTo (s : State) (l : List Handed) (i : Port) : (s.hand l).sentTo i = s.sentTo i := rfl
@[simp] theorem State.hand_waitingAccess (s : State) (l : List Handed) (i : Channel) : (s.hand l).waitingAccess i = s.waitingAccess i := rfl
@[simp] theorem State.hand_outcomeOf (s : State) (l : List Handed) (i : Channel) : (s.hand l).outcomeOf i = s.outcomeOf i := rfl
/-! ### announce -/
@[simp] theorem State.announce_pending (s : State) (l : List GranuleRange) : (s.announce l).pending = s.pending := rfl
@[simp] theorem State.announce_seqState (s : State) (l : List GranuleRange) : (s.announce l).seqState = s.seqState := rfl
@[simp] theorem State.announce_hrst (s : State) (l : List GranuleRange) : (s.announce l).hrst = s.hrst := rfl
@[simp] theorem State.announce_straps (s : State) (l : List GranuleRange) : (s.announce l).straps = s.straps := rfl
@[simp] theorem State.announce_settings (s : State) (l : List GranuleRange) : (s.announce l).settings = s.settings := rfl
@[simp] theorem State.announce_timebase (s : State) (l : List GranuleRange) : (s.announce l).timebase = s.timebase := rfl
@[simp] theorem State.announce_store (s : State) (l : List GranuleRange) : (s.announce l).store = s.store := rfl
@[simp] theorem State.announce_poison (s : State) (l : List GranuleRange) : (s.announce l).poison = s.poison := rfl
@[simp] theorem State.announce_arbiter (s : State) (l : List GranuleRange) : (s.announce l).arbiter = s.arbiter := rfl
@[simp] theorem State.announce_locks (s : State) (l : List GranuleRange) : (s.announce l).locks = s.locks := rfl
@[simp] theorem State.announce_channels (s : State) (l : List GranuleRange) : (s.announce l).channels = s.channels := rfl
@[simp] theorem State.announce_links (s : State) (l : List GranuleRange) : (s.announce l).links = s.links := rfl
@[simp] theorem State.announce_notices (s : State) (l : List GranuleRange) : (s.announce l).notices = s.notices := rfl
@[simp] theorem State.announce_events (s : State) (l : List GranuleRange) : (s.announce l).events = s.events := rfl
@[simp] theorem State.announce_reports (s : State) (l : List GranuleRange) : (s.announce l).reports = s.reports := rfl
@[simp] theorem State.announce_claims (s : State) (l : List GranuleRange) : (s.announce l).claims = s.claims := rfl
@[simp] theorem State.announce_portDowns (s : State) (l : List GranuleRange) : (s.announce l).portDowns = s.portDowns := rfl
@[simp] theorem State.announce_tx (s : State) (l : List GranuleRange) : (s.announce l).tx = s.tx := rfl
@[simp] theorem State.announce_fresh (s : State) (l : List GranuleRange) : (s.announce l).fresh = s.fresh := rfl
@[simp] theorem State.announce_link (s : State) (l : List GranuleRange) (i : Port) : (s.announce l).link i = s.link i := rfl
@[simp] theorem State.announce_chan (s : State) (l : List GranuleRange) (i : Channel) : (s.announce l).chan i = s.chan i := rfl
@[simp] theorem State.announce_queue (s : State) (l : List GranuleRange) (i : Port) : (s.announce l).queue i = s.queue i := rfl
@[simp] theorem State.announce_claimsOf (s : State) (l : List GranuleRange) (i : Port) : (s.announce l).claimsOf i = s.claimsOf i := rfl
@[simp] theorem State.announce_portDown (s : State) (l : List GranuleRange) (i : Port) : (s.announce l).portDown i = s.portDown i := rfl
@[simp] theorem State.announce_sentTo (s : State) (l : List GranuleRange) (i : Port) : (s.announce l).sentTo i = s.sentTo i := rfl
@[simp] theorem State.announce_waitingAccess (s : State) (l : List GranuleRange) (i : Channel) : (s.announce l).waitingAccess i = s.waitingAccess i := rfl
@[simp] theorem State.announce_outcomeOf (s : State) (l : List GranuleRange) (i : Channel) : (s.announce l).outcomeOf i = s.outcomeOf i := rfl
/-! ### report -/
@[simp] theorem State.report_pending (s : State) (l : List Handle) : (s.report l).pending = s.pending := rfl
@[simp] theorem State.report_seqState (s : State) (l : List Handle) : (s.report l).seqState = s.seqState := rfl
@[simp] theorem State.report_hrst (s : State) (l : List Handle) : (s.report l).hrst = s.hrst := rfl
@[simp] theorem State.report_straps (s : State) (l : List Handle) : (s.report l).straps = s.straps := rfl
@[simp] theorem State.report_settings (s : State) (l : List Handle) : (s.report l).settings = s.settings := rfl
@[simp] theorem State.report_timebase (s : State) (l : List Handle) : (s.report l).timebase = s.timebase := rfl
@[simp] theorem State.report_store (s : State) (l : List Handle) : (s.report l).store = s.store := rfl
@[simp] theorem State.report_poison (s : State) (l : List Handle) : (s.report l).poison = s.poison := rfl
@[simp] theorem State.report_arbiter (s : State) (l : List Handle) : (s.report l).arbiter = s.arbiter := rfl
@[simp] theorem State.report_locks (s : State) (l : List Handle) : (s.report l).locks = s.locks := rfl
@[simp] theorem State.report_channels (s : State) (l : List Handle) : (s.report l).channels = s.channels := rfl
@[simp] theorem State.report_links (s : State) (l : List Handle) : (s.report l).links = s.links := rfl
@[simp] theorem State.report_notices (s : State) (l : List Handle) : (s.report l).notices = s.notices := rfl
@[simp] theorem State.report_events (s : State) (l : List Handle) : (s.report l).events = s.events := rfl
@[simp] theorem State.report_announcements (s : State) (l : List Handle) : (s.report l).announcements = s.announcements := rfl
@[simp] theorem State.report_claims (s : State) (l : List Handle) : (s.report l).claims = s.claims := rfl
@[simp] theorem State.report_portDowns (s : State) (l : List Handle) : (s.report l).portDowns = s.portDowns := rfl
@[simp] theorem State.report_tx (s : State) (l : List Handle) : (s.report l).tx = s.tx := rfl
@[simp] theorem State.report_fresh (s : State) (l : List Handle) : (s.report l).fresh = s.fresh := rfl
@[simp] theorem State.report_link (s : State) (l : List Handle) (i : Port) : (s.report l).link i = s.link i := rfl
@[simp] theorem State.report_chan (s : State) (l : List Handle) (i : Channel) : (s.report l).chan i = s.chan i := rfl
@[simp] theorem State.report_queue (s : State) (l : List Handle) (i : Port) : (s.report l).queue i = s.queue i := rfl
@[simp] theorem State.report_claimsOf (s : State) (l : List Handle) (i : Port) : (s.report l).claimsOf i = s.claimsOf i := rfl
@[simp] theorem State.report_portDown (s : State) (l : List Handle) (i : Port) : (s.report l).portDown i = s.portDown i := rfl
@[simp] theorem State.report_sentTo (s : State) (l : List Handle) (i : Port) : (s.report l).sentTo i = s.sentTo i := rfl
@[simp] theorem State.report_waitingAccess (s : State) (l : List Handle) (i : Channel) : (s.report l).waitingAccess i = s.waitingAccess i := rfl
@[simp] theorem State.report_outcomeOf (s : State) (l : List Handle) (i : Channel) : (s.report l).outcomeOf i = s.outcomeOf i := rfl
/-! ### claim -/
@[simp] theorem State.claim_pending (s : State) (p : Port) (cl : ChannelClaim) : (s.claim p cl).pending = s.pending := rfl
@[simp] theorem State.claim_seqState (s : State) (p : Port) (cl : ChannelClaim) : (s.claim p cl).seqState = s.seqState := rfl
@[simp] theorem State.claim_hrst (s : State) (p : Port) (cl : ChannelClaim) : (s.claim p cl).hrst = s.hrst := rfl
@[simp] theorem State.claim_straps (s : State) (p : Port) (cl : ChannelClaim) : (s.claim p cl).straps = s.straps := rfl
@[simp] theorem State.claim_settings (s : State) (p : Port) (cl : ChannelClaim) : (s.claim p cl).settings = s.settings := rfl
@[simp] theorem State.claim_timebase (s : State) (p : Port) (cl : ChannelClaim) : (s.claim p cl).timebase = s.timebase := rfl
@[simp] theorem State.claim_store (s : State) (p : Port) (cl : ChannelClaim) : (s.claim p cl).store = s.store := rfl
@[simp] theorem State.claim_poison (s : State) (p : Port) (cl : ChannelClaim) : (s.claim p cl).poison = s.poison := rfl
@[simp] theorem State.claim_arbiter (s : State) (p : Port) (cl : ChannelClaim) : (s.claim p cl).arbiter = s.arbiter := rfl
@[simp] theorem State.claim_locks (s : State) (p : Port) (cl : ChannelClaim) : (s.claim p cl).locks = s.locks := rfl
@[simp] theorem State.claim_channels (s : State) (p : Port) (cl : ChannelClaim) : (s.claim p cl).channels = s.channels := rfl
@[simp] theorem State.claim_links (s : State) (p : Port) (cl : ChannelClaim) : (s.claim p cl).links = s.links := rfl
@[simp] theorem State.claim_notices (s : State) (p : Port) (cl : ChannelClaim) : (s.claim p cl).notices = s.notices := rfl
@[simp] theorem State.claim_events (s : State) (p : Port) (cl : ChannelClaim) : (s.claim p cl).events = s.events := rfl
@[simp] theorem State.claim_announcements (s : State) (p : Port) (cl : ChannelClaim) : (s.claim p cl).announcements = s.announcements := rfl
@[simp] theorem State.claim_reports (s : State) (p : Port) (cl : ChannelClaim) : (s.claim p cl).reports = s.reports := rfl
@[simp] theorem State.claim_portDowns (s : State) (p : Port) (cl : ChannelClaim) : (s.claim p cl).portDowns = s.portDowns := rfl
@[simp] theorem State.claim_tx (s : State) (p : Port) (cl : ChannelClaim) : (s.claim p cl).tx = s.tx := rfl
@[simp] theorem State.claim_fresh (s : State) (p : Port) (cl : ChannelClaim) : (s.claim p cl).fresh = s.fresh := rfl
@[simp] theorem State.claim_link (s : State) (p : Port) (cl : ChannelClaim) (i : Port) : (s.claim p cl).link i = s.link i := rfl
@[simp] theorem State.claim_chan (s : State) (p : Port) (cl : ChannelClaim) (i : Channel) : (s.claim p cl).chan i = s.chan i := rfl
@[simp] theorem State.claim_queue (s : State) (p : Port) (cl : ChannelClaim) (i : Port) : (s.claim p cl).queue i = s.queue i := rfl
@[simp] theorem State.claim_portDown (s : State) (p : Port) (cl : ChannelClaim) (i : Port) : (s.claim p cl).portDown i = s.portDown i := rfl
@[simp] theorem State.claim_sentTo (s : State) (p : Port) (cl : ChannelClaim) (i : Port) : (s.claim p cl).sentTo i = s.sentTo i := rfl
@[simp] theorem State.claim_waitingAccess (s : State) (p : Port) (cl : ChannelClaim) (i : Channel) : (s.claim p cl).waitingAccess i = s.waitingAccess i := rfl
@[simp] theorem State.claim_outcomeOf (s : State) (p : Port) (cl : ChannelClaim) (i : Channel) : (s.claim p cl).outcomeOf i = s.outcomeOf i := rfl
/-! ### setWaiting -/
@[simp] theorem State.setWaiting_pending (s : State) (c : Channel) (a : Option ChannelAccess) : (s.setWaiting c a).pending = s.pending := rfl
@[simp] theorem State.setWaiting_seqState (s : State) (c : Channel) (a : Option ChannelAccess) : (s.setWaiting c a).seqState = s.seqState := rfl
@[simp] theorem State.setWaiting_hrst (s : State) (c : Channel) (a : Option ChannelAccess) : (s.setWaiting c a).hrst = s.hrst := rfl
@[simp] theorem State.setWaiting_straps (s : State) (c : Channel) (a : Option ChannelAccess) : (s.setWaiting c a).straps = s.straps := rfl
@[simp] theorem State.setWaiting_settings (s : State) (c : Channel) (a : Option ChannelAccess) : (s.setWaiting c a).settings = s.settings := rfl
@[simp] theorem State.setWaiting_timebase (s : State) (c : Channel) (a : Option ChannelAccess) : (s.setWaiting c a).timebase = s.timebase := rfl
@[simp] theorem State.setWaiting_store (s : State) (c : Channel) (a : Option ChannelAccess) : (s.setWaiting c a).store = s.store := rfl
@[simp] theorem State.setWaiting_poison (s : State) (c : Channel) (a : Option ChannelAccess) : (s.setWaiting c a).poison = s.poison := rfl
@[simp] theorem State.setWaiting_locks (s : State) (c : Channel) (a : Option ChannelAccess) : (s.setWaiting c a).locks = s.locks := rfl
@[simp] theorem State.setWaiting_channels (s : State) (c : Channel) (a : Option ChannelAccess) : (s.setWaiting c a).channels = s.channels := rfl
@[simp] theorem State.setWaiting_links (s : State) (c : Channel) (a : Option ChannelAccess) : (s.setWaiting c a).links = s.links := rfl
@[simp] theorem State.setWaiting_notices (s : State) (c : Channel) (a : Option ChannelAccess) : (s.setWaiting c a).notices = s.notices := rfl
@[simp] theorem State.setWaiting_events (s : State) (c : Channel) (a : Option ChannelAccess) : (s.setWaiting c a).events = s.events := rfl
@[simp] theorem State.setWaiting_announcements (s : State) (c : Channel) (a : Option ChannelAccess) : (s.setWaiting c a).announcements = s.announcements := rfl
@[simp] theorem State.setWaiting_reports (s : State) (c : Channel) (a : Option ChannelAccess) : (s.setWaiting c a).reports = s.reports := rfl
@[simp] theorem State.setWaiting_claims (s : State) (c : Channel) (a : Option ChannelAccess) : (s.setWaiting c a).claims = s.claims := rfl
@[simp] theorem State.setWaiting_portDowns (s : State) (c : Channel) (a : Option ChannelAccess) : (s.setWaiting c a).portDowns = s.portDowns := rfl
@[simp] theorem State.setWaiting_tx (s : State) (c : Channel) (a : Option ChannelAccess) : (s.setWaiting c a).tx = s.tx := rfl
@[simp] theorem State.setWaiting_fresh (s : State) (c : Channel) (a : Option ChannelAccess) : (s.setWaiting c a).fresh = s.fresh := rfl
@[simp] theorem State.setWaiting_link (s : State) (c : Channel) (a : Option ChannelAccess) (i : Port) : (s.setWaiting c a).link i = s.link i := rfl
@[simp] theorem State.setWaiting_chan (s : State) (c : Channel) (a : Option ChannelAccess) (i : Channel) : (s.setWaiting c a).chan i = s.chan i := rfl
@[simp] theorem State.setWaiting_queue (s : State) (c : Channel) (a : Option ChannelAccess) (i : Port) : (s.setWaiting c a).queue i = s.queue i := rfl
@[simp] theorem State.setWaiting_claimsOf (s : State) (c : Channel) (a : Option ChannelAccess) (i : Port) : (s.setWaiting c a).claimsOf i = s.claimsOf i := rfl
@[simp] theorem State.setWaiting_portDown (s : State) (c : Channel) (a : Option ChannelAccess) (i : Port) : (s.setWaiting c a).portDown i = s.portDown i := rfl
@[simp] theorem State.setWaiting_sentTo (s : State) (c : Channel) (a : Option ChannelAccess) (i : Port) : (s.setWaiting c a).sentTo i = s.sentTo i := rfl
/-! ### setOutcome -/
@[simp] theorem State.setOutcome_pending (s : State) (c : Channel) (o : Option (ChannelAccess × AccessOutcome)) : (s.setOutcome c o).pending = s.pending := rfl
@[simp] theorem State.setOutcome_seqState (s : State) (c : Channel) (o : Option (ChannelAccess × AccessOutcome)) : (s.setOutcome c o).seqState = s.seqState := rfl
@[simp] theorem State.setOutcome_hrst (s : State) (c : Channel) (o : Option (ChannelAccess × AccessOutcome)) : (s.setOutcome c o).hrst = s.hrst := rfl
@[simp] theorem State.setOutcome_straps (s : State) (c : Channel) (o : Option (ChannelAccess × AccessOutcome)) : (s.setOutcome c o).straps = s.straps := rfl
@[simp] theorem State.setOutcome_settings (s : State) (c : Channel) (o : Option (ChannelAccess × AccessOutcome)) : (s.setOutcome c o).settings = s.settings := rfl
@[simp] theorem State.setOutcome_timebase (s : State) (c : Channel) (o : Option (ChannelAccess × AccessOutcome)) : (s.setOutcome c o).timebase = s.timebase := rfl
@[simp] theorem State.setOutcome_store (s : State) (c : Channel) (o : Option (ChannelAccess × AccessOutcome)) : (s.setOutcome c o).store = s.store := rfl
@[simp] theorem State.setOutcome_poison (s : State) (c : Channel) (o : Option (ChannelAccess × AccessOutcome)) : (s.setOutcome c o).poison = s.poison := rfl
@[simp] theorem State.setOutcome_locks (s : State) (c : Channel) (o : Option (ChannelAccess × AccessOutcome)) : (s.setOutcome c o).locks = s.locks := rfl
@[simp] theorem State.setOutcome_channels (s : State) (c : Channel) (o : Option (ChannelAccess × AccessOutcome)) : (s.setOutcome c o).channels = s.channels := rfl
@[simp] theorem State.setOutcome_links (s : State) (c : Channel) (o : Option (ChannelAccess × AccessOutcome)) : (s.setOutcome c o).links = s.links := rfl
@[simp] theorem State.setOutcome_notices (s : State) (c : Channel) (o : Option (ChannelAccess × AccessOutcome)) : (s.setOutcome c o).notices = s.notices := rfl
@[simp] theorem State.setOutcome_events (s : State) (c : Channel) (o : Option (ChannelAccess × AccessOutcome)) : (s.setOutcome c o).events = s.events := rfl
@[simp] theorem State.setOutcome_announcements (s : State) (c : Channel) (o : Option (ChannelAccess × AccessOutcome)) : (s.setOutcome c o).announcements = s.announcements := rfl
@[simp] theorem State.setOutcome_reports (s : State) (c : Channel) (o : Option (ChannelAccess × AccessOutcome)) : (s.setOutcome c o).reports = s.reports := rfl
@[simp] theorem State.setOutcome_claims (s : State) (c : Channel) (o : Option (ChannelAccess × AccessOutcome)) : (s.setOutcome c o).claims = s.claims := rfl
@[simp] theorem State.setOutcome_portDowns (s : State) (c : Channel) (o : Option (ChannelAccess × AccessOutcome)) : (s.setOutcome c o).portDowns = s.portDowns := rfl
@[simp] theorem State.setOutcome_tx (s : State) (c : Channel) (o : Option (ChannelAccess × AccessOutcome)) : (s.setOutcome c o).tx = s.tx := rfl
@[simp] theorem State.setOutcome_fresh (s : State) (c : Channel) (o : Option (ChannelAccess × AccessOutcome)) : (s.setOutcome c o).fresh = s.fresh := rfl
@[simp] theorem State.setOutcome_link (s : State) (c : Channel) (o : Option (ChannelAccess × AccessOutcome)) (i : Port) : (s.setOutcome c o).link i = s.link i := rfl
@[simp] theorem State.setOutcome_chan (s : State) (c : Channel) (o : Option (ChannelAccess × AccessOutcome)) (i : Channel) : (s.setOutcome c o).chan i = s.chan i := rfl
@[simp] theorem State.setOutcome_queue (s : State) (c : Channel) (o : Option (ChannelAccess × AccessOutcome)) (i : Port) : (s.setOutcome c o).queue i = s.queue i := rfl
@[simp] theorem State.setOutcome_claimsOf (s : State) (c : Channel) (o : Option (ChannelAccess × AccessOutcome)) (i : Port) : (s.setOutcome c o).claimsOf i = s.claimsOf i := rfl
@[simp] theorem State.setOutcome_portDown (s : State) (c : Channel) (o : Option (ChannelAccess × AccessOutcome)) (i : Port) : (s.setOutcome c o).portDown i = s.portDown i := rfl
@[simp] theorem State.setOutcome_sentTo (s : State) (c : Channel) (o : Option (ChannelAccess × AccessOutcome)) (i : Port) : (s.setOutcome c o).sentTo i = s.sentTo i := rfl
/-! ### The changed part itself -/
@[simp] theorem State.setArbiter_arbiter (s : State) (a : Arbiter) : (s.setArbiter a).arbiter = a := rfl
@[simp] theorem State.setLocks_locks (s : State) (u : LockUnit) : (s.setLocks u).locks = u := rfl
@[simp] theorem State.setStore_store (s : State) (st : Store) : (s.setStore st).store = st := rfl
@[simp] theorem State.setPoison_poison (s : State) (l : List Nat) : (s.setPoison l).poison = l := rfl
@[simp] theorem State.setSettings_settings (s : State) (t : Settings) : (s.setSettings t).settings = t := rfl
@[simp] theorem State.setLink_link_self (s : State) (i : Port) (v : LinkController) : (s.setLink i v).link i = v := by
  simp [State.setLink, State.link]
theorem State.setLink_link_other (s : State) {i j : Port} (v : LinkController) (h : j ≠ i) :
    (s.setLink i v).link j = s.link j := by
  simp only [State.setLink, State.link, Fin.getElem_fin]
  rw [Vector.getElem_set_ne _ _ (fun e => h (Fin.ext e.symm))]
theorem State.setLink_link (s : State) (i j : Port) (v : LinkController) :
    (s.setLink i v).link j = if j = i then v else s.link j := by
  by_cases h : j = i
  · simp [h]
  · rw [if_neg h, State.setLink_link_other s v h]
@[simp] theorem State.setChan_chan_self (s : State) (i : Channel) (v : ChannelContext) : (s.setChan i v).chan i = v := by
  simp [State.setChan, State.chan]
theorem State.setChan_chan_other (s : State) {i j : Channel} (v : ChannelContext) (h : j ≠ i) :
    (s.setChan i v).chan j = s.chan j := by
  simp only [State.setChan, State.chan, Fin.getElem_fin]
  rw [Vector.getElem_set_ne _ _ (fun e => h (Fin.ext e.symm))]
theorem State.setChan_chan (s : State) (i j : Channel) (v : ChannelContext) :
    (s.setChan i v).chan j = if j = i then v else s.chan j := by
  by_cases h : j = i
  · simp [h]
  · rw [if_neg h, State.setChan_chan_other s v h]
@[simp] theorem State.setQueue_queue_self (s : State) (i : Port) (v : List NoticeRecord) : (s.setQueue i v).queue i = v := by
  simp [State.setQueue, State.queue]
theorem State.setQueue_queue_other (s : State) {i j : Port} (v : List NoticeRecord) (h : j ≠ i) :
    (s.setQueue i v).queue j = s.queue j := by
  simp only [State.setQueue, State.queue, Fin.getElem_fin]
  rw [Vector.getElem_set_ne _ _ (fun e => h (Fin.ext e.symm))]
theorem State.setQueue_queue (s : State) (i j : Port) (v : List NoticeRecord) :
    (s.setQueue i v).queue j = if j = i then v else s.queue j := by
  by_cases h : j = i
  · simp [h]
  · rw [if_neg h, State.setQueue_queue_other s v h]
@[simp] theorem State.setClaims_claimsOf_self (s : State) (i : Port) (v : List ChannelClaim) : (s.setClaims i v).claimsOf i = v := by
  simp [State.setClaims, State.claimsOf]
theorem State.setClaims_claimsOf_other (s : State) {i j : Port} (v : List ChannelClaim) (h : j ≠ i) :
    (s.setClaims i v).claimsOf j = s.claimsOf j := by
  simp only [State.setClaims, State.claimsOf, Fin.getElem_fin]
  rw [Vector.getElem_set_ne _ _ (fun e => h (Fin.ext e.symm))]
theorem State.setClaims_claimsOf (s : State) (i j : Port) (v : List ChannelClaim) :
    (s.setClaims i v).claimsOf j = if j = i then v else s.claimsOf j := by
  by_cases h : j = i
  · simp [h]
  · rw [if_neg h, State.setClaims_claimsOf_other s v h]
@[simp] theorem State.setPortDown_portDown_self (s : State) (i : Port) (v : PortDownClaims) : (s.setPortDown i v).portDown i = v := by
  simp [State.setPortDown, State.portDown]
theorem State.setPortDown_portDown_other (s : State) {i j : Port} (v : PortDownClaims) (h : j ≠ i) :
    (s.setPortDown i v).portDown j = s.portDown j := by
  simp only [State.setPortDown, State.portDown, Fin.getElem_fin]
  rw [Vector.getElem_set_ne _ _ (fun e => h (Fin.ext e.symm))]
theorem State.setPortDown_portDown (s : State) (i j : Port) (v : PortDownClaims) :
    (s.setPortDown i v).portDown j = if j = i then v else s.portDown j := by
  by_cases h : j = i
  · simp [h]
  · rw [if_neg h, State.setPortDown_portDown_other s v h]
@[simp] theorem State.setWaiting_waitingAccess_self (s : State) (i : Channel) (v : Option ChannelAccess) : (s.setWaiting i v).waitingAccess i = v := by
  simp [State.setWaiting, State.waitingAccess]
theorem State.setWaiting_waitingAccess_other (s : State) {i j : Channel} (v : Option ChannelAccess) (h : j ≠ i) :
    (s.setWaiting i v).waitingAccess j = s.waitingAccess j := by
  simp only [State.setWaiting, State.waitingAccess, Fin.getElem_fin]
  rw [Vector.getElem_set_ne _ _ (fun e => h (Fin.ext e.symm))]
theorem State.setWaiting_waitingAccess (s : State) (i j : Channel) (v : Option ChannelAccess) :
    (s.setWaiting i v).waitingAccess j = if j = i then v else s.waitingAccess j := by
  by_cases h : j = i
  · simp [h]
  · rw [if_neg h, State.setWaiting_waitingAccess_other s v h]
@[simp] theorem State.setOutcome_outcomeOf_self (s : State) (i : Channel) (v : Option (ChannelAccess × AccessOutcome)) : (s.setOutcome i v).outcomeOf i = v := by
  simp [State.setOutcome, State.outcomeOf]
theorem State.setOutcome_outcomeOf_other (s : State) {i j : Channel} (v : Option (ChannelAccess × AccessOutcome)) (h : j ≠ i) :
    (s.setOutcome i v).outcomeOf j = s.outcomeOf j := by
  simp only [State.setOutcome, State.outcomeOf, Fin.getElem_fin]
  rw [Vector.getElem_set_ne _ _ (fun e => h (Fin.ext e.symm))]
theorem State.setOutcome_outcomeOf (s : State) (i j : Channel) (v : Option (ChannelAccess × AccessOutcome)) :
    (s.setOutcome i v).outcomeOf j = if j = i then v else s.outcomeOf j := by
  by_cases h : j = i
  · simp [h]
  · rw [if_neg h, State.setOutcome_outcomeOf_other s v h]
@[simp] theorem State.send_sentTo_self (s : State) (p : Port) (pkt : Packet) :
    (s.send p pkt).sentTo p = s.sentTo p ++ [pkt] := by
  simp [State.send, State.sentTo]

theorem State.send_sentTo_other (s : State) {p q : Port} (pkt : Packet) (h : q ≠ p) :
    (s.send p pkt).sentTo q = s.sentTo q := by
  simp only [State.send, State.sentTo, Fin.getElem_fin]
  rw [Vector.getElem_set_ne _ _ (fun e => h (Fin.ext e.symm))]

@[simp] theorem State.claim_claimsOf_self (s : State) (p : Port) (cl : ChannelClaim) :
    (s.claim p cl).claimsOf p = s.claimsOf p ++ [cl] := by
  simp [State.claim]

theorem State.claim_claimsOf_other (s : State) {p q : Port} (cl : ChannelClaim) (h : q ≠ p) :
    (s.claim p cl).claimsOf q = s.claimsOf q := by
  simp only [State.claim]
  exact State.setClaims_claimsOf_other s _ h

theorem State.hand_events (s : State) (l : List Handed) :
    (s.hand l).events = if l = [] then s.events else s.events ++ [l] := rfl

@[simp] theorem State.hand_nil (s : State) : s.hand [] = s := rfl

@[simp] theorem State.announce_announcements (s : State) (l : List GranuleRange) :
    (s.announce l).announcements = s.announcements ++ l := rfl

@[simp] theorem State.setLink_twice (s : State) (p : Port) (a b : LinkController) :
    (s.setLink p a).setLink p b = s.setLink p b := by
  simp [State.setLink]

@[simp] theorem State.setChan_twice (s : State) (c : Channel) (a b : ChannelContext) :
    (s.setChan c a).setChan c b = s.setChan c b := by
  simp [State.setChan]

@[simp] theorem State.setLink_same (s : State) (p : Port) : s.setLink p (s.link p) = s := by
  simp [State.setLink, State.link]

@[simp] theorem State.setChan_same (s : State) (c : Channel) : s.setChan c (s.chan c) = s := by
  simp [State.setChan, State.chan]

end Sys2Proof.Machine
end

