-- ==== Sys2Proof/Laws/Channels.lean ====
section
/-! SUPPORT. What the Channel Engine's operations may change: each keeps to EngineOnly; and what they keep of the channels. -/

namespace Sys2Proof.Machine

/-! ### EngineOnly -/

theorem EngineOnly.refl (s : State) : EngineOnly s s := rfl

theorem EngineOnly.trans {s t u : State} (h1 : EngineOnly s t) (h2 : EngineOnly t u) : EngineOnly s u := by
  unfold EngineOnly at *
  rw [h1] at h2
  exact h2

theorem EngineOnly.setChan (s : State) (c : Channel) (ctx : ChannelContext) : EngineOnly s (s.setChan c ctx) := rfl

theorem EngineOnly.setLink (s : State) (p : Port) (lc : LinkController) : EngineOnly s (s.setLink p lc) := rfl

theorem EngineOnly.setWaiting (s : State) (c : Channel) (a : Option ChannelAccess) : EngineOnly s (s.setWaiting c a) := rfl

theorem EngineOnly.setOutcome (s : State) (c : Channel) (o : Option (ChannelAccess × AccessOutcome)) :
    EngineOnly s (s.setOutcome c o) := rfl

theorem EngineOnly.setClaims (s : State) (p : Port) (l : List ChannelClaim) : EngineOnly s (s.setClaims p l) := rfl

theorem EngineOnly.hand (s : State) (l : List Handed) : EngineOnly s (s.hand l) := rfl

/-- An action's events put together are still its events. -/
theorem EngineOnly.asOneAction {s t : State} (h : EngineOnly s t) : EngineOnly s (s.asOneAction t) := by
  unfold EngineOnly State.asOneAction at *
  rw [h]

theorem EngineOnly.answer (s : State) (p : Port) (st : Status) (d : Option Half) (w : List Word) :
    EngineOnly s (s.answer p st d w) := by
  unfold State.answer
  split
  · exact .setLink ..
  · exact .refl s

theorem EngineOnly.handOwner (s : State) (c : Channel) (e : NoticeEvent) : EngineOnly s (s.handOwner c e) := by
  unfold State.handOwner
  split
  · exact .hand ..
  · exact .refl s

theorem EngineOnly.handHub (s : State) (r : HubRequest) : EngineOnly s (s.handHub r) := by
  unfold State.handHub
  split
  · exact .setLink ..
  · exact .refl s

theorem EngineOnly.withdrawHub (s : State) (c : Channel) : EngineOnly s (s.withdrawHub c) := by
  unfold State.withdrawHub
  split
  · exact .setLink ..
  · exact .refl s

theorem EngineOnly.noteSlotGiven (s : State) (r : HubRequest) : EngineOnly s (s.noteSlotGiven r) := by
  unfold State.noteSlotGiven
  split
  · exact .setChan ..
  · exact .refl s

theorem EngineOnly.giveSlotsUpTo (s : State) (p : Port) (n : Nat) : EngineOnly s (s.giveSlotsUpTo p n) := by
  induction n generalizing s with
  | zero => exact .refl s
  | succ n ih =>
    unfold State.giveSlotsUpTo
    split
    · exact ((EngineOnly.setLink ..).trans (.noteSlotGiven ..)).trans (ih _)
    · exact .refl s

theorem EngineOnly.giveSlots (s : State) (p : Port) : EngineOnly s (s.giveSlots p) := .giveSlotsUpTo s p 8

theorem EngineOnly.giveOwnerSlots (s : State) (o : Option Port) : EngineOnly s (s.giveOwnerSlots o) := by
  unfold State.giveOwnerSlots
  split
  · exact .giveSlots ..
  · exact .refl s

theorem EngineOnly.finishAborting (s : State) (c : Channel) : EngineOnly s (s.finishAborting c) := by
  unfold State.finishAborting
  split
  · split
    · exact .setChan ..
    · exact (EngineOnly.setChan ..).trans (.handOwner ..)
  · exact .refl s

theorem EngineOnly.enterAborting (s : State) (c : Channel) (m : EndMode) : EngineOnly s (s.enterAborting c m) := by
  unfold State.enterAborting
  exact (((EngineOnly.setChan ..).trans (.setWaiting ..)).trans (.withdrawHub ..)).trans (.finishAborting ..)

theorem EngineOnly.faultWith (s : State) (c : Channel) (m : EndMode) (code : FaultCode) (i : Nat) (a : Option Nat) :
    EngineOnly s (s.faultWith c m code i a) := (EngineOnly.setChan ..).trans (.enterAborting ..)

theorem EngineOnly.faultRun (s : State) (c : Channel) (code : FaultCode) (i : Nat) (a : Option Nat) :
    EngineOnly s (s.faultRun c code i a) := .faultWith ..

theorem EngineOnly.completeRun (s : State) (c : Channel) : EngineOnly s (s.completeRun c) :=
  (EngineOnly.setChan ..).trans (.handOwner ..)

theorem EngineOnly.createFetch (s : State) (c : Channel) (d : Descriptor) : EngineOnly s (s.createFetch c d) :=
  (EngineOnly.setChan ..).trans (.handHub ..)

theorem EngineOnly.createFetches (s : State) (c : Channel) (d : Descriptor) (n : Nat) :
    EngineOnly s (s.createFetches c d n) := by
  induction n generalizing s with
  | zero => exact .refl s
  | succ n ih =>
    unfold State.createFetches
    split
    · exact (EngineOnly.createFetch ..).trans (ih _)
    · exact .refl s

theorem EngineOnly.presentFirst (s : State) (c : Channel) : EngineOnly s (s.presentFirst c) := by
  unfold State.presentFirst
  split
  · split
    · exact (EngineOnly.setChan ..).trans (.setWaiting ..)
    · exact .refl s
  · exact .refl s

theorem EngineOnly.createRead (s : State) (c : Channel) (d : Descriptor) (f : Option Handle → Chunk → ChannelAccess) :
    EngineOnly s (s.createRead c d f) := (EngineOnly.setChan ..).trans (.setWaiting ..)

theorem EngineOnly.presentNext (s : State) (c : Channel) (d : Descriptor) : EngineOnly s (s.presentNext c d) := by
  unfold State.presentNext
  split
  · exact .presentFirst ..
  · split
    · exact .createRead ..
    · exact .refl s
  · split
    · exact .createRead ..
    · exact .presentFirst ..
  · split
    · exact (EngineOnly.setChan ..).trans (.presentFirst ..)
    · exact .presentFirst ..

theorem EngineOnly.createChunks (s : State) (c : Channel) (d : Descriptor) : EngineOnly s (s.createChunks c d) := by
  unfold State.createChunks
  split
  · split
    · exact .createFetches ..
    · exact .refl s
  all_goals exact .refl s

theorem EngineOnly.work (s : State) (c : Channel) : EngineOnly s (s.work c) := by
  unfold State.work
  split
  · exact .refl s
  · dsimp only
    split
    · exact (EngineOnly.createChunks ..).trans (.presentNext ..)
    · exact .createChunks ..

theorem EngineOnly.handLookahead (s : State) (c : Channel) : EngineOnly s (s.handLookahead c) :=
  (EngineOnly.setChan ..).trans (.handHub ..)

theorem EngineOnly.becomeCurrent (s : State) (c : Channel) (d : Descriptor) (i : Nat) :
    EngineOnly s (s.becomeCurrent c d i) := by
  unfold State.becomeCurrent
  dsimp only
  split
  · exact (EngineOnly.setChan ..).trans (.work ..)
  · split
    · exact (EngineOnly.setChan ..).trans (.faultRun ..)
    · split
      · exact ((EngineOnly.setChan ..).trans (.handLookahead ..)).trans (.work ..)
      · exact ((EngineOnly.setChan ..).trans (.work ..)).trans (.handLookahead ..)

theorem EngineOnly.advance (s : State) (c : Channel) : EngineOnly s (s.advance c) := by
  unfold State.advance
  split
  · exact .becomeCurrent ..
  · exact .faultRun ..
  all_goals exact .refl s

theorem EngineOnly.descriptorDone (s : State) (c : Channel) (d : Descriptor) : EngineOnly s (s.descriptorDone c d) := by
  unfold State.descriptorDone
  dsimp only
  have h : EngineOnly s (if d.notify then s.handOwner c (.channelMark c (s.chan c).index) else s) := by
    split
    · exact .handOwner ..
    · exact .refl s
  split
  · exact h.trans (.completeRun ..)
  · exact h.trans (.advance ..)

theorem EngineOnly.progress (s : State) (c : Channel) : EngineOnly s (s.progress c) := by
  unfold State.progress
  split
  · split
    · exact .descriptorDone ..
    · exact .work ..
  · exact .refl s

theorem EngineOnly.endingInAbort (s : State) (c : Channel) (r : HubRequest) (how : Ending) :
    EngineOnly s (s.endingInAbort c r how) := by
  unfold State.endingInAbort
  split
  · exact (EngineOnly.setChan ..).trans (.finishAborting ..)
  · exact .finishAborting ..

theorem EngineOnly.firstEnding (s : State) (c : Channel) (how : Ending) : EngineOnly s (s.firstEnding c how) := by
  unfold State.firstEnding
  split
  · split
    · exact .becomeCurrent ..
    · exact .faultRun ..
  · exact .faultRun ..
  · exact .faultRun ..
  · exact .refl s

theorem EngineOnly.lookaheadEnding (s : State) (c : Channel) (how : Ending) : EngineOnly s (s.lookaheadEnding c how) := by
  unfold State.lookaheadEnding
  dsimp only
  split
  · exact (EngineOnly.setChan ..).trans (.advance ..)
  · exact .setChan ..

theorem EngineOnly.chunkFetchEnding (s : State) (c : Channel) (st : Nat) (how : Ending) :
    EngineOnly s (s.chunkFetchEnding c st how) := by
  unfold State.chunkFetchEnding
  split
  · exact (EngineOnly.setChan ..).trans (.work ..)
  · exact .faultRun ..
  · exact .faultRun ..
  · exact .refl s

theorem EngineOnly.chunkStoreEnding (s : State) (c : Channel) (st : Nat) (how : Ending) :
    EngineOnly s (s.chunkStoreEnding c st how) := by
  unfold State.chunkStoreEnding
  split
  · exact (EngineOnly.setChan ..).trans (.progress ..)
  · exact .faultRun ..
  · exact .faultRun ..
  · exact .refl s

theorem EngineOnly.activeEnding (s : State) (c : Channel) (r : HubRequest) (how : Ending) :
    EngineOnly s (s.activeEnding c r how) := by
  unfold State.activeEnding
  split
  · split
    · exact .firstEnding ..
    · exact .refl s
  · split
    · exact .lookaheadEnding ..
    · exact .refl s
  · exact .chunkFetchEnding ..
  · exact .chunkStoreEnding ..

theorem EngineOnly.takeEnding (s : State) (r : HubRequest) (how : Ending) : EngineOnly s (s.takeEnding r how) := by
  unfold State.takeEnding
  split
  · exact .endingInAbort ..
  · split
    · exact .activeEnding ..
    · exact .refl s

theorem EngineOnly.chanPortDown (s : State) (loss : Loss) (c : Channel) : EngineOnly s (s.chanPortDown loss c) := by
  unfold State.chanPortDown
  split
  all_goals first
    | exact .refl s
    | exact .faultWith ..
    | exact .setChan ..
    | exact (EngineOnly.setChan ..).trans (.finishAborting ..)

/-- A change made for each of some channels in turn keeps to what each change keeps to. -/
theorem EngineOnly.foldl {f : State → Channel → State} (hf : ∀ s c, EngineOnly s (f s c)) (l : List Channel) (s : State) :
    EngineOnly s (l.foldl f s) := by
  induction l generalizing s with
  | nil => exact .refl s
  | cons c rest ih => exact (hf s c).trans (ih _)

theorem EngineOnly.chansPortDown (s : State) (p : Port) (loss : Loss) : EngineOnly s (s.chansPortDown p loss) :=
  .foldl (fun t c => EngineOnly.chanPortDown t loss c) _ s

theorem EngineOnly.carryClaim (s : State) (p : Port) (cl : ChannelClaim) : EngineOnly s (s.carryClaim p cl) := by
  unfold State.carryClaim
  split
  · exact ((EngineOnly.takeEnding ..).trans (.giveSlots ..)).asOneAction
  · exact (EngineOnly.chansPortDown ..).asOneAction

/-- Taking a Link Controller's claims is the Channel Engine's business alone. -/
theorem EngineOnly.takeClaim (s : State) (p : Port) : EngineOnly s (s.takeClaim p) := by
  unfold State.takeClaim
  split
  · exact (EngineOnly.setClaims ..).trans (.carryClaim ..)
  · exact .refl s

theorem EngineOnly.takeClaims (s : State) (p : Port) (n : Nat) : EngineOnly s (s.takeClaims p n) := by
  induction n generalizing s with
  | zero => exact .refl s
  | succ n ih => exact (EngineOnly.takeClaim s p).trans (ih _)

theorem EngineOnly.stallChannel (s : State) (c : Channel) (a : ChannelAccess) : EngineOnly s (s.stallChannel c a) :=
  EngineOnly.setChan ..

theorem EngineOnly.lockRefusedChannel (s : State) (c : Channel) (a : ChannelAccess) (cls : RefusalClass) :
    EngineOnly s (s.lockRefusedChannel c a cls) := by
  unfold State.lockRefusedChannel
  split
  · exact .faultRun ..
  · split
    · split
      · exact .faultRun ..
      · exact .stallChannel ..
    · exact .refl s

theorem EngineOnly.chunkCarriedOut (s : State) (c : Channel) (a : ChannelAccess) (data : List Word) :
    EngineOnly s (s.chunkCarriedOut c a data) := by
  unfold State.chunkCarriedOut
  split
  · exact (EngineOnly.setChan ..).trans (.progress ..)
  · split
    · split
      · exact ((EngineOnly.setChan ..).trans (.handHub ..)).trans (.work ..)
      · exact (EngineOnly.setChan ..).trans (.work ..)
    · exact .refl s

theorem EngineOnly.activeOutcome (s : State) (c : Channel) (a : ChannelAccess) (o : AccessOutcome) :
    EngineOnly s (s.activeOutcome c a o) := by
  unfold State.activeOutcome
  split
  · exact (EngineOnly.setChan ..).trans (.chunkCarriedOut ..)
  · exact .faultRun ..
  · exact .lockRefusedChannel ..
  · exact .faultRun ..
  · exact .faultRun ..

theorem EngineOnly.outcomeInAbort (s : State) (c : Channel) (a : ChannelAccess) (o : AccessOutcome) :
    EngineOnly s (s.outcomeInAbort c a o) := by
  unfold State.outcomeInAbort
  split
  · split
    · exact (EngineOnly.setChan ..).trans (.finishAborting ..)
    · exact .finishAborting ..
  · exact .finishAborting ..

theorem EngineOnly.takeOutcome (s : State) (c : Channel) (a : ChannelAccess) (o : AccessOutcome) :
    EngineOnly s (s.takeOutcome c a o) := by
  unfold State.takeOutcome
  split
  · exact .activeOutcome ..
  · exact .activeOutcome ..
  · exact .outcomeInAbort ..
  all_goals exact .refl s

theorem EngineOnly.retryStalled (s : State) (r : GranuleRange) (c : Channel) : EngineOnly s (s.retryStalled r c) := by
  unfold State.retryStalled
  split
  · split
    · refine EngineOnly.trans ?_ (.setWaiting ..)
      split
      · exact .setChan ..
      · exact .refl s
    · exact .refl s
  · exact .refl s

/-! ### What an action of the Channel Engine keeps -/

/-- The fields that are not the Channel Engine's to change. -/
theorem EngineOnly.kept {s t : State} (h : EngineOnly s t) :
    t.pending = s.pending ∧ t.seqState = s.seqState ∧ t.hrst = s.hrst ∧ t.straps = s.straps ∧ t.settings = s.settings
      ∧ t.timebase = s.timebase ∧ t.store = s.store ∧ t.poison = s.poison ∧ t.locks = s.locks ∧ t.notices = s.notices
      ∧ t.announcements = s.announcements ∧ t.reports = s.reports ∧ t.portDowns = s.portDowns ∧ t.tx = s.tx
      ∧ t.fresh = s.fresh ∧ t.arbiter.lastPort = s.arbiter.lastPort ∧ t.arbiter.lastMember = s.arbiter.lastMember
      ∧ t.arbiter.turn = s.arbiter.turn ∧ t.arbiter.inProgress = s.arbiter.inProgress := by
  unfold EngineOnly at h
  rw [h]
  exact ⟨rfl, rfl, rfl, rfl, rfl, rfl, rfl, rfl, rfl, rfl, rfl, rfl, rfl, rfl, rfl, rfl, rfl, rfl, rfl⟩

/-- The events waiting before an action stay at the front of those waiting after it. -/
theorem State.asOneAction_events (s t : State) :
    (s.asOneAction t).events = joined s.events (t.events.drop s.events.length).flatten := by
  unfold State.asOneAction joined
  dsimp only
  split <;> simp [*]

/-! ### What a channel presents next (R114) -/

/-- The length of the chunk that begins at a position (R111), as the model cuts it. -/
theorem chunkLen_eq_lengthAt (d : Descriptor) (pos : Nat) : chunkLen d pos = lengthAt d pos := by
  unfold chunkLen lengthAt
  cases d.kind <;> rfl

/-- Step 1 of R114: the first chunk's write, if its data is held, in place of what waited. -/
theorem State.presentFirst_waitingAccess (s : State) (c : Channel) :
    (s.presentFirst c).waitingAccess c = match (s.chan c).chunks with
      | k :: _ => if k.state = .dataHeld then some (writeAccess (s.chan c).guard k) else s.waitingAccess c
      | [] => s.waitingAccess c := by
  unfold State.presentFirst
  cases (s.chan c).chunks with
  | nil => rfl
  | cons k rest => simp only [apply_ite (State.waitingAccess · c), State.setWaiting_waitingAccess_self]

/-- Steps 2 and 3 of R114: the new chunk's read waits. -/
theorem State.createRead_waitingAccess (s : State) (c : Channel) (d : Descriptor)
    (access : Option Handle → Chunk → ChannelAccess) :
    (s.createRead c d access).waitingAccess c = some (access (s.chan c).guard (nextChunk d (s.chan c).position)) := by
  unfold State.createRead
  simp

/-- A channel with no access presented presents what R114 names. -/
theorem State.presentNext_waitingAccess (s : State) (c : Channel) (d : Descriptor) (h : s.waitingAccess c = none) :
    (s.presentNext c d).waitingAccess c
      = accessToPresent d (s.chan c).position (s.chan c).chunks (s.chan c).guard := by
  unfold State.presentNext accessToPresent
  cases hk : d.kind <;> cases hc : (s.chan c).chunks <;>
    simp [apply_ite (State.waitingAccess · c), State.presentFirst_waitingAccess, State.createRead_waitingAccess, hc, h, hk,
      nextChunk, readAccess, sourceAccess, writeAccess, chunkFar, ChannelContext.addChunk, ← chunkLen_eq_lengthAt]

end Sys2Proof.Machine
end

