-- ==== Sys2Proof/Laws/Dispatcher.lean ====
section
/-! SUPPORT. What the dispatcher's operations do: taking the next request and answering. -/

namespace Sys2Proof.Machine

/-- DISPATCH changes the request in service, the inbound queue and the response queue alone. -/
theorem LinkController.dispatch_kept (lc : LinkController) :
    lc.dispatch = { lc with service := lc.dispatch.service, inbound := lc.dispatch.inbound,
                            responses := lc.dispatch.responses } := by
  unfold LinkController.dispatch
  split <;> rfl

/-- A busy dispatcher takes nothing. -/
theorem LinkController.dispatch_busy (lc : LinkController) (h : lc.service.isSome = true) : lc.dispatch = lc := by
  unfold LinkController.dispatch
  split
  · rfl
  · next hn => simp [hn] at h

/-- A request handed to a block is the one in service. -/
theorem State.request_eq_some {s : State} {p : Port} {r : Request} (h : s.request p = some r) :
    ∃ sv, (s.link p).service = some sv ∧ sv.req = r ∧ sv.stage = .handed := by
  unfold State.request at h
  split at h
  · next sv hsv =>
    split at h
    · next hst => exact ⟨sv, hsv, by simpa using h, hst⟩
    · simp at h
  · simp at h

/-- A request in service that is still handed is the one its block sees. -/
theorem State.request_of_service {s : State} {p : Port} {sv : Service} (h : (s.link p).service = some sv)
    (hst : sv.stage = .handed) : s.request p = some sv.req := by
  simp [State.request, h, hst]

/-- An answer changes port p's Link Controller alone. -/
theorem State.answer_frame (s : State) (p : Port) (st : Status) (d : Option Half) (w : List Word) :
    s.answer p st d w = { s with links := (s.answer p st d w).links } := by
  unfold State.answer
  split <;> rfl

/-- Another port's Link Controller stays as it is at an answer. -/
theorem State.answer_link_other (s : State) (p q : Port) (st : Status) (d : Option Half) (w : List Word) (h : q ≠ p) :
    (s.answer p st d w).link q = s.link q := by
  unfold State.answer
  split
  · exact State.setLink_link_other s _ h
  · rfl

/-- An answer to the request in service, given in a state u with the Link Controllers of s: what the statements ask of it. -/
theorem State.answer_answeredAs {s u : State} {p : Port} {sv : Service} (h : (s.link p).service = some sv)
    (hu : u.link p = s.link p) (st : Status) (d : Option Half) (w : List Word) :
    AnsweredAs s (u.answer p st d w) p st d w := by
  refine ⟨sv, h, ?_⟩
  simp [State.answer, h, hu, LinkController.answer, LinkController.dispatch]

/-- An answer touches only the dispatcher of its port, when the Link Controllers are those of s. -/
theorem State.answer_dispatcherOnly {s u : State} {p : Port} (hu : ∀ q, u.link q = s.link q) (st : Status)
    (d : Option Half) (w : List Word) : DispatcherOnly s (u.answer p st d w) p := by
  refine ⟨fun q hq => by rw [State.answer_link_other _ _ _ _ _ _ hq, hu], ?_⟩
  unfold State.answer
  split
  · rw [State.setLink_link_self, hu]
    exact LinkController.dispatch_kept _
  · rw [hu]

/-- An answer alone. -/
theorem State.answer_answeredOnly {s : State} {p : Port} {sv : Service} (h : (s.link p).service = some sv)
    (st : Status) (d : Option Half) (w : List Word) : AnsweredOnly s (s.answer p st d w) p st d w :=
  ⟨State.answer_answeredAs h rfl st d w, State.answer_dispatcherOnly (fun _ => rfl) st d w,
    State.answer_frame s p st d w⟩

end Sys2Proof.Machine
end

