-- ==== Sys2Proof/Laws/Links.lean ====
section
/-! SUPPORT. What the Link Controllers' shared operations do: giving and freeing slots, dropping requests, the port-down and
port-up events. -/

namespace Sys2Proof.Machine

/-! ### Giving slots (R116, R158) -/

/-- Everything a slot given does: on a link that is UP a free slot among those allowed takes the oldest request of a channel, which
becomes the last served. -/
theorem LinkController.giveSlot_eq_some {lc lc' : LinkController} {r : HubRequest} (h : lc.giveSlot = some (lc', r)) :
    lc.link = .up ∧ ∃ (k : HubSlot) (c : Channel) (rest : List HubRequest), k.val < lc.slotsAllowed
      ∧ lc.outstanding k = none ∧ lc.waiting[c] = r :: rest
      ∧ lc' = { lc with slots := lc.slots.set k ⟨(lc.slots[k]).seq, some ⟨r, none⟩⟩, unsent := lc.unsent ++ [k],
                        waiting := lc.waiting.set c rest, lastServed := c } := by
  unfold LinkController.giveSlot at h
  split at h
  · next hup =>
    split at h
    · next k c hk hc =>
      split at h
      · next r' rest hw =>
        simp only [Option.some.injEq, Prod.mk.injEq] at h
        obtain ⟨rfl, rfl⟩ := h
        have hfree := List.find?_some hk
        simp only [Bool.and_eq_true, decide_eq_true_eq, Option.isNone_iff_eq_none] at hfree
        exact ⟨hup, k, c, rest, hfree.1, hfree.2, hw, rfl⟩
      · simp at h
    · simp at h
  · simp at h

/-- No slot is given while the link is not UP. -/
theorem LinkController.giveSlot_of_not_up {lc : LinkController} (h : lc.link ≠ .up) : lc.giveSlot = none := by
  simp [LinkController.giveSlot, h]

theorem State.giveSlots_of_not_up (s : State) (p : Port) (h : (s.link p).link ≠ .up) : s.giveSlots p = s := by
  simp [State.giveSlots, State.giveSlotsUpTo, LinkController.giveSlot_of_not_up h]

/-- A slot given may move a chunk on to STORE_SENT and changes nothing else of a channel. -/
theorem State.noteSlotGiven_chan (s : State) (r : HubRequest) (c : Channel) :
    (s.noteSlotGiven r).chan c = { s.chan c with chunks := ((s.noteSlotGiven r).chan c).chunks } := by
  unfold State.noteSlotGiven
  split
  · by_cases h : c = r.chan
    · subst h
      rw [State.setChan_chan_self]
      rfl
    · rw [State.setChan_chan_other _ _ h]
  · rfl

theorem State.noteSlotGiven_links (s : State) (r : HubRequest) : (s.noteSlotGiven r).links = s.links := by
  unfold State.noteSlotGiven
  split <;> rfl

theorem State.noteSlotGiven_link (s : State) (r : HubRequest) (q : Port) : (s.noteSlotGiven r).link q = s.link q := by
  simp [State.link, State.noteSlotGiven_links]

/-- Giving slots changes no other port's Link Controller. -/
theorem State.giveSlotsUpTo_link_other (s : State) {p q : Port} (n : Nat) (h : q ≠ p) :
    (s.giveSlotsUpTo p n).link q = s.link q := by
  induction n generalizing s with
  | zero => rfl
  | succ n ih =>
    unfold State.giveSlotsUpTo
    split
    · rw [ih, State.noteSlotGiven_link, State.setLink_link_other _ _ h]
    · rfl

/-- Of its own Link Controller it changes the slots, the slots given and not sent, the waiting lists and the last served channel. -/
theorem State.giveSlotsUpTo_link_self (s : State) (p : Port) (n : Nat) :
    (s.giveSlotsUpTo p n).link p = { s.link p with
      slots := ((s.giveSlotsUpTo p n).link p).slots, unsent := ((s.giveSlotsUpTo p n).link p).unsent
      waiting := ((s.giveSlotsUpTo p n).link p).waiting, lastServed := ((s.giveSlotsUpTo p n).link p).lastServed } := by
  induction n generalizing s with
  | zero => rfl
  | succ n ih =>
    unfold State.giveSlotsUpTo
    split
    · next lc r hg =>
      obtain ⟨_, k, c, rest, _, _, _, hlc⟩ := LinkController.giveSlot_eq_some hg
      have h := ih ((s.setLink p lc).noteSlotGiven r)
      rw [State.noteSlotGiven_link, State.setLink_link_self] at h
      rw [h, hlc]
    · rfl

/-- Of a channel it changes the states of chunks alone. -/
theorem State.giveSlotsUpTo_chan (s : State) (p : Port) (n : Nat) (c : Channel) :
    (s.giveSlotsUpTo p n).chan c = { s.chan c with chunks := ((s.giveSlotsUpTo p n).chan c).chunks } := by
  induction n generalizing s with
  | zero => rfl
  | succ n ih =>
    unfold State.giveSlotsUpTo
    split
    · next lc r _ =>
      have h := ih ((s.setLink p lc).noteSlotGiven r)
      rw [h, State.noteSlotGiven_chan]
      rfl
    · rfl

theorem State.giveSlots_link_other (s : State) {p q : Port} (h : q ≠ p) : (s.giveSlots p).link q = s.link q :=
  s.giveSlotsUpTo_link_other 8 h

theorem State.giveSlots_chan (s : State) (p : Port) (c : Channel) :
    (s.giveSlots p).chan c = { s.chan c with chunks := ((s.giveSlots p).chan c).chunks } := s.giveSlotsUpTo_chan p 8 c

/-- What giving slots changes of the state as a whole. -/
theorem State.giveSlots_frame (s : State) (p : Port) :
    s.giveSlots p = { s with links := (s.giveSlots p).links, channels := (s.giveSlots p).channels } := by
  suffices h : ∀ n, s.giveSlotsUpTo p n
      = { s with links := (s.giveSlotsUpTo p n).links, channels := (s.giveSlotsUpTo p n).channels } from h 8
  intro n
  induction n generalizing s with
  | zero => rfl
  | succ n ih =>
    unfold State.giveSlotsUpTo
    split
    · next lc r _ =>
      rw [ih ((s.setLink p lc).noteSlotGiven r)]
      have h : (s.setLink p lc).noteSlotGiven r
          = { s with links := ((s.setLink p lc).noteSlotGiven r).links
                     channels := ((s.setLink p lc).noteSlotGiven r).channels } := by
        unfold State.noteSlotGiven
        split <;> rfl
      rw [h]
    · rfl

/-! ### Giving slots, against SLOT_GIVE (R116, R118) -/

/-- The first element of a list that passes a test, where the list rises by a measure, is the one with the least measure. -/
theorem find?_least {α : Type} {l : List α} {measure : α → Nat} {test : α → Bool} {x : α}
    (hl : l.Pairwise fun a b => measure a < measure b) (hx : l.find? test = some x) :
    ∀ y ∈ l, test y = true → measure x ≤ measure y := by
  obtain ⟨_, before, rest, rfl, hbefore⟩ := List.find?_eq_some_iff_append.mp hx
  intro y hy ht
  rcases List.mem_append.mp hy with h | h
  · have := hbefore y h
    rw [ht] at this
    cases this
  · rcases List.mem_cons.mp h with rfl | h
    · exact Nat.le_refl _
    · exact Nat.le_of_lt ((List.pairwise_cons.mp (List.pairwise_append.mp hl).2.1).1 y h)

/-- The cyclic order after a channel rises by the distance from it. -/
theorem servedDistance_rising : ∀ last : Channel,
    (cyclicAfter allChannels last).Pairwise fun a b => servedDistance last a < servedDistance last b := by decide

theorem mem_cyclicAfter_channels : ∀ last c : Channel, c ∈ cyclicAfter allChannels last := by decide

theorem allHubSlots_rising : allHubSlots.Pairwise fun a b => a.val < b.val := by decide

theorem mem_allHubSlots : ∀ h : HubSlot, h ∈ allHubSlots := by decide

/-- A slot given chooses the lowest-numbered free slot and the first waiting channel after the last served. -/
theorem LinkController.giveSlot_choice {lc lc' : LinkController} {r : HubRequest} (hg : lc.giveSlot = some (lc', r)) :
    lc.link = .up ∧ ∃ (h : HubSlot) (c : Channel) (rest : List HubRequest), h.val < lc.slotsAllowed
      ∧ lc.outstanding h = none ∧ (∀ k < h, lc.outstanding k ≠ none) ∧ lc.waiting[c] = r :: rest
      ∧ (∀ d : Channel, lc.waiting[d] ≠ [] → servedDistance lc.lastServed c ≤ servedDistance lc.lastServed d)
      ∧ lc' = { lc with slots := lc.slots.set h ⟨(lc.slots[h]).seq, some ⟨r, none⟩⟩, unsent := lc.unsent ++ [h],
                        waiting := lc.waiting.set c rest, lastServed := c } := by
  unfold LinkController.giveSlot at hg
  split at hg
  · next hup =>
    split at hg
    · next h c hh hc =>
      split at hg
      · next r' rest hw =>
        simp only [Option.some.injEq, Prod.mk.injEq] at hg
        obtain ⟨rfl, rfl⟩ := hg
        have hfree := List.find?_some hh
        simp only [Bool.and_eq_true, decide_eq_true_eq, Option.isNone_iff_eq_none] at hfree
        refine ⟨hup, h, c, rest, hfree.1, hfree.2, ?_, hw, ?_, rfl⟩
        · intro k hk hn
          have hle := find?_least allHubSlots_rising hh k (mem_allHubSlots k) (by
            have hn' : (lc.slots[k]).held = none := hn
            simp only [hn', Option.isNone_none, Bool.and_true, decide_eq_true_eq]
            exact Nat.lt_trans hk hfree.1)
          exact absurd hle (Nat.not_le.mpr hk)
        · intro d hd
          exact find?_least (servedDistance_rising lc.lastServed) hc d (mem_cyclicAfter_channels _ d) (by
            simpa using hd)
      · simp at hg
    · simp at hg
  · simp at hg

/-- One slot given is SLOT_GIVE once. -/
theorem State.givesOne_of_giveSlot {s : State} {p : Port} {lc : LinkController} {r : HubRequest}
    (hg : (s.link p).giveSlot = some (lc, r)) : GivesOne p s ((s.setLink p lc).noteSlotGiven r) := by
  obtain ⟨hup, h, c, rest, hlt, hfree, hlow, hw, hfirst, hlc⟩ := LinkController.giveSlot_choice hg
  refine ⟨hup, h, c, r, rest, hlt, hfree, hlow, hw, hfirst, ?_, ?_, ?_, ?_, ?_⟩
  · rw [State.noteSlotGiven_link, State.setLink_link_self, hlc]
  · intro q hq
    rw [State.noteSlotGiven_link, State.setLink_link_other _ _ hq]
  · intro d hd
    unfold State.noteSlotGiven
    split
    · next store hop hpu =>
      rw [hop, hpu] at hd
      rcases hd with hd | hd | hd
      · rw [State.setChan_chan_other _ _ hd]
        rfl
      · cases hd
      · cases hd
    · rfl
  · intro st hop hpu
    unfold State.noteSlotGiven
    split
    · next store _ hp =>
      rw [hp] at hpu
      cases hpu
      rw [State.setChan_chan_self]
      rfl
    · next hno =>
      exfalso
      cases hop' : r.op with
      | fetch a n => rw [hop'] at hop; cases hop
      | store a d =>
        cases hp' : r.purpose with
        | first => rw [hp'] at hpu; cases hpu
        | lookahead => rw [hp'] at hpu; cases hpu
        | chunk x => exact hno a d x hop' hp'
  · unfold State.noteSlotGiven
    split <;> rfl

/-- Where no slot can be given, SLOT_GIVE does nothing. -/
theorem State.not_givesOne_of_giveSlot_none {s : State} {p : Port} (hg : (s.link p).giveSlot = none) (t : State) :
    ¬GivesOne p s t := by
  rintro ⟨hup, h, c, r, rest, hlt, hfree, _, hw, _⟩
  have hslot : (s.link p).freeHubSlot.isSome = true := by
    rw [LinkController.freeHubSlot, List.find?_isSome]
    have hfree' : ((s.link p).slots[h]).held = none := hfree
    exact ⟨h, mem_allHubSlots h, by
      simp only [hlt, decide_true, Bool.true_and]
      exact Option.isNone_iff_eq_none.mpr hfree'⟩
  have hchan : (s.link p).nextServed.isSome = true := by
    rw [LinkController.nextServed, List.find?_isSome]
    exact ⟨c, mem_cyclicAfter_channels _ c, by simp [hw]⟩
  obtain ⟨k, hk⟩ := Option.isSome_iff_exists.mp hslot
  obtain ⟨d, hd⟩ := Option.isSome_iff_exists.mp hchan
  have hne := List.find?_some hd
  simp only [LinkController.giveSlot, hup, hk, hd, if_true] at hg
  split at hg
  · simp at hg
  · next hnil => simp [hnil] at hne

/-- The free slots of a Link Controller. -/
def LinkController.freeSlots (lc : LinkController) : Finset HubSlot := Finset.univ.filter fun h => lc.outstanding h = none

theorem LinkController.freeSlots_giveSlot {lc lc' : LinkController} {r : HubRequest} (hg : lc.giveSlot = some (lc', r)) :
    lc'.freeSlots.card < lc.freeSlots.card := by
  obtain ⟨_, h, c, rest, _, hfree, _, rfl⟩ := LinkController.giveSlot_eq_some hg
  refine Finset.card_lt_card (Finset.ssubset_iff_subset_ne.mpr ⟨?_, ?_⟩)
  · intro k hk
    simp only [LinkController.freeSlots, Finset.mem_filter, Finset.mem_univ, true_and] at hk ⊢
    by_cases hkh : k = h
    · rw [hkh]; exact hfree
    · simpa [LinkController.outstanding, Vector.getElem_set_ne, Fin.val_ne_of_ne (Ne.symm hkh)] using hk
  · intro heq
    have hmem : h ∈ lc.freeSlots := by simp [LinkController.freeSlots, hfree]
    rw [← heq] at hmem
    have hnone := (Finset.mem_filter.mp hmem).2
    simp [LinkController.outstanding] at hnone

/-- As many turns as there are free slots are SLOT_GIVE repeated. -/
theorem State.giveSlotsUpTo_slotsGiven (s : State) (p : Port) (n : Nat) (hn : (s.link p).freeSlots.card ≤ n) :
    SlotsGiven p s (s.giveSlotsUpTo p n) := by
  induction n generalizing s with
  | zero =>
    refine ⟨.refl, fun t ⟨_, h, _, _, _, _, hfree, _⟩ => ?_⟩
    have hempty := Finset.card_eq_zero.mp (Nat.le_zero.mp hn)
    have hmem : h ∈ (s.link p).freeSlots := Finset.mem_filter.mpr ⟨Finset.mem_univ h, hfree⟩
    rw [hempty] at hmem
    exact absurd hmem (Finset.notMem_empty h)
  | succ n ih =>
    unfold State.giveSlotsUpTo
    split
    · next lc r hg =>
      have hlt := LinkController.freeSlots_giveSlot hg
      have hrest := ih ((s.setLink p lc).noteSlotGiven r) (by
        rw [State.noteSlotGiven_link, State.setLink_link_self]
        omega)
      exact ⟨Relation.ReflTransGen.head (State.givesOne_of_giveSlot hg) hrest.1, hrest.2⟩
    · next hg => exact ⟨.refl, fun t => State.not_givesOne_of_giveSlot_none hg t⟩

/-- Giving slots is SLOT_GIVE repeated while free slots and waiting requests remain (R116). -/
theorem State.giveSlots_slotsGiven (s : State) (p : Port) : SlotsGiven p s (s.giveSlots p) :=
  s.giveSlotsUpTo_slotsGiven p 8 (Finset.card_le_univ _)

/-! ### Freeing slots (R158) -/

/-- A freed slot holds nothing and its sequence has advanced. -/
@[simp] theorem LinkController.slot_freeSlotOf_self (lc : LinkController) (h : HubSlot) :
    (lc.freeSlotOf h).slots[h] = ⟨(lc.slots[h]).seq + 1, none⟩ := by
  simp [LinkController.freeSlotOf]

theorem LinkController.slot_freeSlotOf_other (lc : LinkController) {h k : HubSlot} (hk : k ≠ h) :
    (lc.freeSlotOf h).slots[k] = lc.slots[k] := by
  simp [LinkController.freeSlotOf, Vector.getElem_set_ne, Fin.val_ne_of_ne hk.symm]

/-! ### The port-down event (R163) -/

/-- A dropped slot changes the Link Controllers and the claims alone. -/
theorem State.dropSlot_frame (s : State) (p : Port) (h : HubSlot) :
    s.dropSlot p h = { s with links := (s.dropSlot p h).links, claims := (s.dropSlot p h).claims } := by
  unfold State.dropSlot
  split <;> rfl

/-- Two changes of the Link Controllers and the claims, one after the other. -/
theorem State.linksAndClaims_trans {s t u : State} (h1 : t = { s with links := t.links, claims := t.claims })
    (h2 : u = { t with links := u.links, claims := u.claims }) : u = { s with links := u.links, claims := u.claims } := by
  rw [h1] at h2
  exact h2

theorem State.foldl_dropSlot_frame (l : List HubSlot) (p : Port) (t : State) :
    l.foldl (fun u k => u.dropSlot p k) t = { t with links := (l.foldl (fun u k => u.dropSlot p k) t).links
                                                     claims := (l.foldl (fun u k => u.dropSlot p k) t).claims } := by
  induction l generalizing t with
  | nil => rfl
  | cons k rest ih => exact State.linksAndClaims_trans (State.dropSlot_frame t p k) (ih (t.dropSlot p k))

/-- The drops of step 5 change the Link Controllers and the claims alone. -/
theorem State.dropAll_frame (s : State) (p : Port) :
    s.dropAll p = { s with links := (s.dropAll p).links, claims := (s.dropAll p).claims } := by
  have h := State.foldl_dropSlot_frame allHubSlots p s
  unfold State.dropAll
  dsimp only
  generalize allHubSlots.foldl (fun u k => u.dropSlot p k) s = t at h
  exact State.linksAndClaims_trans h rfl

/-- After the drops nothing waits for a slot and nothing waits to be sent. -/
theorem State.dropAll_lists (s : State) (p : Port) :
    ((s.dropAll p).link p).unsent = [] ∧ ∀ c : Channel, ((s.dropAll p).link p).waiting[c] = [] := by
  refine ⟨?_, fun c => ?_⟩ <;> simp [State.dropAll]

/-- A port-down event changes the Link Controllers, the claims and port-down events handed, and the events. -/
theorem State.portDownEvent_frame (s : State) (p : Port) (dest : LinkState) (cause : DownCause) (loss : Loss) :
    s.portDownEvent p dest cause loss
      = { s with links := (s.portDownEvent p dest cause loss).links
                 claims := (s.portDownEvent p dest cause loss).claims
                 portDowns := (s.portDownEvent p dest cause loss).portDowns
                 events := (s.portDownEvent p dest cause loss).events } := by
  have h := State.dropAll_frame (s.setLink p ((s.link p).lose dest cause)) p
  unfold State.portDownEvent
  generalize (s.setLink p ((s.link p).lose dest cause)).dropAll p = t at h
  rw [h]
  rfl

/-! ### The port-up event (R165) -/

/-- A port that left no claim untaken has nothing to settle. -/
theorem State.settlePort_of_nothing (s : State) (p : Port) (hd : s.portDown p = PortDownClaims.none)
    (hc : s.claimsOf p = []) : s.settlePort p = s := by
  have h1 : s.takeLockPortDown p = s := by simp [State.takeLockPortDown, hd, PortDownClaims.none]
  have h2 : s.takeArbiterPortDown p = s := by simp [State.takeArbiterPortDown, hd, PortDownClaims.none]
  have h3 : s.takeNoticePortDown p = s := by simp [State.takeNoticePortDown, hd, PortDownClaims.none]
  simp [State.settlePort, h1, h2, h3, hc, State.takeClaims]

end Sys2Proof.Machine
end

