-- ==== Sys2Proof/Laws/Notices.lean ====
section
/-! SUPPORT. What the operations on a notice queue do. -/

namespace Sys2Proof.Machine

/-- A record is PENDING exactly when it has no sequence number. -/
theorem NoticeRecord.isPending_iff (r : NoticeRecord) : r.isPending = true ↔ r.sent = none := by
  simp [NoticeRecord.isPending]

/-- A record is PENDING on a subject. -/
theorem NoticeRecord.pendingOn_iff (r : NoticeRecord) (j : Subject) :
    r.pendingOn j = true ↔ r.sent = none ∧ r.event.subject = j := by
  simp [NoticeRecord.pendingOn, NoticeRecord.isPending]

/-- The subjects of the PENDING records. -/
theorem mem_pendingSubjects (q : List NoticeRecord) (j : Subject) :
    j ∈ pendingSubjects q ↔ ∃ r ∈ q, r.pendingOn j = true := by
  simp [pendingSubjects, NoticeRecord.pendingOn, and_assoc]

/-- An event for a subject without a PENDING record joins the tail. -/
theorem placeEvent_new (q : List NoticeRecord) (e : NoticeEvent) (h : e.subject ∉ pendingSubjects q) :
    placeEvent q e = q ++ [⟨e, 1, none⟩] := by
  have : ¬ q.any (fun r => r.pendingOn e.subject) = true := by
    rw [List.any_eq_true, ← mem_pendingSubjects]
    exact h
  simp [placeEvent, this]

/-- An event for a subject with a PENDING record changes the records of that subject where they stand. -/
theorem placeEvent_merge (q : List NoticeRecord) (e : NoticeEvent) (h : e.subject ∈ pendingSubjects q) :
    placeEvent q e = q.map fun r => if r.pendingOn e.subject then r.merge e else r := by
  have : q.any (fun r => r.pendingOn e.subject) = true := by
    rw [List.any_eq_true, ← mem_pendingSubjects]
    exact h
  simp [placeEvent, this]

/-- A merge keeps the record PENDING. -/
@[simp] theorem NoticeRecord.merge_sent (r : NoticeRecord) (e : NoticeEvent) : (r.merge e).sent = r.sent := rfl

@[simp] theorem NoticeRecord.merge_event (r : NoticeRecord) (e : NoticeEvent) : (r.merge e).event = e := rfl

@[simp] theorem NoticeRecord.merge_occurrences (r : NoticeRecord) (e : NoticeEvent) :
    (r.merge e).occurrences = min 255 (r.occurrences + 1) := rfl

/-- The first PENDING record behind SENT ones takes the sequence number (R139). -/
theorem markSent_eq (seq : Byte) (front : List NoticeRecord) (r : NoticeRecord) (rest : List NoticeRecord)
    (hf : ∀ x ∈ front, x.isPending = false) (hr : r.isPending = true) :
    markSent seq (front ++ r :: rest) = front ++ { r with sent := some seq } :: rest := by
  induction front with
  | nil => simp [markSent, hr]
  | cons x xs ih =>
    have hx : x.isPending = false := hf x List.mem_cons_self
    have := ih fun y hy => hf y (List.mem_cons_of_mem x hy)
    simp [markSent, hx, this]

/-- The notice offered is the first PENDING record, while fewer than 4 are SENT (R139). -/
theorem offered_eq (q front : List NoticeRecord) (r : NoticeRecord) (rest : List NoticeRecord)
    (hq : q = front ++ r :: rest) (hf : ∀ x ∈ front, x.isPending = false) (hr : r.isPending = true)
    (hc : sentCount q < 4) : offered q = some r := by
  subst hq
  rw [offered, if_pos hc, List.find?_append,
    List.find?_eq_none.mpr fun x hx => by simp [hf x hx]]
  simp [hr]

/-- NOTICE_ACK of a number that no SENT record carries (R141). -/
theorem acknowledge_none (seq : Byte) (q : List NoticeRecord) (h : ∀ x ∈ q, x.sent ≠ some seq) :
    acknowledge seq q = none := by
  have : ¬ q.any (fun r => decide (r.sent = some seq)) = true := by
    simpa using h
  simp [acknowledge, this]

/-- NOTICE_ACK of the number of a SENT record: it and those before it go (R141). -/
theorem acknowledge_some (seq : Byte) (front : List NoticeRecord) (r : NoticeRecord) (rest : List NoticeRecord)
    (hf : ∀ x ∈ front, x.sent ≠ some seq) (hr : r.sent = some seq) :
    acknowledge seq (front ++ r :: rest) = some rest := by
  have h1 : (front ++ r :: rest).any (fun x => decide (x.sent = some seq)) = true := by
    simp [hr]
  have h2 : (front ++ r :: rest).dropWhile (fun x => decide (x.sent ≠ some seq)) = r :: rest := by
    rw [List.dropWhile_append_of_pos fun x hx => by simpa using hf x hx]
    simp [hr]
  rw [acknowledge, if_pos h1, h2]
  rfl

/-- The returned records are PENDING. -/
theorem returnSent_sent (back : List NoticeRecord) (r : NoticeRecord) (h : ∀ b ∈ back, b.sent = none) :
    ∀ b ∈ returnSent back r, b.sent = none := by
  unfold returnSent
  split
  · intro b hb
    obtain ⟨c, hc, rfl⟩ := List.mem_map.mp hb
    split
    · rfl
    · exact h c hc
  · intro b hb
    rcases List.mem_append.mp hb with hb | hb
    · exact h b hb
    · simp only [List.mem_singleton] at hb
      rw [hb]

theorem foldl_returnSent_sent (l back : List NoticeRecord) (h : ∀ b ∈ back, b.sent = none) :
    ∀ b ∈ l.foldl returnSent back, b.sent = none := by
  induction l generalizing back with
  | nil => exact h
  | cons r rest ih => exact ih _ (returnSent_sent back r h)

/-- A joined record has the returned one's subject. -/
theorem joinPending_subject (pending : List NoticeRecord) (b : NoticeRecord) :
    (joinPending pending b).event.subject = b.event.subject := by
  unfold joinPending
  split
  · next r hr => simpa using List.find?_some hr
  · rfl

/-- After a rewind the queue holds no SENT record (R142). -/
theorem rewind_sent (q : List NoticeRecord) : ∀ r ∈ rewind q, r.sent = none := by
  intro r hr
  unfold rewind at hr
  rcases List.mem_append.mp hr with hr | hr
  · obtain ⟨b, hb, rfl⟩ := List.mem_map.mp hr
    unfold joinPending
    split
    · rfl
    · exact foldl_returnSent_sent _ _ (by simp) b hb
  · have := (List.mem_filter.mp (List.mem_filter.mp hr).1).2
    exact (NoticeRecord.isPending_iff r).mp this

end Sys2Proof.Machine
end

