-- ==== Sys2Proof/WellFormed.lean ====
section
/-! DEFINITION. Which commands are events that can come to the hub at all: the checks on a command's operands
that its types do not make. -/

namespace Sys2Proof

/-- A packet's payload length field is one byte (Table 10.1). -/
def Packet.wellFormed (pkt : Packet) : Bool := decide (pkt.payload.length ≤ 255)

/-- A disturbance never leaves a word clean (R1). -/
def Condition.isDisturbed : Condition → Bool
  | .clean => false
  | .singleBit => true
  | .uncorrectable => true

/-- The payload words a command brings in from outside. -/
def Instr.payloadWords : Instr → List Word
  | .requestReceived _ pkt => pkt.payload
  | .fetchReply _ _ payload => payload
  | .storeReply _ _ payload => payload
  | _ => []

/-- The condition that a command disturbs a word to, for a disturbance. -/
def Instr.disturbsTo : Instr → Option Condition
  | .bitDisturbance _ c => some c
  | _ => none

/-- The check of a command's operands. -/
def Instr.wellFormed : Instr → Bool
  | .requestReceived _ pkt => pkt.wellFormed
  | .fetchReply _ _ payload => decide (payload.length ≤ 255)
  | .storeReply _ _ payload => decide (payload.length ≤ 255)
  | .bitDisturbance _ c => c.isDisturbed
  | _ => true

end Sys2Proof
end

