-- ==== Sys2Proof/Laws/PerInstr.lean ====
section
/-! SUPPORT. What well-formedness says of each command: the per-instruction family WellFormedness. -/

namespace Sys2Proof.Laws.WellFormedness

/-- A command is well-formed when the payload it brings in has at most 255 words and it disturbs no word to clean. -/
def Statement (i : Instr) : Prop :=
  i.wellFormed = true ↔ i.payloadWords.length ≤ 255 ∧ i.disturbsTo ≠ some .clean

/-- A command without payload that is no disturbance is well-formed. -/
theorem plain : true = true ↔ ([] : List Word).length ≤ 255 ∧ (none : Option Condition) ≠ some .clean := by simp

/-- A command with a payload is well-formed when its length fits the length field. -/
theorem withPayload (l : List Word) :
    decide (l.length ≤ 255) = true ↔ l.length ≤ 255 ∧ (none : Option Condition) ≠ some .clean := by simp

/-- A disturbance is well-formed when it does not bring a word to clean. -/
theorem ofDisturbance (c : Condition) :
    c.isDisturbed = true ↔ ([] : List Word).length ≤ 255 ∧ some c ≠ some .clean := by
  cases c <;> simp [Condition.isDisturbed]

theorem pwrokFall : Statement .pwrokFall := plain
theorem pwrokRise : Statement .pwrokRise := plain
theorem initComplete : Statement .initComplete := plain
theorem hrstAssert : Statement .hrstAssert := plain
theorem hrstRelease : Statement .hrstRelease := plain
theorem supselChange (straps : Port) : Statement (.supselChange straps) := plain
theorem prstnAssert (p : Port) : Statement (.prstnAssert p) := plain
theorem prstnRelease (p : Port) : Statement (.prstnRelease p) := plain
theorem bitDisturbance (w : BitVec 16) (c : Condition) : Statement (.bitDisturbance w c) := ofDisturbance c
theorem timebaseBoundary : Statement .timebaseBoundary := plain
theorem leaseExpiry (k : LockSlot) : Statement (.leaseExpiry k) := plain
theorem waitExpiry (k : LockSlot) : Statement (.waitExpiry k) := plain
theorem orphanExpiry (k : LockSlot) : Statement (.orphanExpiry k) := plain
theorem stallExpiry (c : Channel) : Statement (.stallExpiry c) := plain
theorem trainWindowExpiry (p : Port) : Statement (.trainWindowExpiry p) := plain
theorem slotTimeout (p : Port) (h : HubSlot) : Statement (.slotTimeout p h) := plain
theorem hello (p : Port) : Statement (.hello p) := plain
theorem ready (p : Port) (word : Word) : Statement (.ready p word) := plain
theorem lossOfSignal (p : Port) : Statement (.lossOfSignal p) := plain
theorem badCheckPacket (p : Port) : Statement (.badCheckPacket p) := plain
theorem requestReceived (p : Port) (pkt : Packet) : Statement (.requestReceived p pkt) := withPayload pkt.payload
theorem fetchReply (p : Port) (tag : Byte) (payload : List Word) : Statement (.fetchReply p tag payload) := withPayload payload
theorem storeReply (p : Port) (tag : Byte) (payload : List Word) : Statement (.storeReply p tag payload) := withPayload payload
theorem responseSent (p : Port) : Statement (.responseSent p) := plain
theorem noticeSent (p : Port) : Statement (.noticeSent p) := plain
theorem hubRequestSent (p : Port) : Statement (.hubRequestSent p) := plain
theorem read (p : Port) : Statement (.read p) := plain
theorem write (p : Port) : Statement (.write p) := plain
theorem fetchAdd (p : Port) : Statement (.fetchAdd p) := plain
theorem swap (p : Port) : Statement (.swap p) := plain
theorem compareSwap (p : Port) : Statement (.compareSwap p) := plain
theorem arbiterGrant : Statement .arbiterGrant := plain
theorem accessComplete : Statement .accessComplete := plain
theorem leaseRestartReport : Statement .leaseRestartReport := plain
theorem lock (p : Port) : Statement (.lock p) := plain
theorem unlock (p : Port) : Statement (.unlock p) := plain
theorem renew (p : Port) : Statement (.renew p) := plain
theorem adopt (p : Port) : Statement (.adopt p) := plain
theorem reclaim (p : Port) : Statement (.reclaim p) := plain
theorem forceRelease (p : Port) : Statement (.forceRelease p) := plain
theorem lockQuery (p : Port) : Statement (.lockQuery p) := plain
theorem lockPortDown (p : Port) : Statement (.lockPortDown p) := plain
theorem arbiterPortDown (p : Port) : Statement (.arbiterPortDown p) := plain
theorem channelStart (p : Port) : Statement (.channelStart p) := plain
theorem channelStop (p : Port) : Statement (.channelStop p) := plain
theorem channelRelease (p : Port) : Statement (.channelRelease p) := plain
theorem channelQuery (p : Port) : Statement (.channelQuery p) := plain
theorem descriptorReply (p : Port) : Statement (.descriptorReply p) := plain
theorem lookaheadReply (p : Port) : Statement (.lookaheadReply p) := plain
theorem chunkFetchReply (p : Port) : Statement (.chunkFetchReply p) := plain
theorem chunkStoreReply (p : Port) : Statement (.chunkStoreReply p) := plain
theorem channelHubTimeout (p : Port) : Statement (.channelHubTimeout p) := plain
theorem hubRequestDrop (p : Port) : Statement (.hubRequestDrop p) := plain
theorem channelAccessOutcome (c : Channel) : Statement (.channelAccessOutcome c) := plain
theorem releaseAnnouncement : Statement .releaseAnnouncement := plain
theorem channelPortDown (p : Port) : Statement (.channelPortDown p) := plain
theorem noticeEvent (k : Nat) : Statement (.noticeEvent k) := plain
theorem noticeAck (p : Port) : Statement (.noticeAck p) := plain
theorem noticeRewind (p : Port) : Statement (.noticeRewind p) := plain
theorem noticeQueueEmpty (p : Port) : Statement (.noticeQueueEmpty p) := plain
theorem configRead (p : Port) : Statement (.configRead p) := plain
theorem configWrite (p : Port) : Statement (.configWrite p) := plain
theorem configWriteSupervisor (p : Port) : Statement (.configWriteSupervisor p) := plain
theorem configWriteTimebase (p : Port) : Statement (.configWriteTimebase p) := plain
theorem fence (p : Port) : Statement (.fence p) := plain
theorem unfence (p : Port) : Statement (.unfence p) := plain

end Sys2Proof.Laws.WellFormedness
end

