-- ==== Sys2Proof/Tests/Slice0.lean ====
section
/-! SUPPORT. Tests on fixed values: the well-formedness checks, the decoder on words written out from chapter 10, single steps, and
for every obligation with hypotheses a concrete state and operands that meet them, clause by clause. -/

namespace Sys2Proof.Tests

open Machine

/-! ### Small states -/

/-- A hub in RUN with its store filled. -/
def live : State :=
  { State.reset with seqState := .run, store := ⟨[], [], ⟨1, 65536⟩⟩, timebase := some ⟨100, 0⟩ }

/-- A packet with tag 3. -/
def pkt (kind : Byte) (payload : List Word) : Packet := ⟨kind, 3#8, 0#8, payload⟩

/-- Port p's link in a state. -/
def linked (st : LinkState) (p : Port) (s : State) : State := s.setLink p { s.link p with link := st }

/-- Port p's link UP with a request handed to its block. -/
def asked (p : Port) (r : Request) (s : State) : State :=
  s.setLink p { s.link p with link := .up, service := some ⟨pkt 0x01#8 [], r, .handed, false⟩, heldCount := 1, tags := [3] }

/-- An entry of the Lock Table, generation 5, in the waiting order when it is WAITING. -/
def entered (k : LockSlot) (e : EntryState) (s : State) : State :=
  let u := s.locks.setEntry k ⟨5#8, e⟩
  s.setLocks { u with order := if e.waiting?.isSome then u.order ++ [k] else u.order }

/-- Port 1's exclusive claim on granules 10 and 11, leased. -/
def mine : Claim := ⟨1, .exclusive, 10, 2, 7, 7⟩

/-- Port 2's exclusive claim on granule 11, without a lease. -/
def theirs : Claim := ⟨2, .exclusive, 11, 1, 0, 0⟩

/-- A descriptor flagged LAST and NOTIFY: 128 bytes at granule 1. -/
def lastDesc (k : DescKind) : Descriptor := ⟨k, true, true, false, 128, 64, 0x1000#32⟩

/-- The same, not LAST, with HALT_ON_LOCK as given. -/
def moreDesc (k : DescKind) (halt : Bool) : Descriptor := ⟨k, false, true, halt, 128, 64, 0x1000#32⟩

/-- A channel of port 1 in a state. -/
def chanIn (st : ChanState) : ChannelContext :=
  { ChannelContext.reset with state := st, owner := some 1, list := some 0x100#32 }

/-- A channel of port 1 in a state, moving the second chunk of a descriptor. -/
def moving (st : ChanState) (d : Descriptor) : ChannelContext :=
  { chanIn st with current := some d, position := 128, chunks := [⟨128, 0x1040#32, 64, [], .requested⟩], next := some .fetching }

/-- A hub request of channel 0. -/
def hubReq (purpose : Purpose) (op : HubOp) : HubRequest := ⟨0, purpose, op⟩

/-- A claim for the Channel Engine from port 1. -/
def told (cl : ChannelClaim) (s : State) : State := s.setClaims 1 [cl]

/-- A direct or channel access in progress. -/
def inProgress (m : Member) (op : AccessOp) (s : State) : State :=
  s.setArbiter { s.arbiter with inProgress := some ⟨1, m, 128, ⟨128, op, none⟩, []⟩ }

/-- Port 1 served with a request granted at the arbiter. -/
def granted (discard : Bool) (op : AccessOp) (s : State) : State :=
  inProgress .dispatcher op (s.setLink 1 { s.link 1 with
    link := if discard then .training else .up, readyTaken := if discard then some true else none
    service := some ⟨pkt 0x01#8 [], .read 128#32 4#32 none, .granted, discard⟩, heldCount := 1, tags := [3] })

/-- A channel access with its outcome handed. -/
def outcome (op : AccessOp) (o : AccessOutcome) (s : State) : State :=
  s.setOutcome 0 (some (⟨128, ⟨128, op, none⟩⟩, o))

/-- A notice record. -/
def note (e : NoticeEvent) (n : Nat) (sent : Option Byte) : NoticeRecord := ⟨e, n, sent⟩

/-- The state a command leads to. -/
def after (c : Instr) (s : State) : State :=
  match exec c s with
  | .next t => t
  | .fault f => nomatch f
  | .refused _ => s

/-! ### Well-formedness: an ill-formed term for each check -/

set_option maxRecDepth 8000 in
theorem test_wf_request_too_long : (Instr.requestReceived 0 (pkt 0x01#8 (List.replicate 256 0#32))).wellFormed = false := by
  decide

set_option maxRecDepth 8000 in
theorem test_wf_request_longest : (Instr.requestReceived 0 (pkt 0x01#8 (List.replicate 255 0#32))).wellFormed = true := by
  decide

set_option maxRecDepth 8000 in
theorem test_wf_fetchReply_too_long : (Instr.fetchReply 0 0#8 (List.replicate 256 0#32)).wellFormed = false := by
  decide

set_option maxRecDepth 8000 in
theorem test_wf_storeReply_too_long : (Instr.storeReply 0 0#8 (List.replicate 256 0#32)).wellFormed = false := by
  decide

theorem test_wf_disturbance_to_clean : (Instr.bitDisturbance 0#16 .clean).wellFormed = false := by decide

theorem test_wf_plain : Instr.pwrokFall.wellFormed = true := by decide

/-! ### Decoding: words written out from chapter 10 -/

theorem test_decode_read : decodeRequest (pkt 0x01#8 [0x00000940#32, 64#32]) = some (.read 0x940#32 64#32 none) := by decide

theorem test_decode_read_guarded :
    decodeRequest ⟨0x01#8, 3#8, 1#8, [0x00000940#32, 64#32, 0x00000A1F#32]⟩
      = some (.read 0x940#32 64#32 (some ⟨31, 0x0A#8⟩)) := by decide

theorem test_decode_write : decodeRequest (pkt 0x02#8 [0x40#32, 8#32, 1#32, 2#32])
    = some (.write 0x40#32 8#32 [1#32, 2#32] none) := by decide

theorem test_decode_write_count : decodeRequest (pkt 0x02#8 [0x40#32, 8#32, 1#32]) = none := by decide

theorem test_decode_fetchAdd : decodeRequest (pkt 0x03#8 [0x40#32, 5#32]) = some (.fetchAdd 0x40#32 5#32 none) := by decide

theorem test_decode_swap : decodeRequest (pkt 0x04#8 [0x40#32, 5#32]) = some (.swap 0x40#32 5#32 none) := by decide

theorem test_decode_compareSwap : decodeRequest (pkt 0x05#8 [0x40#32, 5#32, 6#32])
    = some (.compareSwap 0x40#32 5#32 6#32 none) := by decide

/-- Count 64 in bits 22 to 16, PRIVATE in 25 to 24, wait in 28, first granule 4095 in 11 to 0; lease 7, limit 9. -/
theorem test_decode_lock : decodeRequest (pkt 0x08#8 [0x12400FFF#32, 0x00070009#32])
    = some (.lock 4095 64 .priv true 9 7) := by decide

theorem test_decode_lock_mode3 : decodeRequest (pkt 0x08#8 [0x03010000#32, 0#32]) = none := by decide

theorem test_decode_lock_reserved : decodeRequest (pkt 0x08#8 [0x00011000#32, 0#32]) = none := by decide

theorem test_decode_unlock : decodeRequest (pkt 0x09#8 [0x0000FF1F#32]) = some (.unlock ⟨31, 0xFF#8⟩) := by decide

theorem test_decode_unlock_guarded : decodeRequest ⟨0x09#8, 3#8, 1#8, [0x00000001#32, 0#32]⟩ = none := by decide

theorem test_decode_renew : decodeRequest (pkt 0x0A#8 [0xFFFF0203#32]) = some (.renew ⟨3, 2#8⟩ 65535) := by decide

theorem test_decode_adopt : decodeRequest (pkt 0x0B#8 [0x00000203#32]) = some (.adopt ⟨3, 2#8⟩) := by decide

theorem test_decode_reclaim : decodeRequest (pkt 0x0C#8 [0x00000203#32]) = some (.reclaim ⟨3, 2#8⟩) := by decide

theorem test_decode_forceRelease : decodeRequest (pkt 0x0D#8 [31#32]) = some (.forceRelease 31)
    ∧ decodeRequest (pkt 0x0D#8 [32#32]) = none := by decide

theorem test_decode_lockQuery : decodeRequest (pkt 0x0E#8 [31#32]) = some (.lockQuery 31) := by decide

theorem test_decode_channelStart : decodeRequest (pkt 0x10#8 [7#32, 0x200000#32])
    = some (.channelStart 7#8 0x200000#32 none) := by decide

theorem test_decode_channelStop : decodeRequest (pkt 0x11#8 [7#32]) = some (.channelStop 7#8) := by decide

theorem test_decode_channelRelease : decodeRequest (pkt 0x12#8 [8#32]) = some (.channelRelease 8#8) := by decide

theorem test_decode_channelQuery : decodeRequest (pkt 0x13#8 [255#32]) = some (.channelQuery 255#8) := by decide

theorem test_decode_noticeAck : decodeRequest (pkt 0x18#8 [254#32]) = some (.noticeAck 254#8) := by decide

theorem test_decode_configRead : decodeRequest (pkt 0x19#8 [0x19#32]) = some (.configRead 0x19#8) := by decide

theorem test_decode_configWrite : decodeRequest (pkt 0x1A#8 [0x00020003#32]) = some (.configWrite 3#8 2#16) := by decide

theorem test_decode_fence : decodeRequest (pkt 0x1B#8 [3#32]) = some (.fence 3)
    ∧ decodeRequest (pkt 0x1B#8 [4#32]) = none := by decide

theorem test_decode_unfence : decodeRequest (pkt 0x1C#8 [3#32]) = some (.unfence 3) := by decide

theorem test_decode_unknown_kind : decodeRequest (pkt 0x06#8 []) = none := by decide

theorem test_decode_tag_above_15 : decodeRequest ⟨0x19#8, 16#8, 0#8, [0#32]⟩ = none := by decide

theorem test_decode_flags_above_1 : decodeRequest ⟨0x19#8, 3#8, 2#8, [0#32]⟩ = none := by decide

/-- The three descriptors of Table 5.11: the third's byte count is not a multiple of 4. -/
theorem test_decode_descriptors :
    decodeDescriptor [0x00800200#32, 0x4000#32, 0x300000#32, 0#32]
        = some ⟨.toStore, false, true, false, 128, 0x4000, 0x300000#32⟩
      ∧ decodeDescriptor [0x00400003#32, 0x5000#32, 0#32, 0#32] = some ⟨.storeFill, false, false, false, 64, 0x5000, 0#32⟩
      ∧ decodeDescriptor [0x00060101#32, 0x6000#32, 0x310000#32, 0#32] = none := by decide

theorem test_decode_descriptor_bounds :
    (decodeDescriptor [0x00040000#32, 0x3FFFC#32, 0xFFFFFFFC#32, 0#32]).isSome = true
      ∧ decodeDescriptor [0x00080000#32, 0x3FFFC#32, 0#32, 0#32] = none
      ∧ decodeDescriptor [0x00080000#32, 0#32, 0xFFFFFFFC#32, 0#32] = none
      ∧ decodeDescriptor [0x00040800#32, 0#32, 0#32, 0#32] = none
      ∧ decodeDescriptor [0x00040000#32, 0#32, 0#32, 1#32] = none := by decide

theorem test_no_table_word_spells_a_command : decodeTableWord 32 0 = none := rfl

/-! ### Words going out -/

theorem test_hello_words : helloPacket 2 1 = ⟨0x60#8, 0#8, 0#8, [0x01020440#32, 0x00080410#32]⟩ := by decide

theorem test_response_word : (respond (pkt 0x08#8 []) .granted (handleDetail 3 2#8) []).packet
    = ⟨0x40#8, 3#8, 0#8, [0x02030801#32]⟩ := by decide

theorem test_notice_words : noticePacket (note (.channelEnd 3 (.faulted .badDescriptor) 192) 2 none) 7#8
    = ⟨0x41#8, 7#8, 0#8, [0x02030107#32, 0x00000101#32, 192#32]⟩ := by decide

theorem test_hub_tag : hubTag 5 9#4 = 0x59#8 := by decide

/-- The chunks of section 6.1: 56, 64, 64 and 16 bytes. -/
theorem test_chunks_of_200_bytes :
    let d : Descriptor := ⟨.toStore, true, false, false, 200, 0x1FC8, 0#32⟩
    [chunkLen d 0, chunkLen d 56, chunkLen d 120, chunkLen d 184] = [56, 64, 64, 16] := by decide

/-! ### Single steps -/

theorem test_reset_is_cold : State.reset.seqState = .cold ∧ State.reset.hubrdy = false ∧ State.reset.pending = [] := by decide

theorem test_step_empty_queue : step live = .next { live with timebase := some ⟨100, 1⟩ } := rfl

theorem test_power_up_runs : (after .initComplete (after .pwrokRise State.reset)).hubrdy = true := by decide

theorem test_lock_granted :
    ((after (.lock 1) (asked 1 (.lock 10 2 .exclusive false 0 7) live)).locks.entry 0).state = .held mine := by decide

theorem test_lock_queued_behind :
    ((after (.lock 1) (asked 1 (.lock 10 2 .exclusive true 0 7) (entered 0 (.held theirs) live))).locks.entry 1).state
      = .waiting mine 2000 := by decide

theorem test_unlock_grants_waiter :
    ((after (.unlock 2) (asked 2 (.unlock ⟨0, 5#8⟩)
      (entered 1 (.waiting mine 9) (entered 0 (.held theirs) live)))).locks.entry 1).state = .held mine := by decide

theorem test_write_then_done :
    ((after .accessComplete (granted false (.write [7#32]) live)).store.word 32) = 7#32 := by decide

theorem test_fetchAdd_wraps :
    ((after .accessComplete (granted false (.fetchAdd 0xFFFFFFFF#32) { live with
      store := live.store.writeWord 32 2#32 })).store.word 32) = 1#32 := by decide

/-- Table 1.3, first grant: port 2 by priority, its dispatcher. -/
theorem test_priority_grant :
    let s := (live.setSettings { live.settings with priorityPort := 2#16 }).setLink 2 { live.link 2 with
      link := .up, service := some ⟨pkt 0x01#8 [], .read 0#32 4#32 none, .presented, false⟩, heldCount := 1, tags := [3] }
    s.nextGrant = some (2, .dispatcher, ⟨0, ⟨0, .read 1, none⟩⟩, true) := by decide

theorem test_hard_loss_unbinds :
    ((after (.channelPortDown 1) (told (.portDown .hard) (live.setChan 0 (chanIn .complete)))).chan 0)
      = ChannelContext.reset := by decide

theorem test_rewind_merges :
    rewind [note (.peerDown 2 .linkLoss) 1 (some 0#8), note (.peerUp 2) 1 none, note (.peerUp 3) 1 none]
      = [note (.peerUp 2) 2 none, note (.peerUp 3) 1 none] := by decide

/-! ### Every obligation's hypotheses are met by some state and operands -/

theorem witness_StepTakesTheFrontCommand :
    State.reset.pending = [] ∧ State.reset.timebase = none ∧ live.pending = []
      ∧ ({ live with timebase := some ⟨100, 99⟩ } : State).timebase = some ⟨100, 99⟩ ∧ 99 < 100 := by decide

theorem witness_ResetSequencingFillsTheStore :
    State.reset.seqState = .cold ∧ (after .pwrokRise State.reset).seqState = .fill
      ∧ (after .pwrokRise State.reset).memoryLawful
      ∧ (after .pwrokRise (after .hrstAssert State.reset)).seqState = .fillHeld
      ∧ (after .hrstAssert live).seqState = .held
      ∧ (State.reset.seqState ≠ .fill ∧ State.reset.seqState ≠ .run)
      ∧ (live.seqState ≠ .held ∧ live.seqState ≠ .fillHeld) := by decide

theorem witness_WarmResetKeepsTheStore : live.seqState = .run ∧ live.arbiter.inProgress = none := by decide

/-- A write of one word, each atomic, one of them a COMPARE_SWAP that does not match, and a read, on a word that is not
uncorrectable; a read and an atomic on one that is. -/
theorem witness_WarmResetCutsTheAccessInProgress :
    (∀ op ∈ [AccessOp.write [7#32], .swap 7#32, .fetchAdd 7#32, .compareSwap 0#32 7#32, .compareSwap 1#32 7#32, .read 1],
      let s := granted false op live
      s.seqState = .run ∧ s.memoryLawful ∧ s.arbiter.inProgress = some ⟨1, .dispatcher, 128, ⟨128, op, none⟩, []⟩
        ∧ s.store.condition 32 ≠ .uncorrectable ∧ s.store.word 32 = 0#32)
      ∧ 0 < [7#32].length
      ∧ (∀ op ∈ [AccessOp.read 1, .fetchAdd 7#32],
        let s := after (.bitDisturbance 32#16 .uncorrectable) (granted false op live);
        s.seqState = .run ∧ s.memoryLawful ∧ s.arbiter.inProgress.isSome = true ∧ s.store.condition 32 = .uncorrectable) := by
  decide

theorem witness_SupervisorFollowsTheStraps :
    State.reset.seqState ≠ .run ∧ live.seqState = .run ∧ (after .pwrokRise State.reset).seqState = .fill
      ∧ (after .hrstAssert live).seqState = .held ∧ (live.link 3).link = .down
      ∧ ((linked .training 0 live).link 0).link = .training := by decide

theorem witness_PortResetLineOutsideUp :
    (live.link 0).link = .down ∧ ((linked .training 3 live).link 3).link = .training
      ∧ ((linked .off 0 live).link 0).link = .off ∧ ((linked .fenced 3 live).link 3).link = .fenced
      ∧ (live.link 0).link ≠ .off := by decide

theorem witness_DisturbanceChangesOneCondition :
    live.memoryLawful ∧ live.store.condition (0#16).toNat = .clean ∧ live.store.condition (0xFFFF#16).toNat = .clean
      ∧ (let s := after (.bitDisturbance 0#16 .singleBit) live;
        s.memoryLawful ∧ s.store.condition (0#16).toNat = .singleBit)
      ∧ (let s := after (.bitDisturbance 0xFFFF#16 .uncorrectable) live;
        s.memoryLawful ∧ s.store.condition (0xFFFF#16).toNat = .uncorrectable) := by decide

/-- One entry in each state, a lease of 0 among them, in RUN; and a hub outside RUN. -/
theorem witness_BoundaryCountsEveryTimer :
    let s := entered 3 (.orphaned theirs 1 true) (entered 2 (.waiting mine 1) (entered 1 (.held theirs)
      (entered 0 (.held mine) live)))
    s.seqState = .run ∧ (s.locks.entry 31).state = .free
      ∧ ((s.locks.entry 0).state = .held mine ∧ mine.leaseLen ≠ 0)
      ∧ ((s.locks.entry 1).state = .held theirs ∧ theirs.leaseLen = 0)
      ∧ (s.locks.entry 2).state = .waiting mine 1 ∧ (s.locks.entry 3).state = .orphaned theirs 1 true
      ∧ State.reset.seqState ≠ .run := by decide

theorem witness_LeaseExpiryReleasesTheEntry :
    let c : Claim := { mine with leaseLeft := 0 };
    ((entered 31 (.held c) live).locks.entry 31).state = .held c ∧ c.leaseLen ≠ 0 ∧ c.leaseLeft = 0
      ∧ (∀ d ∈ ((entered 0 (.held mine) live).locks.entry 0).state.held?, d.leaseLen = 0 ∨ d.leaseLeft ≠ 0)
      ∧ (∀ d ∈ ((entered 0 (.held theirs) live).locks.entry 0).state.held?, d.leaseLen = 0 ∨ d.leaseLeft ≠ 0) := by decide

theorem witness_WaitAndOrphanExpiryEndTheEntry :
    ((entered 0 (.waiting mine 0) live).locks.entry 0).state = .waiting mine 0
      ∧ ((entered 31 (.orphaned mine 0 false) live).locks.entry 31).state = .orphaned mine 0 false := by decide

/-- A stall that has just reached its limit, with nothing in flight and with an access granted. -/
theorem witness_StallExpiryFaultsTheRun :
    let r : StallRecord := ⟨2, 500, 500, ⟨128, ⟨128, .write [7#32], none⟩⟩⟩
    let s := live.setChan 0 { moving .stalled (lastDesc .toStore) with stall := some r };
    (s.chan 0).state = .stalled ∧ (s.chan 0).stall = some r ∧ r.limit ≤ r.time ∧ (s.chan 0).owner = some 1
      ∧ s.inFlight 0 = false ∧ (inProgress (.chan 0) (.write [7#32]) s).inFlight 0 = true := by decide

theorem witness_TrainingFails :
    let s := live.setLink 1 { live.link 1 with link := .training, trainTimer := some 0, readyTaken := some false };
    (s.link 1).link = .training ∧ (s.link 1).trainTimer = some 0 ∧ (s.link 1).readyTaken = some false
      ∧ field 0x100#32 0 8 = 0 ∧ 8 < field 9#32 0 8 := by decide

theorem witness_TrainingFails_request : arrivesAsRequest (pkt 0x01#8 []) := by
  simp [arrivesAsRequest, pkt]

/-- Slot 7 of port 1 holding a request whose timer reads n, or that is not sent. -/
def slotted (op : HubOp) (timer : Option Nat) (s : State) : State :=
  s.setLink 1 { s.link 1 with link := .up, slots := (s.link 1).slots.set 7 ⟨9#4, some ⟨hubReq .first op, timer⟩⟩ }

/-- Slot 7 of port 1 holding the FETCH of the chunk at 128. -/
def slottedChunk (s : State) : State :=
  let r : HubRequest := hubReq (.chunk 128) (.fetch 0x1040#32 64);
  s.setLink 1 { s.link 1 with link := .up, slots := (s.link 1).slots.set 7 ⟨9#4, some ⟨r, none⟩⟩ }

theorem witness_SlotTimeoutEndsTheRequest :
    ((slotted (.fetch 0#32 16) (some 0) live).link 1).outstanding 7 = some ⟨hubReq .first (.fetch 0#32 16), some 0⟩ := by
  decide

/-- Slot 7 times out and slot 0, the lowest free one, is given to channel 3, whose request waits. -/
theorem test_slot_given :
    let r : HubRequest := ⟨3, .first, .fetch 0x40#32 16⟩
    let s := slotted (.fetch 0#32 16) (some 0) live
    let t := after (.slotTimeout 1 7) (s.setLink 1 { s.link 1 with waiting := (s.link 1).waiting.set 3 [r] });
    (t.link 1).outstanding 0 = some ⟨r, none⟩ ∧ (t.link 1).outstanding 7 = none ∧ (t.link 1).unsent = [0]
      ∧ (t.link 1).lastServed = 3 ∧ (t.link 1).waiting[(3 : Channel)] = [] := by decide

theorem witness_HelloIsAnswered :
    ((live.link 0).link = .down ∧ live.seqState = .run) ∧ ((linked .training 3 live).link 3).link = .training
      ∧ ((State.reset.link 0).link = .down ∧ State.reset.seqState ≠ .run)
      ∧ (((linked .up 0 live).link 0).link ≠ .down ∧ ((linked .up 0 live).link 0).link ≠ .training) := by decide

theorem witness_ReadyBringsTheLinkUp :
    let s := live.setLink 1 { live.link 1 with link := .training, readyTaken := some false }
    let b := (granted true (.read 1) live).setLink 1
      { (granted true (.read 1) live).link 1 with readyTaken := some false }
    ((s.link 1).link = .training ∧ (s.link 1).readyTaken = some false ∧ 1 ≤ field 1#32 0 8 ∧ field 8#32 0 8 ≤ 8
        ∧ (s.link 1).service = none ∧ s.portDown 1 = PortDownClaims.none ∧ s.claimsOf 1 = [])
      ∧ ((b.link 1).link = .training ∧ (b.link 1).readyTaken = some false ∧ (b.link 1).service ≠ none) := by decide

/-- TRAINING with a soft loss still untaken by every block; channel 0 of the port has a FETCH waiting. -/
def training (s : State) : State :=
  s.setLink 1 (({ s.link 1 with link := .training, readyTaken := some false } : LinkController).enqueue
    (hubReq .first (.fetch 0x100#32 16)))

theorem witness_ReadyBringsTheLinkUp_untaken :
    let s := (told (.portDown .soft) (training live)).setPortDown 1 ⟨some .soft, some .soft, true⟩
    (s.link 1).link = .training ∧ (s.link 1).readyTaken = some false ∧ (s.link 1).service = none
      ∧ s.portDown 1 ≠ PortDownClaims.none ∧ s.claimsOf 1 ≠ [] ∧ (s.link 1).waiting[(0 : Channel)] ≠ [] := by decide

/-- The claims are gone, and the request that waited stands in slot 0. -/
theorem test_ready_settles_and_gives :
    let s := (told (.portDown .soft) (training live)).setPortDown 1 ⟨some .soft, some .soft, true⟩
    let t := after (.ready 1 1#32) s
    t.portDown 1 = PortDownClaims.none ∧ t.claimsOf 1 = [] ∧ (t.link 1).waiting[(0 : Channel)] = []
      ∧ (t.link 1).outstanding 0 = some ⟨hubReq .first (.fetch 0x100#32 16), none⟩ := by decide

/-- Each of the three losses, with a request granted and with one only handed. -/
theorem witness_LossClearsTheLink :
    ((granted false (.read 1) live).link 1).link = .up
      ∧ (∃ sv, ((granted false (.read 1) live).link 1).service = some sv ∧ sv.stage = .granted)
      ∧ ((asked 1 (.unlock ⟨0, 0#8⟩) live).link 1).link = .up
      ∧ (∀ sv ∈ ((asked 1 (.unlock ⟨0, 0#8⟩) live).link 1).service, sv.stage ≠ .granted)
      ∧ (Instr.lossOfSignal 1, LinkState.down, DownCause.linkLoss, Loss.soft)
        ∈ [(Instr.lossOfSignal 1, .down, .linkLoss, .soft), (.badCheckPacket 1, .down, .linkError, .soft),
          (.prstnAssert 1, .off, .portReset, .hard)] := by
  refine ⟨by decide, ⟨_, rfl, by decide⟩, by decide, by decide, by decide⟩

theorem witness_RequestIsCountedAndQueued :
    arrivesAsRequest (pkt 0x01#8 [])
      ∧ (let s := live.setLink 1 { live.link 1 with link := .up, heldCount := 16 };
        (s.link 1).link = .up ∧ 16 ≤ (s.link 1).heldCount)
      ∧ (let s := live.setLink 1 { live.link 1 with link := .up, heldCount := 15, tags := [3] };
        (s.link 1).link = .up ∧ (s.link 1).heldCount < 16
          ∧ ((pkt 0x01#8 []).tag.setWidth 4 : BitVec 4).toNat ∈ (s.link 1).tags)
      ∧ (let s := linked .up 1 live;
        (s.link 1).heldCount < 16 ∧ ((pkt 0x01#8 []).tag.setWidth 4 : BitVec 4).toNat ∉ (s.link 1).tags
          ∧ (s.link 1).service = none ∧ (s.link 1).inbound = [] ∧ decodeRequest (pkt 0x01#8 []) = none
          ∧ decodeRequest (pkt 0x0D#8 [31#32]) = some (.forceRelease 31))
      ∧ ((asked 1 (.unlock ⟨0, 0#8⟩) live).link 1).service ≠ none := by
  refine ⟨witness_TrainingFails_request, by decide⟩

/-- A FETCH and a STORE outstanding in slot 7 under sequence 9; a tag with bit 7 set; another sequence; a request not sent. -/
theorem witness_ReplyEndsItsRequest :
    (let s := slotted (.fetch 0#32 4) (some 20) live;
      (s.link 1).link = .up ∧ (s.link 1).outstanding (replySlot 0x79#8) = some ⟨hubReq .first (.fetch 0#32 4), some 20⟩
        ∧ (0x79#8 : Byte).toNat < 128 ∧ ((s.link 1).slots[replySlot 0x79#8]).seq = replySeq 0x79#8
        ∧ field 0#32 0 8 = 0 ∧ 4 * [7#32].length = 4 ∧ field 1#32 0 8 ≠ 0 ∧ 4 * ([] : List Word).length ≠ 4
        ∧ 128 ≤ (0xF9#8 : Byte).toNat ∧ ((s.link 1).slots[replySlot 0x7A#8]).seq ≠ replySeq 0x7A#8)
      ∧ (let s := slotted (.store 0#32 [7#32]) (some 20) live;
        (s.link 1).outstanding (replySlot 0x79#8) = some ⟨hubReq .first (.store 0#32 [7#32]), some 20⟩)
      ∧ (let s := slotted (.store 0#32 [7#32]) none live;
        ∀ o ∈ (s.link 1).outstanding (replySlot 0x79#8), o.timer = none) := by decide

/-- Port 1 UP with a response, a notice or a hub request ready. -/
def sending (responses : List Response) (queue : List NoticeRecord) (unsent : List HubSlot) (turn : OutboundTurn) : State :=
  let s := slotted (.fetch 0#32 16) none live;
  (s.setLink 1 { s.link 1 with responses := responses, unsent := unsent, turn := turn }).setQueue 1 queue

theorem witness_ResponseSentReturnsTheCredit :
    let r := respond (pkt 0x01#8 []) .ok none [];
    (let s := sending [r] [] [] .hub;
      (s.link 1).link = .up ∧ (s.link 1).responses = [r] ∧ (s.link 1).unsent = [])
      ∧ (let s := sending [r] [] [7] .other;
        (s.link 1).link = .up ∧ (s.link 1).responses = [r] ∧ (s.link 1).turn = .other) := by decide

theorem witness_NoticeSentTakesANumber :
    let a := note (.peerUp 2) 1 (some 255#8)
    let r := note (.peerUp 3) 1 none;
    (let s := sending [] [a, a, a, r] [] .hub;
      (s.link 1).link = .up ∧ (s.link 1).responses = [] ∧ s.queue 1 = [a, a, a] ++ r :: []
        ∧ (∀ x ∈ [a, a, a], x.isPending = false) ∧ r.sent = none ∧ sentCount (s.queue 1) < 4 ∧ (s.link 1).unsent = [])
      ∧ (let s := sending [] [r] [7] .other;
        (s.link 1).turn = .other ∧ s.queue 1 = [] ++ r :: []) := by decide

theorem witness_HubRequestSentStartsItsTimer :
    (let s := sending [respond (pkt 0x01#8 []) .ok none []] [] [7] .hub;
      (s.link 1).link = .up ∧ (s.link 1).unsent = [7]
        ∧ (s.link 1).outstanding 7 = some ⟨hubReq .first (.fetch 0#32 16), none⟩ ∧ (s.link 1).turn = .hub)
      ∧ (let s := sending [] [] [7] .other;
        (s.link 1).responses = [] ∧ offered (s.queue 1) = none) := by decide

/-- Lengths and addresses at the ends of their ranges, for a request of each kind. -/
theorem witness_DirectRequestIsChecked :
    (asked 1 (.read 0x3FFC0#32 64#32 none) live).request 1 = some (.read 0x3FFC0#32 64#32 none)
      ∧ (4 ≤ (64#32 : Word).toNat ∧ (64#32 : Word).toNat ≤ 64 ∧ (64#32 : Word).toNat % 4 = 0)
      ∧ ((0x3FFC0#32 : Word).toNat % 4 = 0 ∧ (0x3FFC0#32 : Word).toNat ≤ 0x3FFFF ∧ (0x3FFC0#32 : Word).toNat % 64 + 64 ≤ 64)
      ∧ ¬(4 ≤ (0#32 : Word).toNat) ∧ ¬((68#32 : Word).toNat ≤ 64) ∧ ¬((6#32 : Word).toNat % 4 = 0)
      ∧ ¬((0x3FFFE#32 : Word).toNat % 4 = 0) ∧ ¬((0x40000#32 : Word).toNat ≤ 0x3FFFF)
      ∧ ¬((0x3C#32 : Word).toNat % 64 + 8 ≤ 64)
      ∧ (asked 0 (.write 0#32 4#32 [7#32] none) live).request 0 = some (.write 0#32 4#32 [7#32] none)
      ∧ (asked 2 (.fetchAdd 0x3FFFC#32 7#32 none) live).request 2 = some (.fetchAdd 0x3FFFC#32 7#32 none)
      ∧ (asked 3 (.swap 0#32 7#32 none) live).request 3 = some (.swap 0#32 7#32 none)
      ∧ (asked 3 (.compareSwap 0#32 7#32 8#32 none) live).request 3 = some (.compareSwap 0#32 7#32 8#32 none) := by decide

/-- Port 1 and port 2 each with a direct request presented; PRIORITY_PORT as given. -/
def waitingAt (op : Request) (priority : Half) (turn : PriorityTurn) (s : State) : State :=
  let put (p : Port) (t : State) : State := t.setLink p { t.link p with
    link := .up, heldCount := 1, tags := [3], service := some ⟨pkt 0x01#8 [], op, .presented, false⟩ }
  let t := put 2 (put 1 s);
  (t.setSettings { t.settings with priorityPort := priority }).setArbiter { t.arbiter with turn := turn }

theorem witness_GrantFollowsTheRotation :
    (live.arbiter.inProgress = none ∧ ∀ q, live.groupWaiting q = false)
      ∧ (let s := waitingAt (.read 128#32 4#32 none) 2#16 .priority live;
        s.arbiter.inProgress = none ∧ s.groupWaiting 2 = true
          ∧ s.nextGrant = some (2, .dispatcher, ⟨0, ⟨128, .read 1, none⟩⟩, true))
      ∧ (let s := waitingAt (.read 128#32 4#32 none) 2#16 .rotation live;
        s.nextGrant = some (1, .dispatcher, ⟨0, ⟨128, .read 1, none⟩⟩, false))
      ∧ (let s := waitingAt (.read 128#32 4#32 none) 4#16 .priority live;
        s.nextGrant = some (1, .dispatcher, ⟨0, ⟨128, .read 1, none⟩⟩, false) ∧ s.arbiter.turn = .priority) := by decide

/-- A dispatcher's access that every check passes; a guard that fails; an entry that refuses; a poisoned granule read, written in
part and written whole; and a channel's access. -/
theorem witness_GrantMakesTheChecks_passes :
    let s := waitingAt (.read 128#32 4#32 none) 4#16 .priority live
    s.arbiter.inProgress = none ∧ (∀ q, (s.link q).lawful)
      ∧ s.nextGrant = some (1, .dispatcher, ⟨0, ⟨128, .read 1, none⟩⟩, false)
      ∧ (∀ k : LockSlot, (s.locks.entry k).state = .free) ∧ 2 ∉ s.poison := by decide

theorem witness_GrantMakesTheChecks_guard :
    let s := waitingAt (.read 128#32 4#32 (some ⟨0, 5#8⟩)) 4#16 .priority live
    let h := entered 0 (.held mine) s
    s.nextGrant = some (1, .dispatcher, ⟨0, ⟨128, .read 1, some ⟨0, 5#8⟩⟩⟩, false)
      ∧ s.locks.guardHolds 1 ⟨0, 5#8⟩ = false ∧ h.nextGrant = s.nextGrant
      ∧ h.locks.entry 0 = ⟨5#8, .held mine⟩ ∧ mine.owner = 1 := by decide

theorem witness_GrantMakesTheChecks_lock :
    let s := entered 31 (.held { theirs with first := 2 }) (waitingAt (.write 128#32 4#32 [7#32] none) 4#16 .priority live)
    s.nextGrant = some (1, .dispatcher, ⟨0, ⟨128, .write [7#32], none⟩⟩, false)
      ∧ (s.locks.entry 31).state = .held { theirs with first := 2 }
      ∧ ∀ j : LockSlot, j < 31 → (s.locks.entry j).state = .free := by decide

theorem witness_GrantMakesTheChecks_poison :
    let s := (waitingAt (.write 128#32 4#32 [7#32] none) 4#16 .priority live).setPoison [2]
    let w := (waitingAt (.write 128#32 64#32 (List.replicate 16 7#32) none) 4#16 .priority live).setPoison [2]
    let r := (waitingAt (.read 128#32 4#32 none) 4#16 .priority live).setPoison [2]
    (2 ∈ s.poison ∧ s.nextGrant = some (1, .dispatcher, ⟨0, ⟨128, .write [7#32], none⟩⟩, false))
      ∧ (2 ∈ w.poison ∧ w.nextGrant = some (1, .dispatcher, ⟨0, ⟨128, .write (List.replicate 16 7#32), none⟩⟩, false))
      ∧ (2 ∈ r.poison ∧ r.nextGrant = some (1, .dispatcher, ⟨0, ⟨128, .read 1, none⟩⟩, false)) := by decide

theorem witness_GrantMakesTheChecks_channel :
    let s := (live.setChan 7 (chanIn .running)).setWaiting 7 (some ⟨128, ⟨128, .read 1, none⟩⟩)
    s.nextGrant = some (1, .chan 7, ⟨128, ⟨128, .read 1, none⟩⟩, false) ∧ s.arbiter.inProgress = none
      ∧ (∀ q, (s.link q).lawful) := by decide

theorem witness_WriteAccessCompletes :
    (let s := granted false (.write [7#32]) live;
      s.memoryLawful ∧ s.arbiter.inProgress = some ⟨1, .dispatcher, 128, ⟨128, .write [7#32], none⟩, []⟩
        ∧ (s.link 1).service = some ⟨pkt 0x01#8 [], .read 128#32 4#32 none, .granted, false⟩)
      ∧ (let s := granted true (.write [7#32]) live;
        s.memoryLawful ∧ s.arbiter.inProgress = some ⟨1, .dispatcher, 128, ⟨128, .write [7#32], none⟩, []⟩
          ∧ (s.link 1).service = some ⟨pkt 0x01#8 [], .read 128#32 4#32 none, .granted, true⟩
          ∧ (s.link 1).responses = [] ∧ (s.link 1).inbound = [])
      ∧ (let s := inProgress (.chan 0) (.write [7#32]) live;
        s.arbiter.inProgress = some ⟨1, .chan 0, 128, ⟨128, .write [7#32], none⟩, []⟩ ∧ Member.chan 0 ≠ .dispatcher) := by decide

theorem witness_ReadAccessCompletes :
    (let s := granted false (.read 16) live;
      s.memoryLawful ∧ s.arbiter.inProgress = some ⟨1, .dispatcher, 128, ⟨128, .read 16, none⟩, []⟩
        ∧ (s.link 1).service = some ⟨pkt 0x01#8 [], .read 128#32 4#32 none, .granted, false⟩
        ∧ ∀ i, i < 16 → s.store.condition (128 / 4 + i) ≠ .uncorrectable)
      ∧ (let s := after (.bitDisturbance 47#16 .uncorrectable) (granted false (.read 16) live);
        s.memoryLawful ∧ s.arbiter.inProgress = some ⟨1, .dispatcher, 128, ⟨128, .read 16, none⟩, []⟩
          ∧ ∃ i, i < 16 ∧ s.store.condition (128 / 4 + i) = .uncorrectable) := by decide

/-- A read and an atomic whose port's link has gone down since the grant, and a channel's. -/
theorem witness_ReadAccessCompletes_discarded :
    ∀ op ∈ [AccessOp.read 16, .fetchAdd 7#32],
      (let s := granted true op live;
        s.memoryLawful ∧ s.arbiter.inProgress = some ⟨1, .dispatcher, 128, ⟨128, op, none⟩, []⟩
          ∧ (s.link 1).service = some ⟨pkt 0x01#8 [], .read 128#32 4#32 none, .granted, true⟩
          ∧ (s.link 1).responses = [] ∧ (s.link 1).inbound = [])
      ∧ (inProgress (.chan 0) op live).arbiter.inProgress = some ⟨1, .chan 0, 128, ⟨128, op, none⟩, []⟩ := by decide

theorem witness_AtomicAccessCompletes :
    (∀ op ∈ [AccessOp.fetchAdd 7#32, .swap 7#32, .compareSwap 0#32 7#32, .compareSwap 1#32 7#32],
      let s := granted false op live
      s.memoryLawful ∧ s.arbiter.inProgress = some ⟨1, .dispatcher, 128, ⟨128, op, none⟩, []⟩
        ∧ s.store.word (128 / 4) = 0#32 ∧ s.store.condition (128 / 4) ≠ .uncorrectable
        ∧ (s.link 1).service = some ⟨pkt 0x01#8 [], .read 128#32 4#32 none, .granted, false⟩)
      ∧ (after (.bitDisturbance 32#16 .uncorrectable) (granted false (.swap 7#32) live)).store.condition (128 / 4)
        = .uncorrectable := by decide

theorem witness_ReportRestartsLeases :
    let s := { entered 1 (.held theirs) (entered 0 (.held mine) live) with reports := [[⟨0, 5#8⟩, ⟨1, 5#8⟩]] }
    s.reports = [⟨0, 5#8⟩, ⟨1, 5#8⟩] :: [] ∧ (s.locks.entry 0).state = .held mine ∧ mine.leaseLen ≠ 0
      ∧ (⟨0, (s.locks.entry 0).gen⟩ : Handle) ∈ [(⟨0, 5#8⟩ : Handle), ⟨1, 5#8⟩]
      ∧ (∀ c ∈ (s.locks.entry 1).state.held?, c.leaseLen = 0)
      ∧ (⟨31, (s.locks.entry 31).gen⟩ : Handle) ∉ [(⟨0, 5#8⟩ : Handle), ⟨1, 5#8⟩] := by decide

/-- Port 1's request for a range, waiting or not, in a state. -/
def locking (first count : Nat) (wait : Bool) (s : State) : State := asked 1 (.lock first count .exclusive wait 0 7) s

/-- Port 2 holds granule 11 in slot 31 and waits in slot 30 for granule 20, which port 1 holds in slot 29. -/
def knot : State :=
  entered 29 (.held { mine with first := 20 }) (entered 30 (.waiting { theirs with first := 20 } 9)
    (entered 31 (.held theirs) live))

theorem witness_LockTakesTheLowestFreeSlot :
    let s := locking 10 2 true (entered 0 (.held { theirs with first := 100 }) live)
    let w := locking 10 2 true (entered 0 (.held theirs) live)
    (s.request 1 = some (.lock 10 2 .exclusive true 0 7) ∧ (s.locks.ownedBy 1).length < (s.settings.quota[(1 : Port)]).toNat
        ∧ (s.locks.entry 1).state = .free ∧ (∀ j : LockSlot, j < 1 → (s.locks.entry j).state ≠ .free)
        ∧ ∀ j : LockSlot, ∀ c ∈ (s.locks.entry j).state.claim?, c.conflicts mine = false)
      ∧ ((w.locks.entry 0).state.claim? = some theirs ∧ theirs.owner ≠ 1 ∧ theirs.conflicts mine = true
        ∧ (∀ j : LockSlot, ∀ c ∈ (w.locks.entry j).state.claim?, c.owner = 1 → c.conflicts mine = false)
        ∧ ∀ j : LockSlot, (w.locks.entry j).state.waiting? = none) := by decide

/-- Port 2, the only conflicting owner, waits for no one. -/
theorem witness_LockTakesTheLowestFreeSlot_noCycle :
    ¬ClosesCycle (locking 10 2 true (entered 0 (.held theirs) live)).locks 1 mine := by
  rintro ⟨k, c, hc, ho, _, hr⟩
  have key : ∀ k : LockSlot, ∀ c ∈ ((locking 10 2 true (entered 0 (.held theirs) live)).locks.entry k).state.claim?,
      c.owner = 2 := by decide
  have none : ∀ b : Port, (locking 10 2 true (entered 0 (.held theirs) live)).locks.waitsFor 2 b = false := by decide
  rw [key k c hc] at hr
  cases hr.cases_head with
  | inl h => exact absurd h (by decide)
  | inr h =>
    obtain ⟨b, hb, _⟩ := h
    rw [none b] at hb
    cases hb

theorem witness_LockIsRefused :
    (¬(1 ≤ 0) ∧ ¬(65 ≤ 64) ∧ ¬(4095 + 2 ≤ 4096) ∧ 4095 + 1 ≤ 4096
        ∧ (locking 4095 2 true live).request 1 = some (.lock 4095 2 .exclusive true 0 7))
      ∧ (let s := locking 10 2 true ((entered 0 (.held mine) live).setSettings { live.settings with
          quota := Vector.replicate 4 1#16 });
        (s.settings.quota[(1 : Port)]).toNat ≤ (s.locks.ownedBy 1).length)
      ∧ (let s := locking 10 2 true (live.setLocks { live.locks with table := Vector.replicate 32 ⟨5#8, .held theirs⟩ });
        (s.locks.ownedBy 1).length < (s.settings.quota[(1 : Port)]).toNat
          ∧ ∀ k : LockSlot, (s.locks.entry k).state ≠ .free)
      ∧ (let s := locking 10 2 true (entered 31 (.held mine) live);
        (s.locks.entry 0).state = .free ∧ (s.locks.entry 31).state.claim? = some mine ∧ mine.conflicts mine = true
          ∧ ∀ j : LockSlot, j < 31 → (s.locks.entry j).state = .free) := by decide

theorem witness_LockIsRefused_conflict :
    (let s := locking 10 2 false (entered 31 (.held theirs) live);
      (s.locks.entry 31).state.claim? = some theirs ∧ theirs.owner ≠ 1 ∧ theirs.conflicts mine = true
        ∧ (∀ j : LockSlot, ∀ d ∈ (s.locks.entry j).state.claim?, d.owner = 1 → d.conflicts mine = false)
        ∧ ∀ j : LockSlot, j < 31 → (s.locks.entry j).state = .free)
      ∧ (let s := locking 10 2 true (entered 30 (.waiting { mine with first := 20 } 9) (entered 31 (.held theirs) live));
        (s.locks.entry 30).state.waiting? = some { mine with first := 20 }
          ∧ ∀ j : LockSlot, j < 30 → (s.locks.entry j).state = .free) := by decide

theorem witness_LockIsRefused_deadlock :
    (∀ j : LockSlot, ∀ d ∈ ((locking 10 2 true knot).locks.entry j).state.waiting?, d.owner ≠ 1)
      ∧ (∀ j : LockSlot, ∀ d ∈ ((locking 10 2 true knot).locks.entry j).state.claim?, d.owner = 1 → d.conflicts mine = false)
      ∧ ClosesCycle (locking 10 2 true knot).locks 1 mine :=
  ⟨by decide, by decide, 31, theirs, by decide, by decide, by decide,
    Relation.ReflTransGen.single (show (locking 10 2 true knot).locks.waitsFor 2 1 = true by decide)⟩

/-- An entry held, waiting and orphaned, by the port and by another, under the handle and under another generation. -/
theorem witness_UnlockReleases :
    let req : Request := .unlock ⟨31, 5#8⟩
    ((asked 1 req (entered 31 (.held mine) live)).request 1 = some req
        ∧ (asked 1 req (entered 31 (.held mine) live)).locks.entry 31 = ⟨5#8, .held mine⟩ ∧ mine.owner = 1)
      ∧ (asked 1 req (entered 31 (.waiting mine 9) live)).locks.entry 31 = ⟨5#8, .waiting mine 9⟩
      ∧ (asked 1 req (entered 31 (.orphaned mine 9 true) live)).locks.entry 31 = ⟨5#8, .orphaned mine 9 true⟩
      ∧ ((asked 1 req (entered 31 (.held theirs) live)).locks.entry 31).state.claim? = some theirs ∧ theirs.owner ≠ 1
      ∧ ((asked 1 req live).locks.entry 31).gen ≠ 5#8 ∧ ((asked 1 req live).locks.entry 31).state = .free := by decide

theorem witness_RenewSetsTheLease :
    let req : Request := .renew ⟨31, 5#8⟩ 0
    ((asked 1 req (entered 31 (.held mine) live)).request 1 = some req
        ∧ (asked 1 req (entered 31 (.held mine) live)).locks.entry 31 = ⟨5#8, .held mine⟩ ∧ mine.owner = 1)
      ∧ (asked 1 req (entered 31 (.waiting mine 9) live)).locks.entry 31 = ⟨5#8, .waiting mine 9⟩
      ∧ (asked 1 req (entered 31 (.orphaned mine 9 true) live)).locks.entry 31 = ⟨5#8, .orphaned mine 9 true⟩
      ∧ ((asked 1 req (entered 31 (.held theirs) live)).locks.entry 31).state.claim? = some theirs ∧ theirs.owner ≠ 1
      ∧ ((asked 1 req live).locks.entry 31).gen ≠ 5#8 := by decide

theorem witness_AdoptTakesTheOrphanBack :
    let req : Request := .adopt ⟨0, 5#8⟩
    ((asked 1 req (entered 0 (.orphaned mine 9 true) live)).request 1 = some req
        ∧ (asked 1 req (entered 0 (.orphaned mine 9 true) live)).locks.entry 0 = ⟨5#8, .orphaned mine 9 true⟩
        ∧ mine.owner = 1)
      ∧ (asked 1 req (entered 0 (.orphaned mine 9 false) live)).locks.entry 0 = ⟨5#8, .orphaned mine 9 false⟩
      ∧ (asked 1 req (entered 0 (.orphaned theirs 9 true) live)).locks.entry 0 = ⟨5#8, .orphaned theirs 9 true⟩
      ∧ theirs.owner ≠ 1
      ∧ ((asked 1 req (entered 0 (.held theirs) live)).locks.entry 0).state = .held theirs
      ∧ ((asked 1 req (entered 0 (.waiting mine 9) live)).locks.entry 0).state = .waiting mine 9
      ∧ ((asked 1 req live).locks.entry 0).gen ≠ 5#8 := by decide

/-- The supervisor is port 0 and port 1 is not. -/
theorem witness_SupervisorReclaimsAndForces :
    let req : Request := .reclaim ⟨0, 5#8⟩
    let s := asked 0 req (entered 0 (.orphaned mine 9 true) live)
    (s.request 0 = some req ∧ (0 : Port) = s.supervisor ∧ s.locks.entry 0 = ⟨5#8, .orphaned mine 9 true⟩
        ∧ ∀ j : LockSlot, (s.locks.entry j).state.waiting? = none)
      ∧ ((asked 1 req live).request 1 = some req ∧ (1 : Port) ≠ (asked 1 req live).supervisor)
      ∧ (entered 31 (.waiting { theirs with owner := 0 } 9) s).locks.waitingOf 0 = some 31
      ∧ ((asked 0 req (entered 0 (.held theirs) live)).locks.entry 0).state = .held theirs
      ∧ ((asked 0 req (entered 0 (.waiting mine 9) live)).locks.entry 0).state = .waiting mine 9
      ∧ ((asked 0 req live).locks.entry 0).gen ≠ 5#8 := by decide

theorem witness_SupervisorReclaimsAndForces_force :
    let req : Request := .forceRelease 31
    ((asked 0 req live).request 0 = some req ∧ ((asked 0 req live).locks.entry 31).state = .free)
      ∧ ((asked 1 req live).request 1 = some req ∧ (1 : Port) ≠ (asked 1 req live).supervisor)
      ∧ ((asked 0 req (entered 31 (.held mine) live)).locks.entry 31).state = .held mine
      ∧ ((asked 0 req (entered 31 (.waiting mine 9) live)).locks.entry 31).state = .waiting mine 9
      ∧ ((asked 0 req (entered 31 (.orphaned mine 9 false) live)).locks.entry 31).state = .orphaned mine 9 false := by decide

/-- Two entries wait for granule 11, one with no entry against it, the other behind it. -/
theorem witness_SweepGrantsInArrivalOrder :
    let u := (entered 4 (.waiting mine 9) (entered 31 (.waiting theirs 9) live)).locks
    u.orderMatches ∧ u.order = [31, 4] ∧ u.sweep.1.order = [4] ∧ (u.sweep.1.entry 31).state = .held theirs
      ∧ theirs.conflicts mine = true := by decide

/-- An entry in each state at the ends of its ranges; channels with and without owner, fault and address; setting numbers at the ends of
each run of Table 9.2. -/
theorem witness_QueriesReportAndChangeNothing :
    ((asked 1 (.lockQuery 0) live).request 1 = some (.lockQuery 0) ∧ ((asked 1 (.lockQuery 0) live).locks.entry 0).state = .free)
      ∧ (let s := asked 1 (.lockQuery 31) (entered 31 (.waiting mine 65535) live);
        (s.locks.entry 31).state = .waiting mine 65535 ∧ s.locks.order.Nodup ∧ s.locks.order[0]? = some 31
          ∧ s.locks.order.length ≤ 32)
      ∧ ((asked 1 (.lockQuery 31) (entered 31 (.held mine) live)).locks.entry 31).state = .held mine
      ∧ ((asked 1 (.lockQuery 31) (entered 31 (.orphaned mine 9 true) live)).locks.entry 31).state = .orphaned mine 9 true
      ∧ (asked 1 (.channelQuery 7#8) live).request 1 = some (.channelQuery 7#8) ∧ 7 < (8#8 : Byte).toNat
      ∧ ((live.chan 7).index < 256 ∧ (live.chan 7).bytesMoved < 2 ^ 32 ∧ (live.chan 7).owner = none ∧ (live.chan 7).fault = none)
      ∧ ((chanIn .running).owner = some 1 ∧ (255 : Nat) < 256)
      ∧ (asked 1 (.configRead 0x0D#8) live).request 1 = some (.configRead 0x0D#8)
      ∧ (asked 1 (.configRead 0x0E#8) live).request 1 = some (.configRead 0x0E#8) := by decide

theorem witness_QueriesReportAndChangeNothing_settings :
    SettingHolds live 0x00 0x0440 ∧ SettingHolds live 0x0D 100 ∧ SettingHolds live 0x05 8 ∧ SettingHolds live 0x08 8
      ∧ SettingHolds live 0x10 1 ∧ SettingHolds live 0x13 1 ∧ SettingHolds live 0x14 0 ∧ SettingHolds live 0x17 0
      ∧ SettingHolds live 0x18 0 ∧ SettingHolds live 0x19 0 :=
  ⟨.inl (by decide), .inl (by decide), .inr (.inl ⟨0, by decide⟩), .inr (.inl ⟨3, by decide⟩), .inr (.inr (.inl ⟨0, by decide⟩)),
    .inr (.inr (.inl ⟨3, by decide⟩)), .inr (.inr (.inr ⟨0, by decide⟩)), .inr (.inr (.inr ⟨3, by decide⟩)),
    .inl (by decide), .inl (by decide)⟩

/-- The words answered for a WAITING entry, for a FAULTED channel, and for LINK_STATE_P1. -/
theorem test_report_words :
    let f : ChannelContext := { chanIn .faulted with index := 255, bytesMoved := 192, fault := some ⟨.locked, 255, some 0x3FFC0⟩ }
    (((after (.lockQuery 1) (asked 1 (.lockQuery 31) (entered 31 (.waiting mine 9) live))).link 1).responses.map fun r => r.words)
        = [[0x07010515#32, 0x0002000A#32, 0x00070007#32, 9#32]]
      ∧ (((after (.channelQuery 1) (asked 1 (.channelQuery 0#8) (live.setChan 0 f))).link 1).responses.map fun r => r.words)
        = [[0x0105FFD6#32, 192#32, 0x3FFC0#32]]
      ∧ (((after (.configRead 1) (asked 1 (.configRead 0x11#8) live)).link 1).responses.map fun r => r.words)
        = [[0x00030011#32]] := by decide

/-- Port 1's entries in each state beside another port's; a hold of 5000 and of 0. -/
theorem witness_LockPortDownOrphans :
    let s := (entered 3 (.held { theirs with first := 300 }) (entered 2 (.orphaned { mine with first := 200 } 9 true)
      (entered 1 (.waiting { theirs with owner := 1 } 9) (entered 0 (.held mine) live)))).setPortDown 1 ⟨some .soft, none, false⟩
    let z := s.setSettings { s.settings with orphanHold := 0#16 }
    s.locks.lawful ∧ (s.portDown 1).lock = some .soft ∧ s.settings.orphanHold.toNat = 5000
      ∧ z.settings.orphanHold.toNat = 0 ∧ (s.locks.entry 0).state = .held mine ∧ mine.owner = 1
      ∧ (s.locks.entry 1).state.waiting?.isSome = true ∧ (s.locks.entry 2).state = .orphaned { mine with first := 200 } 9 true
      ∧ (s.locks.entry 3).state = .held { theirs with first := 300 } := by decide

/-! ### Channels -/

theorem witness_ChannelStartBeginsARun :
    let req (b : Byte) (l : Word) (g : Option Handle) : Request := .channelStart b l g
    ((asked 1 (req 7#8 0x100#32 none) live).request 1 = some (req 7#8 0x100#32 none)
        ∧ ((asked 1 (req 7#8 0x100#32 none) live).chan 7).state = .idle ∧ (0x100#32 : Word).toNat % 16 = 0
        ∧ (7 : Channel).val = (7#8 : Byte).toNat)
      ∧ 7 < (8#8 : Byte).toNat ∧ (0x108#32 : Word).toNat % 16 ≠ 0
      ∧ (chanIn .complete).owner = some 1 ∧ (chanIn .complete).state = .complete
      ∧ (chanIn .running).state = .running
      ∧ (entered 0 (.held mine) live).locks.entry 0 = ⟨5#8, .held mine⟩ ∧ mine.owner = 1
      ∧ (live.locks.entry 0).state = .free := by decide

theorem witness_ChannelStopAndRelease :
    let s (st : ChanState) := asked 1 (.channelStop 0#8) (live.setChan 0 (chanIn st))
    let r (st : ChanState) := asked 1 (.channelRelease 0#8) (live.setChan 0 (chanIn st))
    (∀ st ∈ [ChanState.loading, .running, .stalled, .aborting, .complete, .faulted, .stopped],
      (s st).request 1 = some (.channelStop 0#8) ∧ ((s st).chan 0).state = st ∧ ((s st).chan 0).owner = some 1
        ∧ ((s st).chan 0).fault = none ∧ (s st).inFlight 0 = false
        ∧ (inProgress (.chan 0) (.read 1) (s st)).inFlight 0 = true
        ∧ (r st).request 1 = some (.channelRelease 0#8) ∧ ((r st).chan 0).state = st)
      ∧ ((s .running).chan 7).owner ≠ some 1 := by decide

/-- The words of a valid descriptor, not LAST, 128 bytes at granule 1. -/
def descWords : List Word := [0x00800200#32, 0x40#32, 0x1000#32, 0#32]

theorem witness_DescriptorRepliesAreTaken_words :
    decodeDescriptor descWords = some (moreDesc .toStore false) ∧ (decodeDescriptor []).isNone = true
      ∧ (decodeDescriptor [0x00800301#32, 0x40#32, 0x1000#32, 0#32]).isSome = true
      ∧ (decodeDescriptor [0x00800302#32, 0x40#32, 0x1000#32, 0#32]).isSome = true
      ∧ (decodeDescriptor [0x00800303#32, 0x40#32, 0x1000#32, 0#32]).isSome = true := by decide

theorem witness_DescriptorRepliesAreTaken :
    let cl (how : Ending) : ChannelClaim := .ending (hubReq .first (.fetch 0x100#32 16)) how
    let s (how : Ending) := told (cl how) (live.setChan 0 (chanIn .loading))
    (s (.replyOk descWords)).claimsOf 1 = [cl (.replyOk descWords)] ∧ (s .replyFailed).claimsOf 1 = [cl .replyFailed]
      ∧ ((s .replyFailed).chan 0).state = .loading ∧ ((s .replyFailed).chan 0).owner = some 1
      ∧ ((s .replyFailed).chan 0).chunks = [] ∧ (s .replyFailed).accessPresented 0 = false :=
  ⟨rfl, rfl, rfl, rfl, rfl, by decide⟩

/-- A lookahead's reply while data still moves, and with the data done and the run waiting for it. -/
theorem witness_DescriptorRepliesAreTaken_lookahead :
    let cl : ChannelClaim := .ending (hubReq .lookahead (.fetch 0x110#32 16)) .replyFailed
    let s := told cl (live.setChan 0 (moving .running (moreDesc .toStore false)))
    let w := told cl (live.setChan 0 { moving .running (moreDesc .toStore false) with chunks := [], index := 254 })
    (s.claimsOf 1 = [cl] ∧ (s.chan 0).state.active = true ∧ (s.chan 0).next = some .fetching ∧ (s.chan 0).owner = some 1
        ∧ (s.chan 0).dataDone = false)
      ∧ ((w.chan 0).dataDone = true ∧ (w.chan 0).index + 1 = 255 ∧ w.claimsOf 1 = [cl] ∧ (w.chan 0).state.active = true
        ∧ (w.chan 0).next = some .fetching ∧ (w.chan 0).owner = some 1) := by decide

/-- The lookahead brings descriptor 255: LAST it becomes current, not LAST it faults the run. -/
theorem test_descriptor_255 :
    let cl (d : List Word) : ChannelClaim := .ending (hubReq .lookahead (.fetch 0x110#32 16)) (.replyOk d)
    let w := live.setChan 0 { moving .running (moreDesc .toStore false) with chunks := [], index := 254 };
    ((after (.lookaheadReply 1) (told (cl descWords) w)).chan 0).fault = some ⟨.listTooLong, 255, none⟩
      ∧ ((after (.lookaheadReply 1) (told (cl [0x00800100#32, 0x40#32, 0x1000#32, 0#32]) w)).chan 0).state = .running
      ∧ ((after (.lookaheadReply 1) (told (cl [0x00800100#32, 0x40#32, 0x1000#32, 0#32]) w)).chan 0).index = 255 := by decide

theorem witness_ChunkRepliesMoveTheChunkOn :
    let k : Chunk := ⟨128, 0x1040#32, 64, [], .requested⟩
    let f : ChannelClaim := .ending (hubReq (.chunk 128) (.fetch 0x1040#32 64)) .replyFailed
    let s := told f (live.setChan 0 (moving .running (lastDesc .toStore)))
    (s.claimsOf 1 = [f] ∧ (s.chan 0).state = .running ∧ (s.chan 0).owner = some 1
        ∧ (s.chan 0).current = some (lastDesc .toStore) ∧ k ∈ (s.chan 0).chunks ∧ s.accessPresented 0 = false
        ∧ (s.chan 0).chunks.head? = some k ∧ ∀ d : Channel, (s.link 1).waiting[d] = [])
      ∧ ((live.setChan 0 (moving .stalled (lastDesc .toStore))).chan 0).state = .stalled := by decide

theorem witness_ChunkRepliesMoveTheChunkOn_store :
    let f : ChannelClaim := .ending (hubReq (.chunk 128) (.store 0x1040#32 [])) (.replyOk [])
    let s := told f (live.setChan 0 (moving .running (lastDesc .fromStore)))
    let m := told f (live.setChan 0 { moving .running (lastDesc .fromStore) with position := 64 })
    (s.claimsOf 1 = [f] ∧ (s.chan 0).current = some (lastDesc .fromStore) ∧ ((s.chan 0).chunkAt 128).isSome = true
        ∧ ((s.chan 0).retire 128).dataDone = true ∧ (lastDesc .fromStore).last = true)
      ∧ ((m.chan 0).retire 128).dataDone = false := by decide

/-- The reply to the last STORE of a descriptor that is not LAST, with each next-descriptor field. -/
theorem witness_ChunkRepliesMoveTheChunkOn_next :
    ∀ n ∈ [Lookahead.fetching, .valid (moreDesc .toStore false), .valid (lastDesc .toStore), .invalid .badDescriptor],
      let f : ChannelClaim := .ending (hubReq (.chunk 128) (.store 0x1040#32 [])) (.replyOk [])
      let s := told f (live.setChan 0 { moving .running (moreDesc .fromStore false) with next := some n, index := 254 })
      s.claimsOf 1 = [f] ∧ (s.chan 0).next = some n ∧ (s.chan 0).current = some (moreDesc .fromStore false)
        ∧ ((s.chan 0).chunkAt 128).isSome = true ∧ ((s.chan 0).retire 128).dataDone = true
        ∧ (moreDesc .fromStore false).last = false ∧ (s.chan 0).state = .running ∧ (s.chan 0).owner = some 1 := by decide

theorem witness_TimeoutsAndDropsAreTaken :
    let t (pu : Purpose) (how : Ending) (ctx : ChannelContext) :=
      told (.ending (hubReq pu (.fetch 0#32 16)) how) (live.setChan 0 ctx)
    ((t .first .timeout (chanIn .loading)).claimsOf 1 = [.ending (hubReq .first (.fetch 0#32 16)) .timeout]
        ∧ ((t .first .timeout (chanIn .loading)).chan 0).state = .loading)
      ∧ (t (.chunk 128) .timeout (moving .stalled (lastDesc .toStore))).claimsOf 1
        = [.ending (hubReq (.chunk 128) (.fetch 0#32 16)) .timeout]
      ∧ (((t .lookahead .timeout (moving .running (moreDesc .toStore false))).chan 0).dataDone = false
        ∧ ((t .lookahead .timeout (moving .running (moreDesc .toStore false))).chan 0).next = some .fetching
        ∧ ((t .lookahead .timeout { moving .running (moreDesc .toStore false) with chunks := [] }).chan 0).dataDone = true)
      ∧ ((t .first .dropped (chanIn .loading)).claimsOf 1 = [.ending (hubReq .first (.fetch 0#32 16)) .dropped]
        ∧ ((t .first .dropped (chanIn .loading)).link 1).link ≠ .up) := by decide

/-- An ABORTING channel under each end mode, with a fault and without, with nothing left in flight and with an access granted. -/
theorem witness_TimeoutsAndDropsAreTaken_abort :
    ∀ mode ∈ [EndMode.keep, .unbind], ∀ f ∈ [none, some (⟨.portDown, 0, none⟩ : FaultRecord)],
      let ctx : ChannelContext := { chanIn .aborting with endMode := some mode, fault := f }
      let s := told (.ending (hubReq .first (.fetch 0#32 16)) .replyFailed) (live.setChan 0 ctx)
      s.claimsOf 1 = [.ending (hubReq .first (.fetch 0#32 16)) .replyFailed] ∧ (s.chan 0).state = .aborting
        ∧ (s.chan 0).owner = some 1 ∧ s.waitingAccess 0 = none ∧ (s.chan 0).endMode = some mode ∧ (s.chan 0).fault = f
        ∧ (s.setClaims 1 []).inFlight 0 = false
        ∧ (inProgress (.chan 0) (.read 1) (s.setClaims 1 [])).inFlight 0 = true := by decide

/-- An ABORTING channel and each command that brings it an ending, the STORE's chunk in its list; and an access outcome. -/
theorem witness_TimeoutsAndDropsAreTaken_abort_each :
    (∀ x ∈ [(hubReq .first (.fetch 0#32 16), Ending.timeout), (hubReq .lookahead (.fetch 0#32 16), .dropped),
        (hubReq .first (.fetch 0#32 16), .replyOk []), (hubReq .lookahead (.fetch 0#32 16), .replyFailed),
        (hubReq (.chunk 128) (.fetch 0#32 64), .replyOk []), (hubReq (.chunk 128) (.store 0#32 []), .replyOk [])],
      let s := told (.ending x.1 x.2) (live.setChan 0 { moving .aborting (lastDesc .fromStore) with endMode := some .keep })
      s.claimsOf 1 = [.ending x.1 x.2] ∧ (s.chan 0).state = .aborting ∧ (s.chan 0).owner = some 1 ∧ s.waitingAccess 0 = none)
      ∧ movedByEnding (moving .aborting (lastDesc .fromStore)) (hubReq (.chunk 128) (.store 0#32 [])) (.replyOk []) = 64
      ∧ (let s := outcome (.write [7#32]) (.done [] none)
          (live.setChan 0 { moving .aborting (lastDesc .toStore) with endMode := some .keep });
        s.outcomeOf 0 = some (⟨128, ⟨128, .write [7#32], none⟩⟩, .done [] none) ∧ (s.chan 0).state = .aborting
          ∧ (s.chan 0).owner = some 1 ∧ s.waitingAccess 0 = none
          ∧ movedByOutcome (s.chan 0) ⟨128, ⟨128, .write [7#32], none⟩⟩ (.done [] none) = 64) := by decide

/-- Each refusal, with and without HALT_ON_LOCK, first and on a retry. -/
theorem witness_RefusedChunkStallsOrFaults :
    (∀ o ∈ [AccessOutcome.guardFailed, .lockRefused 31 .ownPort, .lockRefused 31 .otherPort, .dataError, .poisoned],
      ∀ halt ∈ [true, false],
      let s := outcome (.write [7#32]) o (live.setChan 0 (moving .running (moreDesc .toStore halt)))
      s.outcomeOf 0 = some (⟨128, ⟨128, .write [7#32], none⟩⟩, o) ∧ (s.chan 0).state = .running
        ∧ (s.chan 0).owner = some 1 ∧ (s.chan 0).current = some (moreDesc .toStore halt) ∧ (s.chan 0).stall = none
        ∧ ∀ d : Channel, (s.link 1).waiting[d] = [])
      ∧ (let r : StallRecord := ⟨2, 3, 500, ⟨128, ⟨128, .write [7#32], none⟩⟩⟩
        let s := outcome (.write [7#32]) .poisoned (live.setChan 0 { moving .stalled (moreDesc .toStore false) with stall := some r });
        (s.chan 0).state = .stalled ∧ (s.chan 0).stall = some r) := by decide

/-- A FROM_STORE channel whose next read is refused while a STORE of it waits, at a link whose one slot is filled. -/
def storeWaiting : State :=
  let s := live.setChan 0 (moving .running (moreDesc .fromStore false))
  let lc : LinkController := { s.link 1 with
    link := .up, slotsAllowed := 1, slots := (s.link 1).slots.set 0 ⟨0#4, some ⟨hubReq .first (.fetch 0#32 16), none⟩⟩ }
  outcome (.read 16) (.lockRefused 31 .otherPort) (s.setLink 1 (lc.enqueue (hubReq (.chunk 64) (.store 0x1000#32 []))))

theorem witness_RefusedChunkStallsOrFaults_storeWaits :
    (storeWaiting.outcomeOf 0 = some (⟨128, ⟨128, .read 16, none⟩⟩, .lockRefused 31 .otherPort)
        ∧ ∃ r ∈ (storeWaiting.link 1).waiting[(0 : Channel)], r.op.isStore = true)
      ∧ ∀ v, ¬GivesOne 1 storeWaiting v := by
  refine ⟨by decide, ?_⟩
  rintro v ⟨-, h, -, -, -, hlt, hfree, -⟩
  have full : ∀ h : HubSlot, h.val < (storeWaiting.link 1).slotsAllowed →
      (storeWaiting.link 1).outstanding h ≠ none := by decide
  exact full h hlt hfree

/-- A write that ends the descriptor's data, LAST and not with each next-descriptor field; one that does not; a read. -/
theorem witness_CarriedOutChunkMovesOn :
    let s (op : AccessOp) (ctx : ChannelContext) := outcome op (.done [] none) (live.setChan 0 ctx)
    let w := s (.write [7#32]) (moving .running (lastDesc .toStore))
    (w.outcomeOf 0 = some (⟨128, ⟨128, .write [7#32], none⟩⟩, .done [] none) ∧ (w.chan 0).state = .running
        ∧ (w.chan 0).owner = some 1 ∧ ((w.chan 0).chunkAt 128).isSome = true
        ∧ (∀ d : Channel, (w.link 1).waiting[d] = []) ∧ ((w.chan 0).retire 128).dataDone = true
        ∧ (w.chan 0).current = some (lastDesc .toStore))
      ∧ (∀ n ∈ [Lookahead.fetching, .valid (moreDesc .toStore false), .valid (lastDesc .toStore), .invalid .badDescriptor],
        let ctx : ChannelContext := { moving .running (moreDesc .toStore false) with next := some n, index := 254 }
        ((s (.write [7#32]) ctx).chan 0).next = some n ∧ ((s (.write [7#32]) ctx).chan 0).index + 1 = 255
          ∧ (((s (.write [7#32]) ctx).chan 0).retire 128).dataDone = true)
      ∧ ((s (.write [7#32]) (moving .running (lastDesc .toStore))).setOutcome 0 none).accessPresented 0 = false
      ∧ (((s (.write [7#32]) { moving .running (lastDesc .toStore) with position := 64 }).chan 0).retire 128).dataDone = false
      ∧ (let r := s (.read 16) (moving .running (lastDesc .storeCopy));
        (AccessOp.read 16).isWrite = false ∧ r.waitingAccess 0 = none ∧ r.grantedTo 0 = false
          ∧ (r.chan 0).chunks = [⟨128, 0x1040#32, 64, [], .requested⟩]) := by decide

/-- What each kind presents, or hands, next at position 64 of its descriptor. -/
theorem test_next_access :
    let s (k : DescKind) (op : AccessOp) := after (.channelAccessOutcome 0)
      (outcome op (.done [7#32] none) (live.setChan 0 { moving .running (lastDesc k) with position := 64 }))
    ((s .toStore (.write [7#32])).waitingAccess 0 = none
        ∧ ((s .toStore (.write [7#32])).link 1).waiting[(0 : Channel)] = [hubReq (.chunk 128) (.fetch 0x1040#32 64)])
      ∧ (s .fromStore (.read 16)).waitingAccess 0 = some ⟨128, ⟨128, .read 16, none⟩⟩
      ∧ (s .storeCopy (.write [7#32])).waitingAccess 0 = some ⟨128, ⟨0x1040, .read 16, none⟩⟩
      ∧ (s .storeFill (.write [7#32])).waitingAccess 0
        = some ⟨128, ⟨128, .write (List.replicate 16 0x1000#32), none⟩⟩ := by decide

theorem witness_AnnouncementRetriesTheStalled :
    let r : StallRecord := ⟨2, 3, 500, ⟨128, ⟨128, .write [7#32], none⟩⟩⟩
    let s := (live.setChan 0 { moving .stalled (moreDesc .toStore false) with stall := some r }).announce [⟨2, 1⟩, ⟨3, 1⟩]
    s.announcements = ⟨2, 1⟩ :: [⟨3, 1⟩] ∧ (s.chan 0).state = .stalled ∧ (s.chan 0).stall = some r ∧ 2 ≤ r.granule
      ∧ r.granule < 2 + 1 ∧ ¬(3 ≤ r.granule) ∧ s.accessPresented 0 = false ∧ (s.chan 1).state ≠ .stalled := by decide

/-- A retry that a port-down event withdraws leaves its chunk WRITING, and an announcement presents it again (log entry 38). -/
theorem test_withdrawn_retry :
    let r : StallRecord := ⟨2, 3, 500, ⟨128, ⟨128, .write [7#32], none⟩⟩⟩
    let stalled := live.setChan 0 { moving .stalled (moreDesc .toStore false) with stall := some r }
    let s := after .releaseAnnouncement (stalled.announce [⟨2, 1⟩, ⟨2, 1⟩])
    let t := after (.arbiterPortDown 1) (s.setPortDown 1 ⟨none, none, true⟩)
    s.waitingAccess 0 = some r.refused ∧ t.waitingAccess 0 = none ∧ t.chan 0 = s.chan 0
      ∧ (t.chan 0).chunks.map (fun k => k.state) = [.writing]
      ∧ (after .releaseAnnouncement t).waitingAccess 0 = some r.refused := by decide

/-- A channel of the port in each state, one of no port beside it, after a soft and a hard loss. -/
theorem witness_ChannelPortDownByState :
    ∀ loss ∈ [Loss.soft, .hard],
      ∀ st ∈ [ChanState.loading, .running, .stalled, .aborting, .complete, .faulted, .stopped],
      let s := told (.portDown loss) (live.setChan 0 (chanIn st))
      s.claimsOf 1 = [.portDown loss] ∧ (s.chan 0).owner = some 1 ∧ (s.chan 0).state = st ∧ (s.chan 1).owner ≠ some 1
        ∧ s.waitingAccess 0 = none ∧ (s.setClaims 1 []).inFlight 0 = false
        ∧ (inProgress (.chan 0) (.read 1) (s.setClaims 1 [])).inFlight 0 = true := by decide

/-! ### Notices, supervision, settings, laws -/

theorem witness_NoticeEventCoalesces :
    let s := ({ (linked .up 1 live).setQueue 1 [note (.peerUp 2) 255 (some 0#8), note (.peerUp 2) 255 none] with
      events := [[(1, .peerDown 2 .fence)], [(1, .peerUp 3), (0, .peerUp 3)]] } : State)
    (s.events[0]? = some ((1, .peerDown 2 .fence) :: []) ∧ (s.link 1).link ≠ .off ∧ (s.link 1).link ≠ .fenced
        ∧ s.queue 1 = [note (.peerUp 2) 255 (some 0#8)] ++ note (.peerUp 2) 255 none :: []
        ∧ (NoticeEvent.peerDown 2 .fence).subject ∉ pendingSubjects [note (.peerUp 2) 255 (some 0#8)])
      ∧ (s.events[1]? = some ((1, .peerUp 3) :: [(0, .peerUp 3)])
        ∧ (NoticeEvent.peerUp 3).subject ∉ pendingSubjects (s.queue 1))
      ∧ ((linked .off 1 s).link 1).link = .off ∧ ((linked .fenced 1 s).link 1).link = .fenced ∧ s.events.length ≤ 2 := by
  decide

/-- A peer that went down and came back: one record, of the event taken last (log entry 39). -/
theorem test_peer_events_in_either_order :
    let s : State := { linked .up 1 live with events := [[(1, .peerDown 2 .linkLoss)], [(1, .peerUp 2)]] }
    (after (.noticeEvent 0) (after (.noticeEvent 0) s)).queue 1 = [note (.peerUp 2) 2 none]
      ∧ (after (.noticeEvent 0) (after (.noticeEvent 1) s)).queue 1 = [note (.peerDown 2 .linkLoss) 2 none] := by decide

theorem witness_NoticeAckRemovesWhatWasSent :
    let s := (asked 1 (.noticeAck 0#8) live).setQueue 1
      [note (.peerUp 2) 1 (some 255#8), note (.peerUp 3) 1 (some 0#8), note (.peerUp 2) 1 none]
    s.request 1 = some (.noticeAck 0#8)
      ∧ s.queue 1 = [note (.peerUp 2) 1 (some 255#8)] ++ note (.peerUp 3) 1 (some 0#8) :: [note (.peerUp 2) 1 none]
      ∧ (note (.peerUp 2) 1 (some 255#8)).sent ≠ some 0#8 ∧ sentCount (s.queue 1) ≤ 4
      ∧ ∀ x ∈ (asked 1 (.noticeAck 0#8) live).queue 1, x.sent ≠ some 0#8 := by decide

theorem witness_PortDownWithdrawsAndRewinds :
    let q := [note (.peerDown 2 .linkLoss) 1 (some 0#8), note (.peerUp 2) 1 none]
    let s := ((waitingAt (.read 128#32 4#32 none) 4#16 .priority live).setQueue 1 q).setPortDown 1 ⟨none, some .soft, true⟩
    ((s.portDown 1).arbiter = true ∧ (s.link 1).service = some ⟨pkt 0x01#8 [], .read 128#32 4#32 none, .presented, false⟩
        ∧ (s.link 1).inbound = [])
      ∧ ((s.portDown 1).notice = some .soft ∧ queueLawful 1 (s.queue 1))
      ∧ (∀ sv ∈ ((live.setPortDown 1 ⟨none, none, true⟩).link 1).service, sv.stage ≠ .presented)
      ∧ ((s.setPortDown 1 ⟨none, some .hard, true⟩).portDown 1).notice = some .hard := by decide

/-- A setting of each command, in range and out of it, by the supervisor and by another port. -/
theorem witness_ConfigWriteSetsOneSetting :
    let s (p : Port) (n : Byte) (v : Half) := asked p (.configWrite n v) live
    (∀ n ∈ [0x02#8, 0x03#8, 0x04#8, 0x0D#8], (s 0 n 2#16).request 0 = some (.configWrite n 2#16))
      ∧ (0 : Port) = (s 0 4#8 2#16).supervisor ∧ (1 : Port) ≠ (s 1 4#8 2#16).supervisor
      ∧ ((s 0 2#8 2#16).link 2).link ≠ .up ∧ ((linked .up 2 (s 0 2#8 2#16)).link 2).link = .up
      ∧ (2 : Port).val = (2#16 : Half).toNat ∧ (5#16 : Half).toNat = 5 ∧ ¬((5#16 : Half).toNat ≤ 4) := by decide

theorem witness_FenceShutsAPortOut :
    let s (p : Port) (r : Request) := asked p r live
    ((s 0 (.fence 3)).request 0 = some (.fence 3) ∧ (0 : Port) = (s 0 (.fence 3)).supervisor
        ∧ ((s 0 (.fence 3)).link 3).link = .down ∧ ((linked .up 3 (s 0 (.fence 3))).link 3).link = .up
        ∧ ((linked .fenced 3 (s 0 (.fence 3))).link 3).link = .fenced)
      ∧ ((s 0 (.fence 0)).request 0 = some (.fence 0)) ∧ ((s 1 (.fence 3)).request 1 = some (.fence 3))
      ∧ ((s 0 (.unfence 3)).request 0 = some (.unfence 3) ∧ ((s 0 (.unfence 3)).link 3).link ≠ .fenced
        ∧ ((linked .fenced 3 (s 0 (.unfence 3))).link 3).link = .fenced)
      ∧ ((s 1 (.unfence 3)).request 1 = some (.unfence 3) ∧ (1 : Port) ≠ (s 1 (.unfence 3)).supervisor) := by decide

theorem witness_EveryStepKeepsTheStoreForm : live.memoryLawful := by decide

theorem witness_EveryStepKeepsTheStoreForm_poison : (granted false (.read 1) (live.setPoison [0, 4095])).poisonInStore := by decide

theorem witness_EveryStepKeepsTheLockLaws : knot.locks.lawful := by decide

/-- Port 2 waits for port 1, and no other port waits. -/
theorem witness_EveryStepKeepsTheLockLaws_noCycle : knot.locks.noCycle := by
  have only : ∀ a b : Port, knot.locks.waitsFor a b = true → a = 2 ∧ b = 1 := by decide
  intro p hp
  have first : ∀ q, Relation.TransGen (fun a b => knot.locks.waitsFor a b = true) p q → q = 1 := by
    intro q hq
    cases hq with
    | single h => exact (only _ _ h).2
    | tail _ h => exact (only _ _ h).2
  have last : p = 2 := by
    cases Relation.TransGen.head'_iff.mp hp with
    | intro b h => exact (only _ _ h.1).1
  rw [last] at first
  exact absurd (first 2 (last ▸ hp)) (by decide)

theorem witness_EveryStepKeepsTheNoticeLaw : live.noticesLawful := by decide

theorem witness_EveryStepKeepsTheLinkLaw : ∀ p, ((granted false (.read 1) live).link p).lawful := by decide

theorem witness_EveryStepKeepsTheChannelLaw :
    ∀ c, ((live.setChan 0 (moving .running (lastDesc .toStore))).chan c).lawful := by decide

set_option synthInstance.maxSize 100000 in
set_option synthInstance.maxHeartbeats 400000 in
set_option maxRecDepth 8000 in
/-- A RUNNING channel with a chunk's FETCH in slot 7 of its port. -/
theorem witness_EveryStepKeepsTheChannelLaw_flight :
    ∀ c, (let s := slottedChunk (live.setChan 0 (moving .running (moreDesc .toStore false)));
      (s.chan c).lawful ∧ s.flightLawful c) := by decide

theorem witness_EveryStepKeepsBlocksQuietOutsideRun : (after .pwrokRise State.reset).quietOutsideRun := by decide

theorem witness_EveryStepKeepsTheLaws_step (s : State) (h : s.pending = []) : step s = .next s.idle := by
  unfold step
  rw [h]

end Sys2Proof.Tests
end

section
/-! SUPPORT. The store's canonical form without its bounds: what accesses, cuts and INIT keep of it; and changes that leave the
store, the poison set and the sequencing state. -/

namespace Sys2Proof.Machine

/-! ### The canonical form of the store's two lists -/

/-- Both lists of the store are in canonical form over its background (log entry 19). -/
def Store.Canonical (st : Store) : Prop :=
  cellsWf st.background.byte st.bytes = true ∧ cellsWf st.background.condition st.conditions = true

/-- A change of the store that leaves its background and keeps its canonical form. -/
structure Store.FormKept (st st' : Store) : Prop where
  background : st'.background = st.background
  canonical : st.Canonical → st'.Canonical

theorem Store.Canonical.bytes_rising {st : Store} (h : st.Canonical) : cellsRising st.bytes = true :=
  ((cellsWf_iff _ _).mp h.1).1

theorem Store.Canonical.conditions_rising {st : Store} (h : st.Canonical) : cellsRising st.conditions = true :=
  ((cellsWf_iff _ _).mp h.2).1

theorem State.memoryLawful.canonical {s : State} (h : s.memoryLawful) : s.store.Canonical := ⟨h.1, h.2.1⟩

theorem State.memoryLawful.poison_rising {s : State} (h : s.memoryLawful) : setRising s.poison = true := by
  obtain ⟨_, _, hset, _⟩ := h
  exact hset

theorem Store.FormKept.refl (st : Store) : st.FormKept st := ⟨rfl, id⟩

theorem Store.FormKept.trans {st st' st'' : Store} (h : st.FormKept st') (h' : st'.FormKept st'') : st.FormKept st'' :=
  ⟨h'.background.trans h.background, fun hc => h'.canonical (h.canonical hc)⟩

theorem Store.FormKept.writeByte (st : Store) (a : Nat) (b : Byte) : st.FormKept (st.writeByte a b) :=
  ⟨rfl, fun h => ⟨cellsWf_cellsWrite _ _ _ _ h.1, h.2⟩⟩

theorem Store.FormKept.setCondition (st : Store) (w : Nat) (c : Condition) : st.FormKept (st.setCondition w c) :=
  ⟨rfl, fun h => ⟨h.1, cellsWf_cellsWrite _ _ _ _ h.2⟩⟩

theorem Store.FormKept.writeWord (st : Store) (w : Nat) (v : Word) : st.FormKept (st.writeWord w v) :=
  ((((FormKept.writeByte ..).trans (.writeByte ..)).trans (.writeByte ..)).trans (.writeByte ..)).trans (.setCondition ..)

theorem Store.FormKept.writeWords (st : Store) (w : Nat) (l : List Word) : st.FormKept (st.writeWords w l) := by
  induction l generalizing st w with
  | nil => exact .refl st
  | cons v rest ih => exact (FormKept.writeWord st w v).trans (ih _ _)

theorem Store.FormKept.correct (st : Store) (w : Nat) : st.FormKept (st.correct w) := by
  unfold Store.correct
  split
  · exact .refl st
  · exact .setCondition ..
  · exact .refl st

theorem Store.FormKept.correctAll (st : Store) (w n : Nat) : st.FormKept (st.correctAll w n) := by
  induction n generalizing st w with
  | zero => exact .refl st
  | succ n ih => exact (FormKept.correct st w).trans (ih _ _)

theorem Store.FormKept.atomicEffect (st : Store) (w : Nat) (new : Word → Option Word) (swapped : Word → Option Bool) :
    st.FormKept (atomicEffect st w new swapped).store := by
  unfold Machine.atomicEffect
  split
  · exact .refl st
  all_goals
    split
    · exact .writeWord ..
    · exact .correct ..

/-- An access carried out keeps the form (R12 to R15). -/
theorem Store.FormKept.carryOut (a : StoreAccess) (st : Store) : st.FormKept (a.carryOut st).store := by
  unfold StoreAccess.carryOut
  cases a.op with
  | read n => dsimp only; split <;> exact .correctAll ..
  | write data => exact .writeWords ..
  | fetchAdd x => exact .atomicEffect ..
  | swap v => exact .atomicEffect ..
  | compareSwap e v => exact .atomicEffect ..

theorem Store.FormKept.cutWrite (st : Store) (n w : Nat) (v : Word) : st.FormKept (st.cutWrite n w v) := by
  unfold Store.cutWrite
  split
  · exact .writeWord ..
  · split
    · exact .writeWord ..
    · exact .setCondition ..
    · exact .setCondition ..

theorem Store.FormKept.cutWrites (st : Store) (n w : Nat) (l : List Word) : st.FormKept (st.cutWrites n w l) := by
  induction l generalizing st w with
  | nil => exact .refl st
  | cons v rest ih => exact (FormKept.cutWrite st n w v).trans (ih _ _)

theorem Store.FormKept.cutReads (st : Store) (n w k : Nat) : st.FormKept (st.cutReads n w k) := by
  induction k generalizing st w with
  | zero => exact .refl st
  | succ k ih =>
    refine Store.FormKept.trans ?_ (ih _ _)
    split
    · exact .correct ..
    · exact .refl st

/-- An access cut by warm reset keeps the form (R9). -/
theorem Store.FormKept.cut (a : StoreAccess) (n : Nat) (st : Store) : st.FormKept (a.cut n st) := by
  unfold StoreAccess.cut
  cases a.op with
  | read k => exact .cutReads ..
  | write data => exact .cutWrites ..
  | fetchAdd x =>
    dsimp only
    split
    · exact .refl st
    · exact .cutWrite ..
  | swap v =>
    dsimp only
    split
    · exact .refl st
    · exact .cutWrite ..
  | compareSwap e v =>
    dsimp only
    split
    · exact .refl st
    · split
      · exact .cutWrite ..
      · exact .cutReads ..

theorem Store.FormKept.cutStore (s : State) : s.store.FormKept s.cutStore := by
  unfold State.cutStore
  split
  · exact .cut ..
  · exact .refl _

/-- A filtered list of cells keeps its form over a background that agrees with the old one on what is left. -/
theorem cellsWf_filter {α : Type} [DecidableEq α] {bg bg' : Nat → α} (keep : Nat × α → Bool) (l : List (Nat × α))
    (h : cellsWf bg l = true) (hbg : ∀ e ∈ l, keep e = true → bg' e.1 = bg e.1) : cellsWf bg' (l.filter keep) = true := by
  obtain ⟨hr, hn⟩ := (cellsWf_iff bg l).mp h
  refine (cellsWf_iff bg' _).mpr ⟨cellsRising_filter keep l hr, fun e he => ?_⟩
  obtain ⟨hm, hk⟩ := List.mem_filter.mp he
  rw [hbg e hm hk]
  exact hn e hm

/-- INIT stopped where nothing had been filled keeps the form (R8). -/
theorem Store.Canonical.stopInit {st : Store} (h : st.Canonical) (n : Nat) (hf : st.background.filled = 0) :
    (st.stopInit n).Canonical := by
  refine ⟨cellsWf_filter _ _ h.1 fun e _ hk => ?_, cellsWf_filter _ _ h.2 fun e _ hk => ?_⟩
  · have hk' := of_decide_eq_true hk
    rw [Background.byte_above _ _ (by omega : st.background.filled ≤ e.1 / 4)]
    exact Background.byte_above _ _ (show Config.initProgress n % 65536 ≤ e.1 / 4 by omega)
  · have hk' := of_decide_eq_true hk
    rw [Background.condition_above _ _ (by omega : st.background.filled ≤ e.1)]
    exact Background.condition_above _ _ (show Config.initProgress n % 65536 ≤ e.1 by omega)

/-! ### The poison set -/

/-- An access keeps the poison set rising (R4, R6). -/
theorem setRising_poisonAfter (poison : List Nat) (a : StoreAccess) (met : Bool) (h : setRising poison = true) :
    setRising (poisonAfter poison a met) = true := by
  unfold poisonAfter
  split
  · exact setRising_setInsert _ _ h
  · split
    · exact setRising_setErase _ _ h
    · exact h

/-- What an access leaves in the poison set was there, or is its granule. -/
theorem mem_poisonAfter {poison : List Nat} {a : StoreAccess} {met : Bool} {g : Nat} (h : g ∈ poisonAfter poison a met) :
    g = granuleOf a.addr ∨ g ∈ poison := by
  unfold poisonAfter at h
  split at h
  · exact (mem_setInsert _ _ _).mp h
  · split at h
    · exact Or.inr ((mem_setErase _ _ _).mp h).1
    · exact Or.inr h

theorem setRising_cutPoison (s : State) (h : setRising s.poison = true) : setRising s.cutPoison = true := by
  unfold State.cutPoison
  split
  · split
    · exact setRising_setInsert _ _ h
    · exact h
  · exact h

/-- What a warm reset leaves in the poison set was there, or is the granule of the access it cuts (R9). -/
theorem mem_cutPoison {s : State} {n : Nat} (h : n ∈ s.cutPoison) :
    n ∈ s.poison ∨ ∃ g, s.arbiter.inProgress = some g ∧ n = granuleOf g.access.addr := by
  unfold State.cutPoison at h
  split at h
  · next g hg =>
    split at h
    · exact ((mem_setInsert _ _ _).mp h).elim (fun he => Or.inr ⟨g, hg, he⟩) Or.inl
    · exact Or.inl h
  · exact Or.inl h

end Sys2Proof.Machine
end

section
/-! SUPPORT. The addresses of the Channel Engine lie in the store: what its operations keep of that (R10, R93), and what they leave of
the Link Controllers. -/

namespace Sys2Proof.Machine

/-! ### Descriptors and chunks -/

/-- A descriptor that passed the checks of R93 lies in the store. -/
theorem decodeDescriptor_inStore {ws : List Word} {d : Descriptor} (h : decodeDescriptor ws = some d) : d.inStore := by
  unfold decodeDescriptor at h
  split at h
  · split at h
    · split at h
      · next k _ hv =>
        cases h
        simp only [descriptorValid, Bool.and_eq_true, decide_eq_true_eq] at hv
        obtain ⟨⟨⟨⟨⟨⟨⟨_, hcount⟩, _⟩, _⟩, _⟩, hstore⟩, hfar⟩, _⟩ := hv
        refine ⟨?_, fun hk => ?_⟩
        · dsimp only
          omega
        · dsimp only at hk
          subst hk
          simp only [farValid, Bool.and_eq_true, decide_eq_true_eq] at hfar
          dsimp only
          omega
      · cases h
    · cases h
  · cases h

/-- The next chunk of a descriptor in the store begins in the store. -/
theorem nextChunk_store_lt {d : Descriptor} (hd : d.inStore) {pos : Nat} (hp : pos < d.count) :
    (nextChunk d pos).store < 0x40000 := by
  have hs : (nextChunk d pos).store = d.store + pos := by unfold nextChunk; split <;> rfl
  have := hd.1
  omega

/-- The next chunk of a STORE_COPY descriptor is copied from inside the store. -/
theorem nextChunk_far_lt {d : Descriptor} (hd : d.inStore) {pos : Nat} (hp : pos < d.count) (hk : d.kind = .storeCopy) :
    (nextChunk d pos).far.toNat < 0x40000 := by
  have hf : (nextChunk d pos).far = d.far + BitVec.ofNat 32 pos := by simp [nextChunk, chunkFar, hk]
  have := hd.2 hk
  rw [hf, BitVec.toNat_add, BitVec.toNat_ofNat]
  omega

theorem ChannelContext.inStore_reset : ChannelContext.reset.inStore :=
  ⟨fun _ h => (by cases h), fun _ h => (by cases h), fun _ h => (by cases h), fun _ h => (by cases h)⟩

/-- A context with other chunks, each in the store, and all else that it has still to access as before. -/
theorem ChannelContext.inStore.withChunks {ctx ctx' : ChannelContext} (h : ctx.inStore) (hc : ctx'.current = ctx.current)
    (hn : ctx'.next = ctx.next) (hs : ctx'.stall = ctx.stall) (hk : ∀ k ∈ ctx'.chunks, k.store < 0x40000) :
    ctx'.inStore := by
  obtain ⟨hcur, hnext, _, hstall⟩ := h
  exact ⟨hc ▸ hcur, hn ▸ hnext, hk, hs ▸ hstall⟩

theorem ChannelContext.inStore.addChunk {ctx : ChannelContext} (h : ctx.inStore) {k : Chunk} (hk : k.store < 0x40000) :
    (ctx.addChunk k).inStore := by
  obtain ⟨_, _, hchunks, _⟩ := id h
  refine h.withChunks rfl rfl rfl fun j hj => ?_
  rcases List.mem_append.mp hj with hj | hj
  · exact hchunks j hj
  · rw [List.mem_singleton.mp hj]
    exact hk

/-- Chunk records changed in place, their store addresses kept. -/
theorem ChannelContext.inStore.mapChunks {ctx : ChannelContext} (h : ctx.inStore) (f : Chunk → Chunk)
    (hf : ∀ k, (f k).store = k.store) : ({ ctx with chunks := ctx.chunks.map f } : ChannelContext).inStore := by
  obtain ⟨_, _, hchunks, _⟩ := id h
  refine h.withChunks rfl rfl rfl fun j hj => ?_
  obtain ⟨k, hk, rfl⟩ := List.mem_map.mp hj
  rw [hf]
  exact hchunks k hk

theorem ChannelContext.inStore.setChunkState {ctx : ChannelContext} (h : ctx.inStore) (store : Nat) (st : ChunkState) :
    (ctx.setChunkState store st).inStore := h.mapChunks _ fun _ => by split <;> rfl

theorem ChannelContext.inStore.fillChunk {ctx : ChannelContext} (h : ctx.inStore) (store : Nat) (data : List Word)
    (st : ChunkState) : (ctx.fillChunk store data st).inStore := h.mapChunks _ fun _ => by split <;> rfl

theorem ChannelContext.inStore.retire {ctx : ChannelContext} (h : ctx.inStore) (store : Nat) : (ctx.retire store).inStore := by
  unfold ChannelContext.retire
  split
  · obtain ⟨_, _, hchunks, _⟩ := id h
    exact h.withChunks rfl rfl rfl fun j hj => hchunks j (List.mem_of_mem_filter hj)
  · exact h

/-! ### Updates of State -/

/-- What a presented request accesses lies in the store (R10). -/
def LinkController.PresentedInStore (lc : LinkController) : Prop :=
  ∀ sv ∈ lc.service, sv.stage = .presented → ∀ a ∈ sv.req.access?, a.1.addr < 0x40000

theorem State.poisonInStore.granule {s : State} (h : s.poisonInStore) {n : Nat} (hn : n ∈ s.poison) : n < 4096 := h.1 n hn

theorem State.poisonInStore.granted {s : State} (h : s.poisonInStore) {g : Granted} (hg : s.arbiter.inProgress = some g) :
    g.access.addr < 0x40000 := by
  obtain ⟨_, hprog, _⟩ := h
  exact hprog g hg

theorem State.poisonInStore.link {s : State} (h : s.poisonInStore) (p : Port) : (s.link p).PresentedInStore := by
  obtain ⟨_, _, hlink, _⟩ := h
  exact hlink p

theorem State.poisonInStore.chan {s : State} (h : s.poisonInStore) (c : Channel) : (s.chan c).inStore := by
  obtain ⟨_, _, _, hchan⟩ := h
  obtain ⟨_, _, hctx⟩ := hchan c
  exact hctx

theorem State.poisonInStore.waiting {s : State} (h : s.poisonInStore) {c : Channel} {a : ChannelAccess}
    (ha : s.waitingAccess c = some a) : a.access.addr < 0x40000 := by
  obtain ⟨_, _, _, hchan⟩ := h
  exact (hchan c).1 a ha

theorem State.poisonInStore.outcome {s : State} (h : s.poisonInStore) {c : Channel} {a : ChannelAccess} {o : AccessOutcome}
    (ho : s.outcomeOf c = some (a, o)) : a.access.addr < 0x40000 := by
  obtain ⟨_, _, _, hchan⟩ := h
  obtain ⟨_, hout, _⟩ := hchan c
  exact hout (a, o) ho

theorem State.poisonInStore.setLink {s : State} (h : s.poisonInStore) {p : Port} {lc : LinkController}
    (hlc : lc.PresentedInStore) : (s.setLink p lc).poisonInStore := by
  obtain ⟨hpoison, hprog, hlink, hchan⟩ := h
  refine ⟨hpoison, hprog, fun q => ?_, hchan⟩
  rw [State.setLink_link]
  split
  · exact hlc
  · exact hlink q

theorem State.poisonInStore.setChan {s : State} (h : s.poisonInStore) {c : Channel} {ctx : ChannelContext}
    (hctx : ctx.inStore) : (s.setChan c ctx).poisonInStore := by
  obtain ⟨hpoison, hprog, hlink, hchan⟩ := h
  refine ⟨hpoison, hprog, hlink, fun d => ?_⟩
  obtain ⟨hwait, hout, hold⟩ := hchan d
  refine ⟨hwait, hout, ?_⟩
  rw [State.setChan_chan]
  split
  · exact hctx
  · exact hold

theorem State.poisonInStore.setWaiting {s : State} (h : s.poisonInStore) {c : Channel} {w : Option ChannelAccess}
    (hw : ∀ a ∈ w, a.access.addr < 0x40000) : (s.setWaiting c w).poisonInStore := by
  obtain ⟨hpoison, hprog, hlink, hchan⟩ := h
  refine ⟨hpoison, hprog, hlink, fun d => ?_⟩
  obtain ⟨hwait, hrest⟩ := hchan d
  refine ⟨?_, hrest⟩
  rw [State.setWaiting_waitingAccess]
  split
  · exact hw
  · exact hwait

theorem State.poisonInStore.setOutcome {s : State} (h : s.poisonInStore) {c : Channel}
    {w : Option (ChannelAccess × AccessOutcome)} (hw : ∀ o ∈ w, o.1.access.addr < 0x40000) :
    (s.setOutcome c w).poisonInStore := by
  obtain ⟨hpoison, hprog, hlink, hchan⟩ := h
  refine ⟨hpoison, hprog, hlink, fun d => ?_⟩
  obtain ⟨hwait, hout, hctx⟩ := hchan d
  refine ⟨hwait, ?_, hctx⟩
  rw [State.setOutcome_outcomeOf]
  split
  · exact hw
  · exact hout

/-! ### What the Channel Engine's operations keep -/

/-- A change of the Channel Engine: of a Link Controller it touches what belongs to hub requests alone, and it presents no access
outside the store. -/
structure EngineKeeps (s t : State) : Prop where
  link : ∀ q, t.link q = { s.link q with slots := (t.link q).slots, unsent := (t.link q).unsent
                                         waiting := (t.link q).waiting, lastServed := (t.link q).lastServed }
  inStore : s.poisonInStore → t.poisonInStore

theorem EngineKeeps.refl (s : State) : EngineKeeps s s := ⟨fun _ => rfl, id⟩

theorem EngineKeeps.trans {s t u : State} (h : EngineKeeps s t) (h' : EngineKeeps t u) : EngineKeeps s u := by
  refine ⟨fun q => ?_, fun hs => h'.inStore (h.inStore hs)⟩
  have hq := h'.link q
  rw [h.link q] at hq
  exact hq

theorem EngineKeeps.setChan {s : State} {c : Channel} {ctx : ChannelContext} (h : s.poisonInStore → ctx.inStore) :
    EngineKeeps s (s.setChan c ctx) := ⟨fun _ => rfl, fun hs => hs.setChan (h hs)⟩

theorem EngineKeeps.setWaiting {s : State} {c : Channel} {w : Option ChannelAccess}
    (h : s.poisonInStore → ∀ a ∈ w, a.access.addr < 0x40000) : EngineKeeps s (s.setWaiting c w) :=
  ⟨fun _ => rfl, fun hs => hs.setWaiting (h hs)⟩

theorem EngineKeeps.withdrawWaiting (s : State) (c : Channel) : EngineKeeps s (s.setWaiting c none) :=
  .setWaiting fun _ _ h => (by cases h)

theorem EngineKeeps.hand (s : State) (l : List Handed) : EngineKeeps s (s.hand l) := ⟨fun _ => rfl, id⟩

theorem EngineKeeps.setClaims (s : State) (p : Port) (l : List ChannelClaim) : EngineKeeps s (s.setClaims p l) :=
  ⟨fun _ => rfl, id⟩

theorem EngineKeeps.asOneAction {s t : State} (h : EngineKeeps s t) : EngineKeeps s (s.asOneAction t) := ⟨h.link, h.inStore⟩

/-- Hub requests put into a Link Controller, given slots there, or withdrawn. -/
theorem EngineKeeps.setLink {s : State} {p : Port} {lc : LinkController}
    (h : lc = { s.link p with slots := lc.slots, unsent := lc.unsent, waiting := lc.waiting, lastServed := lc.lastServed }) :
    EngineKeeps s (s.setLink p lc) := by
  refine ⟨fun q => ?_, fun hs => hs.setLink ?_⟩
  · by_cases hq : q = p
    · subst hq
      rw [State.setLink_link_self]
      exact h
    · rw [State.setLink_link_other _ _ hq]
  · rw [h]
    exact hs.link p

theorem EngineKeeps.handOwner (s : State) (c : Channel) (e : NoticeEvent) : EngineKeeps s (s.handOwner c e) := by
  unfold State.handOwner
  split
  · exact .hand ..
  · exact .refl s

theorem EngineKeeps.handHub (s : State) (r : HubRequest) : EngineKeeps s (s.handHub r) := by
  unfold State.handHub
  split
  · exact .setLink rfl
  · exact .refl s

theorem EngineKeeps.withdrawHub (s : State) (c : Channel) : EngineKeeps s (s.withdrawHub c) := by
  unfold State.withdrawHub
  split
  · exact .setLink rfl
  · exact .refl s

theorem EngineKeeps.noteSlotGiven (s : State) (r : HubRequest) : EngineKeeps s (s.noteSlotGiven r) := by
  unfold State.noteSlotGiven
  split
  · exact .setChan fun hs => (hs.chan _).setChunkState ..
  · exact .refl s

theorem EngineKeeps.giveSlotsUpTo (s : State) (p : Port) (n : Nat) : EngineKeeps s (s.giveSlotsUpTo p n) := by
  induction n generalizing s with
  | zero => exact .refl s
  | succ n ih =>
    unfold State.giveSlotsUpTo
    split
    · next lc r hg =>
      obtain ⟨_, _, _, _, _, _, _, hlc⟩ := LinkController.giveSlot_eq_some hg
      exact ((EngineKeeps.setLink (by rw [hlc])).trans (.noteSlotGiven ..)).trans (ih _)
    · exact .refl s

theorem EngineKeeps.giveSlots (s : State) (p : Port) : EngineKeeps s (s.giveSlots p) := .giveSlotsUpTo s p 8

theorem EngineKeeps.giveOwnerSlots (s : State) (o : Option Port) : EngineKeeps s (s.giveOwnerSlots o) := by
  unfold State.giveOwnerSlots
  split
  · exact .giveSlots ..
  · exact .refl s

/-- A context that has dropped its run's descriptors and chunks has nothing to access but what its stall record holds. -/
theorem ChannelContext.inStore.cleared {ctx ctx' : ChannelContext} (h : ctx.inStore) (hc : ctx'.current = none)
    (hn : ctx'.next = none ∨ ctx'.next = ctx.next) (hk : ctx'.chunks = [] ∨ ctx'.chunks = ctx.chunks)
    (hs : ctx'.stall = none ∨ ctx'.stall = ctx.stall) : ctx'.inStore := by
  obtain ⟨_, hnext, hchunks, hstall⟩ := h
  refine ⟨fun d hd => ?_, fun n hm => ?_, fun k hm => ?_, fun r hr => ?_⟩
  · rw [hc] at hd
    cases hd
  · rcases hn with hn | hn <;> rw [hn] at hm
    · cases hm
    · exact hnext n hm
  · rcases hk with hk | hk <;> rw [hk] at hm
    · cases hm
    · exact hchunks k hm
  · rcases hs with hs | hs <;> rw [hs] at hr
    · cases hr
    · exact hstall r hr

theorem EngineKeeps.finishAborting (s : State) (c : Channel) : EngineKeeps s (s.finishAborting c) := by
  unfold State.finishAborting
  split
  · split
    · exact .setChan fun _ => ChannelContext.inStore_reset
    · refine EngineKeeps.trans (.setChan fun hs => ?_) (.handOwner ..)
      exact (hs.chan c).cleared rfl (.inr rfl) (.inl rfl) (.inr rfl)
  · exact .refl s

/-- A context that has lost its lookahead and its stall record. -/
theorem ChannelContext.inStore.stopped {ctx ctx' : ChannelContext} (h : ctx.inStore) (hc : ctx'.current = ctx.current)
    (hk : ctx'.chunks = ctx.chunks) (hn : ctx'.next = none) (hs : ctx'.stall = none) : ctx'.inStore := by
  obtain ⟨hcur, _, hchunks, _⟩ := h
  refine ⟨hc ▸ hcur, fun n hm => ?_, hk ▸ hchunks, fun r hr => ?_⟩
  · rw [hn] at hm
    cases hm
  · rw [hs] at hr
    cases hr

theorem EngineKeeps.enterAborting (s : State) (c : Channel) (m : EndMode) : EngineKeeps s (s.enterAborting c m) := by
  unfold State.enterAborting
  refine (((EngineKeeps.setChan fun hs => ?_).trans (.withdrawWaiting ..)).trans (.withdrawHub ..)).trans (.finishAborting ..)
  exact (hs.chan c).stopped rfl rfl rfl rfl

theorem EngineKeeps.faultWith (s : State) (c : Channel) (m : EndMode) (code : FaultCode) (i : Nat) (a : Option Nat) :
    EngineKeeps s (s.faultWith c m code i a) := by
  refine EngineKeeps.trans (.setChan fun hs => ?_) (.enterAborting ..)
  exact hs.chan c

theorem EngineKeeps.faultRun (s : State) (c : Channel) (code : FaultCode) (i : Nat) (a : Option Nat) :
    EngineKeeps s (s.faultRun c code i a) := .faultWith ..

theorem EngineKeeps.completeRun (s : State) (c : Channel) : EngineKeeps s (s.completeRun c) := by
  refine EngineKeeps.trans (.setChan fun hs => ?_) (.handOwner ..)
  exact (hs.chan c).cleared rfl (.inl rfl) (.inr rfl) (.inl rfl)

/-! ### Moving data: the current descriptor bounds what is presented -/

theorem State.poisonInStore.descriptor {s : State} (h : s.poisonInStore) {c : Channel} {d : Descriptor}
    (hd : (s.chan c).current = some d) : d.inStore := (h.chan c).1 d hd

@[simp] theorem State.handHub_chan (s : State) (r : HubRequest) (c : Channel) : (s.handHub r).chan c = s.chan c := by
  unfold State.handHub
  split <;> rfl

/-- A new chunk's FETCH leaves the current descriptor. -/
theorem State.createFetch_current (s : State) (c : Channel) (d : Descriptor) :
    ((s.createFetch c d).chan c).current = (s.chan c).current := by
  simp [State.createFetch, ChannelContext.addChunk]

theorem State.createFetches_current (s : State) (c : Channel) (d : Descriptor) (n : Nat) :
    ((s.createFetches c d n).chan c).current = (s.chan c).current := by
  induction n generalizing s with
  | zero => rfl
  | succ n ih =>
    unfold State.createFetches
    split
    · rw [ih, State.createFetch_current]
    · rfl

theorem State.createChunks_current (s : State) (c : Channel) (d : Descriptor) :
    ((s.createChunks c d).chan c).current = (s.chan c).current := by
  unfold State.createChunks
  split
  · split
    · exact State.createFetches_current ..
    · rfl
  all_goals rfl

/-- A chunk of the current descriptor is created. -/
theorem EngineKeeps.addChunk {s : State} {c : Channel} {d : Descriptor} (hd : (s.chan c).current = some d)
    (hp : (s.chan c).position < d.count) :
    EngineKeeps s (s.setChan c ((s.chan c).addChunk (nextChunk d (s.chan c).position))) :=
  .setChan fun hs => (hs.chan c).addChunk (nextChunk_store_lt (hs.descriptor hd) hp)

theorem EngineKeeps.createFetches {s : State} {c : Channel} {d : Descriptor} (hd : (s.chan c).current = some d) (n : Nat) :
    EngineKeeps s (s.createFetches c d n) := by
  induction n generalizing s with
  | zero => exact .refl s
  | succ n ih =>
    unfold State.createFetches
    split
    · next h =>
      have hfetch : EngineKeeps s (s.createFetch c d) := (EngineKeeps.addChunk hd h.2).trans (.handHub ..)
      exact hfetch.trans (ih (by rw [State.createFetch_current, hd]))
    · exact .refl s

theorem EngineKeeps.presentFirst (s : State) (c : Channel) : EngineKeeps s (s.presentFirst c) := by
  unfold State.presentFirst
  split
  · next k rest hk =>
    split
    · refine ⟨fun _ => rfl, fun hs => ?_⟩
      obtain ⟨_, _, hchunks, _⟩ := hs.chan c
      refine (hs.setChan ((hs.chan c).setChunkState ..)).setWaiting fun a ha => ?_
      cases ha
      exact hchunks k (hk ▸ List.mem_cons_self)
    · exact .refl s
  · exact .refl s

/-- A chunk of the current descriptor is created and its read presented, from inside the store. -/
theorem EngineKeeps.createRead {s : State} {c : Channel} {d : Descriptor} {access : Option Handle → Chunk → ChannelAccess}
    (hd : (s.chan c).current = some d) (hp : (s.chan c).position < d.count)
    (ha : d.inStore → (access (s.chan c).guard (nextChunk d (s.chan c).position)).access.addr < 0x40000) :
    EngineKeeps s (s.createRead c d access) := by
  refine ⟨fun _ => rfl, fun hs => ((EngineKeeps.addChunk hd hp).inStore hs).setWaiting fun a h => ?_⟩
  cases h
  exact ha (hs.descriptor hd)

theorem EngineKeeps.presentNext {s : State} {c : Channel} {d : Descriptor} (hd : (s.chan c).current = some d) :
    EngineKeeps s (s.presentNext c d) := by
  unfold State.presentNext
  split
  · exact .presentFirst ..
  · split
    · next h => exact .createRead hd h.2 fun hin => nextChunk_store_lt hin h.2
    · exact .refl s
  · next hk =>
    split
    · next h => exact .createRead hd h.2 fun hin => nextChunk_far_lt hin h.2 hk
    · exact .presentFirst ..
  · split
    · next h => exact (EngineKeeps.addChunk hd h.2).trans (.presentFirst ..)
    · exact .presentFirst ..

theorem EngineKeeps.createChunks {s : State} {c : Channel} {d : Descriptor} (hd : (s.chan c).current = some d) :
    EngineKeeps s (s.createChunks c d) := by
  unfold State.createChunks
  split
  · split
    · exact .createFetches hd 4
    · exact .refl s
  all_goals exact .refl s

theorem EngineKeeps.work (s : State) (c : Channel) : EngineKeeps s (s.work c) := by
  unfold State.work
  split
  · exact .refl s
  · next d hd =>
    dsimp only
    have hchunks := EngineKeeps.createChunks hd
    split
    · exact hchunks.trans (.presentNext (by rw [State.createChunks_current, hd]))
    · exact hchunks

/-! ### Advancing through the list -/

theorem EngineKeeps.handLookahead (s : State) (c : Channel) : EngineKeeps s (s.handLookahead c) := by
  refine EngineKeeps.trans (.setChan fun hs => ?_) (.handHub ..)
  obtain ⟨hcur, _, hchunks, hstall⟩ := hs.chan c
  exact ⟨hcur, fun n hn d hd => (by cases hn; cases hd), hchunks, hstall⟩

theorem EngineKeeps.becomeCurrent {s : State} {d : Descriptor} (hd : s.poisonInStore → d.inStore) (c : Channel) (i : Nat) :
    EngineKeeps s (s.becomeCurrent c d i) := by
  have hcur : EngineKeeps s (s.setChan c { s.chan c with
      state := .running, current := some d, index := i, position := 0, next := none, stall := none }) := by
    refine .setChan fun hs => ?_
    obtain ⟨_, _, hchunks, _⟩ := hs.chan c
    exact ⟨fun e he => (by cases he; exact hd hs), fun _ h => (by cases h), hchunks, fun _ h => (by cases h)⟩
  unfold State.becomeCurrent
  dsimp only
  split
  · exact hcur.trans (.work ..)
  · split
    · exact hcur.trans (.faultRun ..)
    · split
      · exact hcur.trans ((EngineKeeps.handLookahead ..).trans (.work ..))
      · exact hcur.trans ((EngineKeeps.work ..).trans (.handLookahead ..))

theorem EngineKeeps.advance (s : State) (c : Channel) : EngineKeeps s (s.advance c) := by
  unfold State.advance
  split
  · next d hd =>
    refine .becomeCurrent (fun hs => ?_) ..
    obtain ⟨_, hnext, _, _⟩ := hs.chan c
    exact hnext _ hd d rfl
  · exact .faultRun ..
  all_goals exact .refl s

theorem EngineKeeps.descriptorDone (s : State) (c : Channel) (d : Descriptor) : EngineKeeps s (s.descriptorDone c d) := by
  unfold State.descriptorDone
  dsimp only
  have hmark : EngineKeeps s (if d.notify then s.handOwner c (.channelMark c (s.chan c).index) else s) := by
    split
    · exact .handOwner ..
    · exact .refl s
  split
  · exact hmark.trans (.completeRun ..)
  · exact hmark.trans (.advance ..)

theorem EngineKeeps.progress (s : State) (c : Channel) : EngineKeeps s (s.progress c) := by
  unfold State.progress
  split
  · split
    · exact .descriptorDone ..
    · exact .work ..
  · exact .refl s

/-! ### The endings of hub requests -/

theorem EngineKeeps.retire (s : State) (c : Channel) (store : Nat) :
    EngineKeeps s (s.setChan c ((s.chan c).retire store)) := .setChan fun hs => (hs.chan c).retire store

theorem EngineKeeps.fillChunk (s : State) (c : Channel) (store : Nat) (data : List Word) (st : ChunkState) :
    EngineKeeps s (s.setChan c ((s.chan c).fillChunk store data st)) := .setChan fun hs => (hs.chan c).fillChunk store data st

theorem EngineKeeps.endingInAbort (s : State) (c : Channel) (r : HubRequest) (how : Ending) :
    EngineKeeps s (s.endingInAbort c r how) := by
  unfold State.endingInAbort
  split
  · exact (EngineKeeps.retire ..).trans (.finishAborting ..)
  · exact .finishAborting ..

theorem EngineKeeps.firstEnding (s : State) (c : Channel) (how : Ending) : EngineKeeps s (s.firstEnding c how) := by
  unfold State.firstEnding
  split
  · split
    · next d hd => exact .becomeCurrent (fun _ => decodeDescriptor_inStore hd) ..
    · exact .faultRun ..
  · exact .faultRun ..
  · exact .faultRun ..
  · exact .refl s

/-- A lookahead holds a descriptor in the store (R93, R95). -/
theorem lookaheadOf_inStore {how : Ending} {d : Descriptor} (h : d ∈ (lookaheadOf how).valid?) : d.inStore := by
  unfold lookaheadOf at h
  split at h
  · split at h
    · next hd =>
      cases h
      exact decodeDescriptor_inStore hd
    · cases h
  all_goals cases h

theorem EngineKeeps.lookaheadEnding (s : State) (c : Channel) (how : Ending) : EngineKeeps s (s.lookaheadEnding c how) := by
  have hnext : EngineKeeps s (s.setChan c { s.chan c with next := some (lookaheadOf how) }) := by
    refine .setChan fun hs => ?_
    obtain ⟨hcur, _, hchunks, hstall⟩ := hs.chan c
    exact ⟨hcur, fun n hn d hd => (by cases hn; exact lookaheadOf_inStore hd), hchunks, hstall⟩
  unfold State.lookaheadEnding
  dsimp only
  split
  · exact hnext.trans (.advance ..)
  · exact hnext

theorem EngineKeeps.chunkFetchEnding (s : State) (c : Channel) (st : Nat) (how : Ending) :
    EngineKeeps s (s.chunkFetchEnding c st how) := by
  unfold State.chunkFetchEnding
  split
  · exact (EngineKeeps.fillChunk ..).trans (.work ..)
  · exact .faultRun ..
  · exact .faultRun ..
  · exact .refl s

theorem EngineKeeps.chunkStoreEnding (s : State) (c : Channel) (st : Nat) (how : Ending) :
    EngineKeeps s (s.chunkStoreEnding c st how) := by
  unfold State.chunkStoreEnding
  split
  · exact (EngineKeeps.retire ..).trans (.progress ..)
  · exact .faultRun ..
  · exact .faultRun ..
  · exact .refl s

theorem EngineKeeps.activeEnding (s : State) (c : Channel) (r : HubRequest) (how : Ending) :
    EngineKeeps s (s.activeEnding c r how) := by
  unfold State.activeEnding
  split
  · split
    · exact .firstEnding ..
    · exact .refl s
  · split
    · exact .lookaheadEnding ..
    · exact .refl s
  · exact .chunkFetchEnding ..
  · exact .chunkStoreEnding ..

theorem EngineKeeps.takeEnding (s : State) (r : HubRequest) (how : Ending) : EngineKeeps s (s.takeEnding r how) := by
  unfold State.takeEnding
  split
  · exact .endingInAbort ..
  · split
    · exact .activeEnding ..
    · exact .refl s

theorem EngineKeeps.chanPortDown (s : State) (loss : Loss) (c : Channel) : EngineKeeps s (s.chanPortDown loss c) := by
  unfold State.chanPortDown
  split
  case h_7 =>
    refine EngineKeeps.trans (.setChan fun hs => ?_) (.finishAborting ..)
    exact hs.chan c
  case h_8 | h_9 | h_10 => exact .setChan fun _ => ChannelContext.inStore_reset
  case h_1 | h_2 | h_3 | h_4 | h_5 | h_6 => exact .faultWith ..
  all_goals exact .refl s

/-- A change made for each of some channels in turn keeps what each change keeps. -/
theorem EngineKeeps.foldl {f : State → Channel → State} (hf : ∀ s c, EngineKeeps s (f s c)) (l : List Channel) (s : State) :
    EngineKeeps s (l.foldl f s) := by
  induction l generalizing s with
  | nil => exact .refl s
  | cons c rest ih => exact (hf s c).trans (ih _)

theorem EngineKeeps.carryClaim (s : State) (p : Port) (cl : ChannelClaim) : EngineKeeps s (s.carryClaim p cl) := by
  unfold State.carryClaim
  split
  · exact ((EngineKeeps.takeEnding ..).trans (.giveSlots ..)).asOneAction
  · exact (EngineKeeps.foldl (fun t c => .chanPortDown t _ c) _ s).asOneAction

theorem EngineKeeps.takeClaim (s : State) (p : Port) : EngineKeeps s (s.takeClaim p) := by
  unfold State.takeClaim
  split
  · exact (EngineKeeps.setClaims ..).trans (.carryClaim ..)
  · exact .refl s

theorem EngineKeeps.takeClaims (s : State) (p : Port) (n : Nat) : EngineKeeps s (s.takeClaims p n) := by
  induction n generalizing s with
  | zero => exact .refl s
  | succ n ih => exact (EngineKeeps.takeClaim s p).trans (ih _)

/-! ### Outcomes and announcements -/

theorem EngineKeeps.stallChannel {s : State} {a : ChannelAccess} (ha : a.access.addr < 0x40000) (c : Channel) :
    EngineKeeps s (s.stallChannel c a) := by
  unfold State.stallChannel
  refine .setChan fun hs => ?_
  have hback : (if a.access.op.isWrite then (s.chan c).setChunkState a.chunk .dataHeld else s.chan c).inStore := by
    split
    · exact (hs.chan c).setChunkState ..
    · exact hs.chan c
  obtain ⟨hcur, hnext, hchunks, _⟩ := hback
  obtain ⟨_, _, _, hstall⟩ := hs.chan c
  refine ⟨hcur, hnext, hchunks, fun r hr => ?_⟩
  cases hr
  split
  · next r hr => exact hstall r hr
  · exact ha

theorem EngineKeeps.lockRefusedChannel {s : State} {a : ChannelAccess} (ha : a.access.addr < 0x40000) (c : Channel)
    (cls : RefusalClass) : EngineKeeps s (s.lockRefusedChannel c a cls) := by
  unfold State.lockRefusedChannel
  split
  · exact .faultRun ..
  · split
    · split
      · exact .faultRun ..
      · exact .stallChannel ha c
    · exact .refl s

theorem EngineKeeps.chunkCarriedOut (s : State) (c : Channel) (a : ChannelAccess) (data : List Word) :
    EngineKeeps s (s.chunkCarriedOut c a data) := by
  unfold State.chunkCarriedOut
  split
  · exact (EngineKeeps.retire ..).trans (.progress ..)
  · split
    · split
      · exact ((EngineKeeps.fillChunk ..).trans (.handHub ..)).trans (.work ..)
      · exact (EngineKeeps.fillChunk ..).trans (.work ..)
    · exact .refl s

theorem EngineKeeps.endStall (s : State) (c : Channel) : EngineKeeps s (s.endStall c) := by
  refine .setChan fun hs => ?_
  obtain ⟨hcur, hnext, hchunks, _⟩ := hs.chan c
  exact ⟨hcur, hnext, hchunks, fun _ h => (by cases h)⟩

theorem EngineKeeps.activeOutcome {s : State} {a : ChannelAccess} (ha : a.access.addr < 0x40000) (c : Channel)
    (o : AccessOutcome) : EngineKeeps s (s.activeOutcome c a o) := by
  unfold State.activeOutcome
  split
  · exact (EngineKeeps.endStall ..).trans (.chunkCarriedOut ..)
  · exact .faultRun ..
  · exact .lockRefusedChannel ha ..
  · exact .faultRun ..
  · exact .faultRun ..

theorem EngineKeeps.outcomeInAbort (s : State) (c : Channel) (a : ChannelAccess) (o : AccessOutcome) :
    EngineKeeps s (s.outcomeInAbort c a o) := by
  unfold State.outcomeInAbort
  split
  · split
    · exact (EngineKeeps.retire ..).trans (.finishAborting ..)
    · exact .finishAborting ..
  · exact .finishAborting ..

theorem EngineKeeps.takeOutcome {s : State} {a : ChannelAccess} (ha : a.access.addr < 0x40000) (c : Channel)
    (o : AccessOutcome) : EngineKeeps s (s.takeOutcome c a o) := by
  unfold State.takeOutcome
  split
  · exact .activeOutcome ha ..
  · exact .activeOutcome ha ..
  · exact .outcomeInAbort ..
  all_goals exact .refl s

theorem EngineKeeps.retryStalled (s : State) (r : GranuleRange) (c : Channel) : EngineKeeps s (s.retryStalled r c) := by
  unfold State.retryStalled
  split
  · next st _ hst =>
    split
    · refine ⟨fun _ => by split <;> rfl, fun hs => ?_⟩
      obtain ⟨_, _, _, hstall⟩ := hs.chan c
      refine State.poisonInStore.setWaiting ?_ fun a ha => ?_
      · split
        · exact hs.setChan ((hs.chan c).setChunkState ..)
        · exact hs
      · cases ha
        exact hstall st hst
    · exact .refl s
  · exact .refl s

end Sys2Proof.Machine
end

section
/-! SUPPORT. Changes that leave the store, the poison set and the sequencing state, and let no access outside the store in: which of
the hub's operations and commands are such changes. -/

namespace Sys2Proof.Machine

/-- A change that leaves the store, the poison set and the sequencing state, and brings no access outside the store (R10). -/
structure StoreUntouched (s t : State) : Prop where
  store : t.store = s.store
  poison : t.poison = s.poison
  seqState : t.seqState = s.seqState
  inStore : s.poisonInStore → t.poisonInStore

theorem StoreUntouched.refl (s : State) : StoreUntouched s s := ⟨rfl, rfl, rfl, id⟩

theorem StoreUntouched.trans {s t u : State} (h : StoreUntouched s t) (h' : StoreUntouched t u) : StoreUntouched s u :=
  ⟨h'.store.trans h.store, h'.poison.trans h.poison, h'.seqState.trans h.seqState, fun hs => h'.inStore (h.inStore hs)⟩

theorem StoreUntouched.memoryLawful {s t : State} (h : StoreUntouched s t) (hs : s.memoryLawful) : t.memoryLawful := by
  unfold State.memoryLawful
  rw [h.store, h.poison, h.seqState]
  exact hs

/-- An action of the Channel Engine is such a change. -/
theorem StoreUntouched.ofEngine {s t : State} (h : EngineOnly s t) (hin : s.poisonInStore → t.poisonInStore) :
    StoreUntouched s t := by
  obtain ⟨_, hseq, _, _, _, _, hstore, hpoison, _⟩ := h.kept
  exact ⟨hstore, hpoison, hseq, hin⟩

theorem StoreUntouched.setLink {s : State} {p : Port} {lc : LinkController}
    (h : (s.link p).PresentedInStore → lc.PresentedInStore) : StoreUntouched s (s.setLink p lc) :=
  ⟨rfl, rfl, rfl, fun hs => hs.setLink (h (hs.link p))⟩

/-- The request in service stays as it is. -/
theorem StoreUntouched.setLinkKeepingService {s : State} {p : Port} {lc : LinkController}
    (h : lc.service = (s.link p).service := by rfl) : StoreUntouched s (s.setLink p lc) :=
  .setLink fun hp sv hsv => hp sv (h ▸ hsv)

/-- What is handed between blocks, and what is sent, is no access. -/
theorem StoreUntouched.hand {s t : State} (h : StoreUntouched s t) (l : List Handed) : StoreUntouched s (t.hand l) :=
  ⟨h.store, h.poison, h.seqState, h.inStore⟩

theorem StoreUntouched.claim {s t : State} (h : StoreUntouched s t) (p : Port) (cl : ChannelClaim) :
    StoreUntouched s (t.claim p cl) := ⟨h.store, h.poison, h.seqState, h.inStore⟩

theorem StoreUntouched.setPortDown {s t : State} (h : StoreUntouched s t) (p : Port) (d : PortDownClaims) :
    StoreUntouched s (t.setPortDown p d) := ⟨h.store, h.poison, h.seqState, h.inStore⟩

theorem StoreUntouched.setQueue {s t : State} (h : StoreUntouched s t) (p : Port) (q : List NoticeRecord) :
    StoreUntouched s (t.setQueue p q) := ⟨h.store, h.poison, h.seqState, h.inStore⟩

theorem StoreUntouched.send {s t : State} (h : StoreUntouched s t) (p : Port) (pkt : Packet) :
    StoreUntouched s (t.send p pkt) := ⟨h.store, h.poison, h.seqState, h.inStore⟩

theorem StoreUntouched.lockEffect {s t : State} (h : StoreUntouched s t) (e : LockEffect) :
    StoreUntouched s (t.lockEffect e) := ⟨h.store, h.poison, h.seqState, h.inStore⟩

/-! ### The dispatcher -/

/-- A request not presented has nothing at the arbiter. -/
theorem LinkController.presentedInStore_of_stage {lc : LinkController} (h : ∀ sv ∈ lc.service, sv.stage ≠ .presented) :
    lc.PresentedInStore := fun sv hsv hst => absurd hst (h sv hsv)

/-- The request taken next is only handed to its block (R155). -/
theorem takeNext_stage {l : List Packet} {sv : Service} (h : (takeNext l).1 = some sv) : sv.stage = .handed := by
  induction l with
  | nil => cases h
  | cons pkt rest ih =>
    unfold takeNext at h
    split at h
    · cases h
      rfl
    · exact ih h

theorem LinkController.PresentedInStore.dispatch {lc : LinkController} (h : lc.PresentedInStore) :
    lc.dispatch.PresentedInStore := by
  unfold LinkController.dispatch
  split
  · exact h
  · refine LinkController.presentedInStore_of_stage fun sv hsv => ?_
    rw [takeNext_stage hsv]
    exact nofun

theorem LinkController.presentedInStore_of_idle {lc : LinkController} (h : lc.service = none) : lc.PresentedInStore :=
  presentedInStore_of_stage fun sv hsv => by rw [h] at hsv; cases hsv

/-- An IDLE dispatcher that takes the next request presents nothing. -/
theorem LinkController.presentedInStore_dispatch_of_idle {lc : LinkController} (h : lc.service = none) :
    lc.dispatch.PresentedInStore := (presentedInStore_of_idle h).dispatch

theorem LinkController.presentedInStore_granted (lc : LinkController) : (lc.setStage .granted).PresentedInStore := by
  refine presentedInStore_of_stage fun sv hsv => ?_
  obtain ⟨sv', _, rfl⟩ := Option.map_eq_some_iff.mp hsv
  exact nofun

theorem LinkController.presentedInStore_lose (lc : LinkController) (dest : LinkState) (cause : DownCause) :
    (lc.lose dest cause).PresentedInStore := by
  refine presentedInStore_of_stage fun sv (hsv : keptService lc.service = some sv) => ?_
  unfold keptService at hsv
  split at hsv
  · split at hsv
    · next hst =>
      cases hsv
      rw [hst]
      exact nofun
    · cases hsv
  · cases hsv

theorem StoreUntouched.answer (s : State) (p : Port) (st : Status) (d : Option Half) (w : List Word) :
    StoreUntouched s (s.answer p st d w) := by
  unfold State.answer
  split
  · exact .setLink fun _ => LinkController.presentedInStore_dispatch_of_idle rfl
  · exact .refl s

/-! ### The links -/

theorem StoreUntouched.dropSlot (s : State) (p : Port) (h : HubSlot) : StoreUntouched s (s.dropSlot p h) := by
  unfold State.dropSlot
  split
  · exact .claim .setLinkKeepingService ..
  · exact .refl s

theorem StoreUntouched.foldl {α : Type} {f : State → α → State} (hf : ∀ s a, StoreUntouched s (f s a)) (l : List α)
    (s : State) : StoreUntouched s (l.foldl f s) := by
  induction l generalizing s with
  | nil => exact .refl s
  | cons a rest ih => exact (hf s a).trans (ih _)

theorem StoreUntouched.dropAll (s : State) (p : Port) : StoreUntouched s (s.dropAll p) := by
  have hdrops := StoreUntouched.foldl (fun t h => .dropSlot t p h) allHubSlots s
  unfold State.dropAll
  dsimp only
  generalize allHubSlots.foldl (fun t h => t.dropSlot p h) s = t at hdrops
  exact hdrops.trans .setLinkKeepingService

theorem StoreUntouched.portDownEvent (s : State) (p : Port) (dest : LinkState) (cause : DownCause) (loss : Loss) :
    StoreUntouched s (s.portDownEvent p dest cause loss) := by
  have hlost : StoreUntouched s (s.setLink p ((s.link p).lose dest cause)) :=
    .setLink fun _ => (s.link p).presentedInStore_lose dest cause
  have hdropped := hlost.trans (.dropAll _ p)
  unfold State.portDownEvent
  generalize (s.setLink p ((s.link p).lose dest cause)).dropAll p = t at hdropped
  exact ((hdropped.claim ..).setPortDown ..).hand _

theorem StoreUntouched.takeLockPortDown (s : State) (p : Port) : StoreUntouched s (s.takeLockPortDown p) := by
  unfold State.takeLockPortDown
  split
  · exact .refl s
  · exact ((StoreUntouched.refl s).lockEffect _).setPortDown ..

theorem LinkController.PresentedInStore.withdrawPresented {lc : LinkController} (h : lc.PresentedInStore) :
    lc.withdrawPresented.PresentedInStore := by
  unfold LinkController.withdrawPresented
  split
  · split
    · exact LinkController.presentedInStore_dispatch_of_idle rfl
    · exact h
  · exact h

theorem StoreUntouched.withdrawAccess (s : State) (c : Channel) : StoreUntouched s (s.withdrawAccess c) :=
  .ofEngine (.setWaiting ..) (EngineKeeps.withdrawWaiting s c).inStore

theorem StoreUntouched.takeArbiterPortDown (s : State) (p : Port) : StoreUntouched s (s.takeArbiterPortDown p) := by
  unfold State.takeArbiterPortDown
  split
  · have hwithdrawn := StoreUntouched.foldl .withdrawAccess (s.boundTo p) s
    exact (hwithdrawn.trans (.setLink fun h => h.withdrawPresented)).setPortDown ..
  · exact .refl s

theorem StoreUntouched.takeNoticePortDown (s : State) (p : Port) : StoreUntouched s (s.takeNoticePortDown p) := by
  unfold State.takeNoticePortDown
  split
  · exact .refl s
  all_goals exact ((StoreUntouched.refl s).setQueue ..).setPortDown ..

theorem StoreUntouched.takeClaims (s : State) (p : Port) (n : Nat) : StoreUntouched s (s.takeClaims p n) :=
  .ofEngine (.takeClaims ..) (EngineKeeps.takeClaims s p n).inStore

theorem StoreUntouched.takeClaim (s : State) (p : Port) : StoreUntouched s (s.takeClaim p) :=
  .ofEngine (.takeClaim ..) (EngineKeeps.takeClaim s p).inStore

theorem StoreUntouched.giveSlots (s : State) (p : Port) : StoreUntouched s (s.giveSlots p) :=
  .ofEngine (.giveSlots ..) (EngineKeeps.giveSlots s p).inStore

theorem StoreUntouched.settlePort (s : State) (p : Port) : StoreUntouched s (s.settlePort p) :=
  (((StoreUntouched.takeLockPortDown s p).trans (.takeArbiterPortDown ..)).trans (.takeClaims ..)).trans
    (.takeNoticePortDown ..)

theorem StoreUntouched.portUpEvent (s : State) (p : Port) : StoreUntouched s (s.portUpEvent p) := by
  have hsettled := StoreUntouched.settlePort s p
  unfold State.portUpEvent
  dsimp only
  generalize s.settlePort p = t at hsettled
  refine StoreUntouched.trans (.hand (hsettled.trans ?_) _) (.giveSlots ..)
  exact .setLinkKeepingService

theorem StoreUntouched.endRequest (s : State) (p : Port) (h : HubSlot) (r : HubRequest) (how : Ending) :
    StoreUntouched s (s.endRequest p h r how) := by
  have hfree : StoreUntouched s (s.setLink p ((s.link p).freeSlotOf h)) := .setLinkKeepingService
  exact (hfree.claim ..).trans (.giveSlots ..)

theorem StoreUntouched.linkFails (s : State) (p : Port) (cause : DownCause) : StoreUntouched s (s.linkFails p cause) := by
  unfold State.linkFails
  split
  · exact .portDownEvent ..
  · exact .setLinkKeepingService
  all_goals exact .refl s

theorem StoreUntouched.receiveHello (s : State) (p : Port) : StoreUntouched s (s.receiveHello p) := by
  unfold State.receiveHello
  split
  · split
    · exact .send .setLinkKeepingService ..
    · exact .refl s
  · exact .send (.refl s) ..
  all_goals exact .refl s

theorem StoreUntouched.takeReady (s : State) (p : Port) (n : Nat) : StoreUntouched s (s.takeReady p n) := by
  unfold State.takeReady
  dsimp only
  split
  · refine StoreUntouched.trans ?_ (.portUpEvent ..)
    exact .setLinkKeepingService
  · exact .setLinkKeepingService

theorem StoreUntouched.receiveReady (s : State) (p : Port) (word : Word) : StoreUntouched s (s.receiveReady p word) := by
  unfold State.receiveReady
  split
  · split
    · exact .refl s
    · split
      · exact .setLinkKeepingService
      · exact .takeReady ..
  all_goals exact .refl s

theorem StoreUntouched.accept (s : State) (p : Port) (pkt : Packet) :
    StoreUntouched s (s.setLink p ((s.link p).accept pkt)) := .setLink fun h => LinkController.PresentedInStore.dispatch h

theorem StoreUntouched.receiveRequest (s : State) (p : Port) (pkt : Packet) : StoreUntouched s (s.receiveRequest p pkt) := by
  unfold State.receiveRequest
  split
  · split
    · exact .portDownEvent ..
    · split
      · exact .portDownEvent ..
      · exact .accept ..
  · exact .setLinkKeepingService
  all_goals exact .refl s

theorem StoreUntouched.receiveFetchReply (s : State) (p : Port) (tag : Byte) (payload : List Word) :
    StoreUntouched s (s.receiveFetchReply p tag payload) := by
  unfold State.receiveFetchReply
  split
  · split
    · exact .endRequest ..
    · exact .refl s
  · exact .setLinkKeepingService
  all_goals exact .refl s

theorem StoreUntouched.receiveStoreReply (s : State) (p : Port) (tag : Byte) (payload : List Word) :
    StoreUntouched s (s.receiveStoreReply p tag payload) := by
  unfold State.receiveStoreReply
  split
  · split
    · exact .endRequest ..
    · exact .refl s
  · exact .setLinkKeepingService
  all_goals exact .refl s

theorem StoreUntouched.receivePacket (s : State) (p : Port) (pkt : Packet) : StoreUntouched s (s.receivePacket p pkt) := by
  unfold State.receivePacket
  split
  · exact .receiveFetchReply ..
  · exact .receiveStoreReply ..
  · exact .receiveHello ..
  · exact .receiveReady ..
  · exact .receiveRequest ..

theorem StoreUntouched.sendResponse (s : State) (p : Port) : StoreUntouched s (s.sendResponse p) := by
  unfold State.sendResponse
  split
  · exact .send .setLinkKeepingService ..
  · exact .refl s

theorem StoreUntouched.sendNotice (s : State) (p : Port) : StoreUntouched s (s.sendNotice p) := by
  unfold State.sendNotice
  split
  · next r _ =>
    have hmarked := (StoreUntouched.refl s).setQueue p (markSent (s.link p).noticeSeq (s.queue p))
    exact .send (hmarked.trans .setLinkKeepingService) ..
  · exact .refl s

theorem StoreUntouched.sendHubRequest (s : State) (p : Port) : StoreUntouched s (s.sendHubRequest p) := by
  unfold State.sendHubRequest
  split
  · split
    · exact .send .setLinkKeepingService ..
    · exact .refl s
  · exact .refl s

theorem StoreUntouched.assertPrst (s : State) (p : Port) : StoreUntouched s (s.assertPrst p) := by
  have hpin : StoreUntouched s (s.setLink p { s.link p with prst := true }) := .setLinkKeepingService
  unfold State.assertPrst
  dsimp only
  split
  · exact hpin.trans (.portDownEvent ..)
  · exact hpin.trans .setLinkKeepingService
  · exact hpin.trans .setLinkKeepingService
  all_goals exact hpin

theorem StoreUntouched.releasePrst (s : State) (p : Port) : StoreUntouched s (s.releasePrst p) := by
  have hpin : StoreUntouched s (s.setLink p { s.link p with prst := false }) := .setLinkKeepingService
  unfold State.releasePrst
  dsimp only
  split
  · exact hpin.trans .setLinkKeepingService
  all_goals exact hpin

theorem StoreUntouched.fenceLink (s : State) (q : Port) : StoreUntouched s (s.fenceLink q) := by
  unfold State.fenceLink
  split
  · exact .portDownEvent ..
  · exact .setLinkKeepingService
  · exact .setLinkKeepingService
  · exact .setLinkKeepingService
  · exact .refl s

theorem StoreUntouched.unfenceLink (s : State) (q : Port) : StoreUntouched s (s.unfenceLink q) := by
  unfold State.unfenceLink
  split
  · exact .setLinkKeepingService
  all_goals exact .refl s

/-! ### Channel requests -/

theorem StoreUntouched.channelStart (s : State) (p : Port) (chan : Byte) (list : Word) (guard : Option Handle) :
    StoreUntouched s (s.channelStart p chan list guard) := by
  unfold State.channelStart
  split
  · exact .answer ..
  · next c _ =>
    have hrun : StoreUntouched s (s.startRun p c list guard) := by
      refine StoreUntouched.trans ?_ (.answer ..)
      refine .ofEngine (((EngineOnly.setChan ..).trans (.handHub ..)).trans (.giveSlots ..)) (EngineKeeps.inStore ?_)
      refine ((EngineKeeps.setChan fun _ => ?_).trans (.handHub ..)).trans (.giveSlots ..)
      exact ChannelContext.inStore_reset
    split
    · exact .answer ..
    · split
      · exact .answer ..
      · split
        · exact .answer ..
        · exact hrun

theorem StoreUntouched.channelStop (s : State) (p : Port) (chan : Byte) : StoreUntouched s (s.channelStop p chan) := by
  unfold State.channelStop
  split
  · exact .answer ..
  · next c _ =>
    split
    · exact .answer ..
    · split
      · exact (StoreUntouched.ofEngine (.enterAborting ..) (EngineKeeps.enterAborting s c .keep).inStore).trans (.answer ..)
      · split
        · exact .answer ..
        · exact .answer ..

theorem StoreUntouched.channelRelease (s : State) (p : Port) (chan : Byte) : StoreUntouched s (s.channelRelease p chan) := by
  unfold State.channelRelease
  split
  · exact .answer ..
  · next c _ =>
    split
    · exact .answer ..
    · split
      · refine StoreUntouched.trans (.ofEngine (.setChan ..) (EngineKeeps.inStore ?_)) (.answer ..)
        exact .setChan fun _ => ChannelContext.inStore_reset
      · exact .answer ..

theorem StoreUntouched.channelQuery (s : State) (p : Port) (chan : Byte) : StoreUntouched s (s.channelQuery p chan) := by
  unfold State.channelQuery
  split
  · exact .answer ..
  · exact .answer ..

theorem StoreUntouched.writeSupervisor (s : State) (p q : Port) : StoreUntouched s (s.writeSupervisor p q) := by
  have hset : StoreUntouched s (s.setSettings { s.settings with supervisor := q }) := ⟨rfl, rfl, rfl, id⟩
  unfold State.writeSupervisor
  split
  · exact .answer ..
  · split
    · exact hset.trans (.answer ..)
    · exact .answer ..

/-! ### Presenting and granting -/

/-- The store access that a request asks for, where it asks for one, begins at the address given. -/
def Request.BeginsAt (req : Request) (addr : Word) : Prop := ∀ a ∈ req.access?, a.1.addr = addr.toNat

/-- A direct request that passes the checks of R10 begins in the store. -/
theorem addr_lt_of_directCheck {addr : Word} {len : Option Word} (h : directCheck addr len = none) :
    addr.toNat < 0x40000 := by
  have haddr : ∀ n, addressOk addr n = true → addr.toNat < 0x40000 := by
    intro n hn
    simp only [addressOk, Bool.and_eq_true, decide_eq_true_eq] at hn
    omega
  unfold directCheck at h
  split at h
  · split at h
    · split at h
      · next hok => exact haddr _ hok
      · cases h
    · cases h
  · split at h
    · next hok => exact haddr _ hok
    · cases h

theorem StoreUntouched.presentDirect {s : State} {p : Port} {req : Request} {addr : Word} (hreq : s.request p = some req)
    (haddr : req.BeginsAt addr) (len : Option Word) : StoreUntouched s (s.presentDirect p addr len) := by
  unfold State.presentDirect
  split
  · exact .answer ..
  · next hchk =>
    refine .setLink fun _ sv hsv _ a ha => ?_
    obtain ⟨sv', hsv', hr, _⟩ := State.request_eq_some hreq
    have hsv : (s.link p).service.map (fun sv => { sv with stage := Stage.presented }) = some sv := hsv
    rw [hsv'] at hsv
    cases hsv
    have ha : a ∈ sv'.req.access? := ha
    rw [hr] at ha
    rw [haddr a ha]
    exact addr_lt_of_directCheck hchk

theorem StoreUntouched.endDiscarded (s : State) (p : Port) : StoreUntouched s (s.endDiscarded p) := by
  have hidle : StoreUntouched s (s.setLink p (s.link p).discardService) :=
    .setLink fun _ => LinkController.presentedInStore_of_idle rfl
  unfold State.endDiscarded
  dsimp only
  split
  · exact hidle.trans (.portUpEvent ..)
  · exact hidle

theorem StoreUntouched.deliverDirect (s : State) (p : Port) (o : AccessOutcome) :
    StoreUntouched s (s.deliverDirect p o) := by
  unfold State.deliverDirect
  split
  · split
    · exact .endDiscarded ..
    · exact .answer ..
  · exact .refl s

theorem StoreUntouched.deliver {s : State} {a : ChannelAccess} (ha : s.poisonInStore → a.access.addr < 0x40000) (p : Port)
    (m : Member) (o : AccessOutcome) : StoreUntouched s (s.deliver p m a o) := by
  cases m with
  | dispatcher => exact .deliverDirect ..
  | chan c => exact ⟨rfl, rfl, rfl, fun hs => hs.setOutcome fun x hx => by cases hx; exact ha hs⟩

/-- An outcome on its way changes nothing of the store, whatever its access. -/
theorem State.memoryLawful.deliver {s : State} (h : s.memoryLawful) (p : Port) (m : Member) (a : ChannelAccess)
    (o : AccessOutcome) : (s.deliver p m a o).memoryLawful := by
  cases m with
  | dispatcher => exact (StoreUntouched.deliverDirect s p o).memoryLawful h
  | chan c => exact h

theorem StoreUntouched.takeAccess (s : State) (p : Port) (m : Member) : StoreUntouched s (s.takeAccess p m) := by
  cases m with
  | dispatcher => exact .setLink fun _ => LinkController.presentedInStore_granted _
  | chan c => exact .withdrawAccess s c

/-- An access refused at its grant: it is taken and its outcome handed on. -/
theorem StoreUntouched.refuse {s : State} {a : ChannelAccess} (ha : s.poisonInStore → a.access.addr < 0x40000) (p : Port)
    (m : Member) (o : AccessOutcome) : StoreUntouched s ((s.takeAccess p m).deliver p m a o) := by
  cases m with
  | dispatcher => exact (StoreUntouched.takeAccess s p .dispatcher).trans (.deliverDirect ..)
  | chan c =>
    refine ⟨rfl, rfl, rfl, fun hs => ((StoreUntouched.withdrawAccess s c).inStore hs).setOutcome fun x hx => ?_⟩
    cases hx
    exact ha hs

/-- An access waiting at the arbiter is to an address of the store. -/
theorem State.poisonInStore.memberAccess {s : State} (h : s.poisonInStore) {p : Port} {m : Member} {a : ChannelAccess}
    (ha : s.memberAccess p m = some a) : a.access.addr < 0x40000 := by
  cases m with
  | dispatcher =>
    obtain ⟨b, hb, rfl⟩ := Option.map_eq_some_iff.mp ha
    unfold State.dispatcherAccess at hb
    split at hb
    · next sv hsv =>
      split at hb
      · next hst =>
        obtain ⟨x, hx, rfl⟩ := Option.map_eq_some_iff.mp hb
        exact h.link p sv hsv hst x hx
      · cases hb
    · cases hb
  | chan c =>
    unfold State.memberAccess at ha
    dsimp only at ha
    split at ha
    · exact h.waiting ha
    · cases ha

theorem StoreUntouched.startAccess {s : State} {a : ChannelAccess} (ha : s.poisonInStore → a.access.addr < 0x40000)
    (p : Port) (m : Member) : StoreUntouched s (s.startAccess p m a) := by
  have htake := StoreUntouched.takeAccess s p m
  unfold State.startAccess
  dsimp only
  split
  · exact .refuse ha ..
  · refine ⟨htake.store, htake.poison, htake.seqState, fun hs => ?_⟩
    obtain ⟨hpoison, _, hlink, hchan⟩ := htake.inStore hs
    exact ⟨hpoison, fun g hg => (by cases hg; exact ha hs), hlink, hchan⟩

theorem StoreUntouched.grantPort (s : State) (p : Port) (isPriority : Bool) : StoreUntouched s (s.grantPort p isPriority) := by
  unfold State.grantPort
  split
  · next m _ =>
    split
    · next a ha =>
      have hrot : StoreUntouched s (s.setArbiter (s.arbiter.rotated p m isPriority)) := ⟨rfl, rfl, rfl, id⟩
      refine hrot.trans (.startAccess (fun hs => ?_) p m)
      exact State.poisonInStore.memberAccess (s := s) hs ha
    · exact .refl s
  · exact .refl s

theorem StoreUntouched.grantNext (s : State) : StoreUntouched s s.grantNext := by
  unfold State.grantNext
  split
  · exact .grantPort ..
  · split
    · exact .grantPort ..
    · exact .refl s

end Sys2Proof.Machine
end

section
/-! SUPPORT. Which commands leave the store: every command but those of reset sequencing, a disturbance, and the completion of an
access. -/

namespace Sys2Proof.Machine

/-- Every next state that an outcome gives has the property. -/
def Leads (P : State → Prop) (o : Host.Outcome State Fault Refusal) : Prop := ∀ t, o = .next t → P t

theorem Leads.next {P : State → Prop} {t : State} (h : P t) : Leads P (.next t) := by
  intro u hu
  cases hu
  exact h

/-- The commands that write the store, the poison set or the sequencing state. -/
def touchesStore : Instr → Bool
  | .pwrokFall | .pwrokRise | .initComplete | .hrstAssert | .hrstRelease | .bitDisturbance _ _ | .accessComplete => true
  | _ => false

/-! ### Commands of the dispatchers and the Lock Unit -/

theorem StoreUntouched.lockAnswer (s : State) (p : Port) (a : LockAnswer) : StoreUntouched s (s.lockAnswer p a) :=
  ((StoreUntouched.refl s).lockEffect a.effect).trans (.answer ..)

theorem StoreUntouched.expire (s : State) (e : Option LockEffect) : StoreUntouched s (s.expire e) := by
  cases e with
  | none => exact .refl s
  | some e => exact (StoreUntouched.refl s).lockEffect e

theorem StoreUntouched.asOneAction {s t : State} (h : StoreUntouched s t) : StoreUntouched s (s.asOneAction t) :=
  ⟨h.store, h.poison, h.seqState, h.inStore⟩

theorem execRead_storeUntouched (s : State) (p : Port) : Leads (StoreUntouched s) (execRead p s) := by
  unfold execRead
  split
  · next hreq => exact .next (.presentDirect hreq (fun _ ha => by cases ha; rfl) _)
  · exact .next (.refl s)

theorem execWrite_storeUntouched (s : State) (p : Port) : Leads (StoreUntouched s) (execWrite p s) := by
  unfold execWrite
  split
  · next hreq => exact .next (.presentDirect hreq (fun _ ha => by cases ha; rfl) _)
  · exact .next (.refl s)

theorem execFetchAdd_storeUntouched (s : State) (p : Port) : Leads (StoreUntouched s) (execFetchAdd p s) := by
  unfold execFetchAdd
  split
  · next hreq => exact .next (.presentDirect hreq (fun _ ha => by cases ha; rfl) _)
  · exact .next (.refl s)

theorem execSwap_storeUntouched (s : State) (p : Port) : Leads (StoreUntouched s) (execSwap p s) := by
  unfold execSwap
  split
  · next hreq => exact .next (.presentDirect hreq (fun _ ha => by cases ha; rfl) _)
  · exact .next (.refl s)

theorem execCompareSwap_storeUntouched (s : State) (p : Port) : Leads (StoreUntouched s) (execCompareSwap p s) := by
  unfold execCompareSwap
  split
  · next hreq => exact .next (.presentDirect hreq (fun _ ha => by cases ha; rfl) _)
  · exact .next (.refl s)

theorem execLock_storeUntouched (s : State) (p : Port) : Leads (StoreUntouched s) (execLock p s) := by
  unfold execLock
  split
  · exact .next (.lockAnswer ..)
  · exact .next (.refl s)

theorem execUnlock_storeUntouched (s : State) (p : Port) : Leads (StoreUntouched s) (execUnlock p s) := by
  unfold execUnlock
  split
  · exact .next (.lockAnswer ..)
  · exact .next (.refl s)

theorem execRenew_storeUntouched (s : State) (p : Port) : Leads (StoreUntouched s) (execRenew p s) := by
  unfold execRenew
  split
  · exact .next (.lockAnswer ..)
  · exact .next (.refl s)

theorem execAdopt_storeUntouched (s : State) (p : Port) : Leads (StoreUntouched s) (execAdopt p s) := by
  unfold execAdopt
  split
  · exact .next (.lockAnswer ..)
  · exact .next (.refl s)

theorem execReclaim_storeUntouched (s : State) (p : Port) : Leads (StoreUntouched s) (execReclaim p s) := by
  unfold execReclaim
  split
  · split
    · exact .next (.lockAnswer ..)
    · exact .next (.answer ..)
  · exact .next (.refl s)

theorem execForceRelease_storeUntouched (s : State) (p : Port) : Leads (StoreUntouched s) (execForceRelease p s) := by
  unfold execForceRelease
  split
  · split
    · exact .next (.lockAnswer ..)
    · exact .next (.answer ..)
  · exact .next (.refl s)

theorem execLockQuery_storeUntouched (s : State) (p : Port) : Leads (StoreUntouched s) (execLockQuery p s) := by
  unfold execLockQuery
  split
  · exact .next (.answer ..)
  · exact .next (.refl s)

theorem execLeaseRestartReport_storeUntouched (s : State) : Leads (StoreUntouched s) (execLeaseRestartReport s) := by
  unfold execLeaseRestartReport
  split
  · exact .next ⟨rfl, rfl, rfl, id⟩
  · exact .next (.refl s)

/-! ### Commands of the arbiter and the Channel Engine -/

theorem execArbiterGrant_storeUntouched (s : State) : Leads (StoreUntouched s) (execArbiterGrant s) := by
  unfold execArbiterGrant
  split
  · exact .next (.refl s)
  · exact .next (.grantNext s)

theorem execChannelStart_storeUntouched (s : State) (p : Port) : Leads (StoreUntouched s) (execChannelStart p s) := by
  unfold execChannelStart
  split
  · exact .next (.channelStart ..)
  · exact .next (.refl s)

theorem execChannelStop_storeUntouched (s : State) (p : Port) : Leads (StoreUntouched s) (execChannelStop p s) := by
  unfold execChannelStop
  split
  · exact .next (.asOneAction (.channelStop ..))
  · exact .next (.refl s)

theorem execChannelRelease_storeUntouched (s : State) (p : Port) : Leads (StoreUntouched s) (execChannelRelease p s) := by
  unfold execChannelRelease
  split
  · exact .next (.channelRelease ..)
  · exact .next (.refl s)

theorem execChannelQuery_storeUntouched (s : State) (p : Port) : Leads (StoreUntouched s) (execChannelQuery p s) := by
  unfold execChannelQuery
  split
  · exact .next (.channelQuery ..)
  · exact .next (.refl s)

/-- A command that takes the oldest claim where it passes a test. -/
theorem takeClaim_storeUntouched (s : State) (p : Port) (test : Bool) :
    Leads (StoreUntouched s) (if test then .next (s.takeClaim p) else .next s) := by
  split
  · exact .next (.takeClaim ..)
  · exact .next (.refl s)

theorem execChannelAccessOutcome_storeUntouched (s : State) (c : Channel) :
    Leads (StoreUntouched s) (execChannelAccessOutcome c s) := by
  unfold execChannelAccessOutcome
  split
  · next a o ho =>
    refine .next (.ofEngine ?_ fun hs => ?_)
    · exact (((EngineOnly.setOutcome ..).trans (.takeOutcome ..)).trans (.giveOwnerSlots ..)).asOneAction
    · have hcleared : (s.setOutcome c none).poisonInStore := hs.setOutcome fun _ h => by cases h
      exact ((EngineKeeps.takeOutcome (hs.outcome ho) c o).trans (.giveOwnerSlots ..)).inStore hcleared
  · exact .next (.refl s)

theorem execReleaseAnnouncement_storeUntouched (s : State) : Leads (StoreUntouched s) (execReleaseAnnouncement s) := by
  unfold execReleaseAnnouncement
  split
  · next r rest _ =>
    have htaken : StoreUntouched s { s with announcements := rest } := ⟨rfl, rfl, rfl, id⟩
    refine .next (htaken.trans (.ofEngine ?_ (EngineKeeps.inStore ?_)))
    · exact .foldl (fun t c => .retryStalled t r c) _ _
    · exact .foldl (fun t c => .retryStalled t r c) _ _
  · exact .next (.refl s)

theorem execStallExpiry_storeUntouched (s : State) (c : Channel) : Leads (StoreUntouched s) (execStallExpiry c s) := by
  unfold execStallExpiry
  split
  · split
    · exact .next (.asOneAction (.ofEngine (.faultRun ..) (EngineKeeps.faultRun ..).inStore))
    · exact .next (.refl s)
  · exact .next (.refl s)

/-! ### Commands of the Notice Unit -/

theorem StoreUntouched.takeEvent (s : State) (p : Port) (e : NoticeEvent) : StoreUntouched s (s.takeEvent p e) := by
  unfold State.takeEvent
  split
  · exact (StoreUntouched.refl s).setQueue ..
  · exact .refl s

theorem execNoticeEvent_storeUntouched (s : State) (k : Nat) : Leads (StoreUntouched s) (execNoticeEvent k s) := by
  unfold execNoticeEvent
  split
  · next rest _ =>
    have htaken : StoreUntouched s { s with events := dropEvent k rest s.events } := ⟨rfl, rfl, rfl, id⟩
    exact .next (htaken.trans (.takeEvent ..))
  · exact .next (.refl s)
  · exact .next (.refl s)

theorem execNoticeAck_storeUntouched (s : State) (p : Port) : Leads (StoreUntouched s) (execNoticeAck p s) := by
  unfold execNoticeAck
  split
  · split
    · exact .next (((StoreUntouched.refl s).setQueue ..).trans (.answer ..))
    · exact .next (.answer ..)
  · exact .next (.refl s)

theorem execNoticeRewind_storeUntouched (s : State) (p : Port) : Leads (StoreUntouched s) (execNoticeRewind p s) := by
  unfold execNoticeRewind
  split
  · exact .next (.takeNoticePortDown ..)
  · exact .next (.refl s)

theorem execNoticeQueueEmpty_storeUntouched (s : State) (p : Port) :
    Leads (StoreUntouched s) (execNoticeQueueEmpty p s) := by
  unfold execNoticeQueueEmpty
  split
  · exact .next (.takeNoticePortDown ..)
  · exact .next (.refl s)

/-! ### Commands of the links -/

theorem execTrainWindowExpiry_storeUntouched (s : State) (p : Port) :
    Leads (StoreUntouched s) (execTrainWindowExpiry p s) := by
  unfold execTrainWindowExpiry
  split
  · exact .next .setLinkKeepingService
  · exact .next (.refl s)

theorem execSlotTimeout_storeUntouched (s : State) (p : Port) (h : HubSlot) :
    Leads (StoreUntouched s) (execSlotTimeout p h s) := by
  unfold execSlotTimeout
  split
  · exact .next (.endRequest ..)
  · exact .next (.refl s)

theorem execResponseSent_storeUntouched (s : State) (p : Port) : Leads (StoreUntouched s) (execResponseSent p s) := by
  unfold execResponseSent
  split
  · exact .next (.sendResponse ..)
  · exact .next (.refl s)

theorem execNoticeSent_storeUntouched (s : State) (p : Port) : Leads (StoreUntouched s) (execNoticeSent p s) := by
  unfold execNoticeSent
  split
  · exact .next (.sendNotice ..)
  · exact .next (.refl s)

theorem execHubRequestSent_storeUntouched (s : State) (p : Port) : Leads (StoreUntouched s) (execHubRequestSent p s) := by
  unfold execHubRequestSent
  split
  · exact .next (.sendHubRequest ..)
  · exact .next (.refl s)

/-! ### Commands of the Control Unit -/

theorem execSupselChange_storeUntouched (s : State) (straps : Port) :
    Leads (StoreUntouched s) (execSupselChange straps s) := by
  unfold execSupselChange
  split <;> exact .next ⟨rfl, rfl, rfl, id⟩

/-- A channel's part of a timebase boundary leaves what it has to access (R125). -/
theorem ChannelContext.inStore.tick {ctx : ChannelContext} (h : ctx.inStore) : ctx.tick.inStore := by
  obtain ⟨hcur, hnext, hchunks, hstall⟩ := h
  refine ⟨hcur, hnext, hchunks, fun r hr => ?_⟩
  obtain ⟨r', hr', rfl⟩ := Option.map_eq_some_iff.mp hr
  exact hstall r' hr'

theorem execTimebaseBoundary_storeUntouched (s : State) : Leads (StoreUntouched s) (execTimebaseBoundary s) := by
  unfold execTimebaseBoundary
  split
  · refine .next ⟨rfl, rfl, rfl, fun hs => ?_⟩
    obtain ⟨hpoison, hprog, hlink, hchan⟩ := hs
    refine ⟨hpoison, hprog, fun p sv hsv => hlink p sv ?_, fun c => ?_⟩
    · simpa [State.link, mapVector, LinkController.tick] using hsv
    · obtain ⟨hwait, hout, hctx⟩ := hchan c
      have htick := hctx.tick
      exact ⟨hwait, hout, by simpa [State.chan, mapVector] using htick⟩
  all_goals exact .next (.refl s)

theorem execConfigRead_storeUntouched (s : State) (p : Port) : Leads (StoreUntouched s) (execConfigRead p s) := by
  unfold execConfigRead
  split
  · split
    · exact .next (.answer ..)
    · exact .next (.answer ..)
  · exact .next (.refl s)

theorem execConfigWrite_storeUntouched (s : State) (p : Port) : Leads (StoreUntouched s) (execConfigWrite p s) := by
  have hset : ∀ t, StoreUntouched s (s.setSettings t) := fun _ => ⟨rfl, rfl, rfl, id⟩
  unfold execConfigWrite
  split
  · split
    · exact .next (.refl s)
    · split
      · exact .next (.answer ..)
      · exact .next ((hset _).trans (.answer ..))
  · exact .next (.refl s)

theorem execConfigWriteSupervisor_storeUntouched (s : State) (p : Port) :
    Leads (StoreUntouched s) (execConfigWriteSupervisor p s) := by
  unfold execConfigWriteSupervisor
  split
  · split
    · split
      · exact .next (.answer ..)
      · exact .next (.writeSupervisor ..)
    · exact .next (.refl s)
  · exact .next (.refl s)

theorem execConfigWriteTimebase_storeUntouched (s : State) (p : Port) :
    Leads (StoreUntouched s) (execConfigWriteTimebase p s) := by
  have hset : ∀ t, StoreUntouched s (s.setSettings t) := fun _ => ⟨rfl, rfl, rfl, id⟩
  unfold execConfigWriteTimebase
  split
  · split
    · split
      · exact .next (.answer ..)
      · exact .next ((hset _).trans (.answer ..))
    · exact .next (.refl s)
  · exact .next (.refl s)

theorem execFence_storeUntouched (s : State) (p : Port) : Leads (StoreUntouched s) (execFence p s) := by
  unfold execFence
  split
  · split
    · exact .next (.answer ..)
    · split
      · exact .next (.answer ..)
      · exact .next ((StoreUntouched.fenceLink ..).trans (.answer ..))
  · exact .next (.refl s)

theorem execUnfence_storeUntouched (s : State) (p : Port) : Leads (StoreUntouched s) (execUnfence p s) := by
  unfold execUnfence
  split
  · split
    · exact .next (.answer ..)
    · exact .next ((StoreUntouched.unfenceLink ..).trans (.answer ..))
  · exact .next (.refl s)

/-! ### Every command -/

/-- Every command that does not touch the store leaves it, the poison set and the sequencing state. -/
theorem exec_storeUntouched (c : Instr) (s : State) (hc : touchesStore c = false) : Leads (StoreUntouched s) (exec c s) := by
  cases c with
  | pwrokFall | pwrokRise | initComplete | hrstAssert | hrstRelease | bitDisturbance w d | accessComplete => cases hc
  | supselChange straps => exact execSupselChange_storeUntouched s straps
  | prstnAssert p => exact .next (.assertPrst s p)
  | prstnRelease p => exact .next (.releasePrst s p)
  | timebaseBoundary => exact execTimebaseBoundary_storeUntouched s
  | leaseExpiry k => exact .next (.expire ..)
  | waitExpiry k => exact .next (.expire ..)
  | orphanExpiry k => exact .next (.expire ..)
  | stallExpiry c => exact execStallExpiry_storeUntouched s c
  | trainWindowExpiry p => exact execTrainWindowExpiry_storeUntouched s p
  | slotTimeout p h => exact execSlotTimeout_storeUntouched s p h
  | hello p => exact .next (.receiveHello s p)
  | ready p word => exact .next (.receiveReady s p word)
  | lossOfSignal p => exact .next (.linkFails ..)
  | badCheckPacket p => exact .next (.linkFails ..)
  | requestReceived p pkt => exact .next (.receivePacket s p pkt)
  | fetchReply p tag payload => exact .next (.receiveFetchReply s p tag payload)
  | storeReply p tag payload => exact .next (.receiveStoreReply s p tag payload)
  | responseSent p => exact execResponseSent_storeUntouched s p
  | noticeSent p => exact execNoticeSent_storeUntouched s p
  | hubRequestSent p => exact execHubRequestSent_storeUntouched s p
  | read p => exact execRead_storeUntouched s p
  | write p => exact execWrite_storeUntouched s p
  | fetchAdd p => exact execFetchAdd_storeUntouched s p
  | swap p => exact execSwap_storeUntouched s p
  | compareSwap p => exact execCompareSwap_storeUntouched s p
  | arbiterGrant => exact execArbiterGrant_storeUntouched s
  | leaseRestartReport => exact execLeaseRestartReport_storeUntouched s
  | lock p => exact execLock_storeUntouched s p
  | unlock p => exact execUnlock_storeUntouched s p
  | renew p => exact execRenew_storeUntouched s p
  | adopt p => exact execAdopt_storeUntouched s p
  | reclaim p => exact execReclaim_storeUntouched s p
  | forceRelease p => exact execForceRelease_storeUntouched s p
  | lockQuery p => exact execLockQuery_storeUntouched s p
  | lockPortDown p => exact .next (.takeLockPortDown s p)
  | arbiterPortDown p => exact .next (.takeArbiterPortDown s p)
  | channelStart p => exact execChannelStart_storeUntouched s p
  | channelStop p => exact execChannelStop_storeUntouched s p
  | channelRelease p => exact execChannelRelease_storeUntouched s p
  | channelQuery p => exact execChannelQuery_storeUntouched s p
  | descriptorReply p => exact takeClaim_storeUntouched s p _
  | lookaheadReply p => exact takeClaim_storeUntouched s p _
  | chunkFetchReply p => exact takeClaim_storeUntouched s p _
  | chunkStoreReply p => exact takeClaim_storeUntouched s p _
  | channelHubTimeout p => exact takeClaim_storeUntouched s p _
  | hubRequestDrop p => exact takeClaim_storeUntouched s p _
  | channelAccessOutcome c => exact execChannelAccessOutcome_storeUntouched s c
  | releaseAnnouncement => exact execReleaseAnnouncement_storeUntouched s
  | channelPortDown p => exact takeClaim_storeUntouched s p _
  | noticeEvent k => exact execNoticeEvent_storeUntouched s k
  | noticeAck p => exact execNoticeAck_storeUntouched s p
  | noticeRewind p => exact execNoticeRewind_storeUntouched s p
  | noticeQueueEmpty p => exact execNoticeQueueEmpty_storeUntouched s p
  | configRead p => exact execConfigRead_storeUntouched s p
  | configWrite p => exact execConfigWrite_storeUntouched s p
  | configWriteSupervisor p => exact execConfigWriteSupervisor_storeUntouched s p
  | configWriteTimebase p => exact execConfigWriteTimebase_storeUntouched s p
  | fence p => exact execFence_storeUntouched s p
  | unfence p => exact execUnfence_storeUntouched s p

/-! ### The commands that touch the store -/

/-- The store's two lists, the poison set and the count of words filled, after a change of the sequencing state. -/
theorem State.memoryLawful.reseq {s t : State} (h : s.memoryLawful) (hstore : t.store = s.store) (hpoison : t.poison = s.poison)
    (hseq : t.seqState = .cold ∨ t.seqState = .fill ∨ t.seqState = .fillHeld →
      s.seqState = .cold ∨ s.seqState = .fill ∨ s.seqState = .fillHeld) : t.memoryLawful := by
  obtain ⟨hbytes, hconds, hset, hfilled⟩ := h
  unfold State.memoryLawful
  rw [hstore, hpoison]
  exact ⟨hbytes, hconds, hset, fun ht => hfilled (hseq ht)⟩

/-- A store changed in a way that keeps its form, and a poison set that still rises. -/
theorem State.memoryLawful.change {s t : State} (h : s.memoryLawful) (hstore : s.store.FormKept t.store)
    (hpoison : setRising t.poison = true)
    (hseq : t.seqState = .cold ∨ t.seqState = .fill ∨ t.seqState = .fillHeld →
      s.seqState = .cold ∨ s.seqState = .fill ∨ s.seqState = .fillHeld) : t.memoryLawful := by
  obtain ⟨hbytes, hconds, _, hfilled⟩ := h
  obtain ⟨hbytes', hconds'⟩ := hstore.canonical ⟨hbytes, hconds⟩
  exact ⟨hbytes', hconds', hpoison, fun ht => hstore.background ▸ hfilled (hseq ht)⟩

/-- A store with nothing listed keeps the form, when nothing is filled outside RUN. -/
theorem State.memoryLawful_of_nothing_listed {t : State} (hb : t.store.bytes = []) (hc : t.store.conditions = [])
    (hpoison : setRising t.poison = true)
    (hfilled : t.seqState = .cold ∨ t.seqState = .fill ∨ t.seqState = .fillHeld → t.store.background.filled = 0) :
    t.memoryLawful := by
  refine ⟨?_, ?_, hpoison, hfilled⟩
  · rw [hb]
    rfl
  · rw [hc]
    rfl

theorem execPwrokRise_memoryLawful {s : State} (h : s.memoryLawful) : Leads State.memoryLawful (execPwrokRise s) := by
  unfold execPwrokRise
  split
  · next hcold => exact .next (h.reseq rfl rfl fun _ => .inl hcold)
  all_goals exact .next h

theorem execInitComplete_memoryLawful {s : State} (h : s.memoryLawful) : Leads State.memoryLawful (execInitComplete s) := by
  unfold execInitComplete
  split
  · exact .next (State.memoryLawful_of_nothing_listed rfl rfl h.poison_rising (by simp [State.enterRun]))
  · exact .next (State.memoryLawful_of_nothing_listed rfl rfl h.poison_rising (by simp))
  all_goals exact .next h

theorem execHrstAssert_memoryLawful {s : State} (h : s.memoryLawful) : Leads State.memoryLawful (execHrstAssert s) := by
  obtain ⟨_, _, hset, hfilled⟩ := id h
  unfold execHrstAssert
  split
  · next hfill =>
    obtain ⟨hbytes, hconds⟩ := h.canonical.stopInit s.fresh (hfilled (.inr (.inl hfill)))
    exact .next ⟨hbytes, hconds, setRising_cutPoison s hset, by simp [State.warmReset]⟩
  · exact .next (h.change (Store.FormKept.cutStore s) (setRising_cutPoison s hset) (by simp [State.warmReset]))
  all_goals exact .next (h.reseq rfl rfl id)

theorem execHrstRelease_memoryLawful {s : State} (h : s.memoryLawful) : Leads State.memoryLawful (execHrstRelease s) := by
  unfold execHrstRelease
  split
  · exact .next (h.reseq rfl rfl (by simp [State.enterRun]))
  · next hheld => exact .next (h.reseq rfl rfl fun _ => .inr (.inr hheld))
  all_goals exact .next (h.reseq rfl rfl id)

end Sys2Proof.Machine
end

section
/-! SUPPORT. An access carried out, the two resets, and O55: every step keeps the canonical form of the store and of the poison set,
and the poison set inside the store. -/

namespace Sys2Proof.Machine

/-! ### An access carried out (R19) -/

/-- The state in which the access in progress has been carried out and its report handed, its outcome not yet delivered. -/
def State.carriedOut (s : State) (g : Granted) : State :=
  ((((s.setStore (g.access.carryOut s.store).store).setPoison
    (poisonAfter s.poison g.access (g.access.carryOut s.store).met)).handPoison g.access
      (g.access.carryOut s.store).met).setArbiter { s.arbiter with inProgress := none }).reportAccess g
        (g.access.carryOut s.store).outcome

theorem State.finishAccess_eq (s : State) (g : Granted) :
    s.finishAccess g
      = (s.carriedOut g).deliver g.port g.member ⟨g.chunk, g.access⟩ (g.access.carryOut s.store).outcome := rfl

/-- What carrying the access out changes. -/
theorem State.carriedOut_frame (s : State) (g : Granted) :
    s.carriedOut g = { s with store := (g.access.carryOut s.store).store
                              poison := poisonAfter s.poison g.access (g.access.carryOut s.store).met
                              events := (s.carriedOut g).events, reports := (s.carriedOut g).reports
                              arbiter := { s.arbiter with inProgress := none } } := by
  unfold State.carriedOut State.handPoison State.reportAccess
  split <;> split <;> rfl

theorem State.memoryLawful.carriedOut {s : State} (h : s.memoryLawful) (g : Granted) : (s.carriedOut g).memoryLawful := by
  rw [State.carriedOut_frame]
  exact h.change (Store.FormKept.carryOut g.access s.store) (setRising_poisonAfter _ _ _ h.poison_rising) id

/-- The granule of an address of the store. -/
theorem granuleOf_lt {a : Nat} (h : a < 0x40000) : granuleOf a < 4096 := by
  unfold granuleOf
  omega

theorem State.poisonInStore.carriedOut {s : State} {g : Granted} (h : s.poisonInStore)
    (hg : g.access.addr < 0x40000) : (s.carriedOut g).poisonInStore := by
  obtain ⟨hpoison, _, hlink, hchan⟩ := h
  rw [State.carriedOut_frame]
  refine ⟨fun n hn => ?_, fun _ h => (by cases h), hlink, hchan⟩
  rcases mem_poisonAfter hn with rfl | hn
  · exact granuleOf_lt hg
  · exact hpoison n hn

theorem execAccessComplete_memoryLawful {s : State} (h : s.memoryLawful) :
    Leads State.memoryLawful (execAccessComplete s) := by
  unfold execAccessComplete
  split
  · exact .next ((h.carriedOut _).deliver ..)
  · exact .next h

theorem execAccessComplete_poisonInStore {s : State} (h : s.poisonInStore) :
    Leads State.poisonInStore (execAccessComplete s) := by
  unfold execAccessComplete
  split
  · next g hg =>
    have haddr := h.granted hg
    exact .next ((StoreUntouched.deliver (fun _ => haddr) ..).inStore (h.carriedOut haddr))
  · exact .next h

/-! ### The resets -/

@[simp] theorem State.chan_reset (c : Channel) : State.reset.chan c = ChannelContext.reset := by
  simp [State.reset, State.chan]

/-- Where every block is as after reset nothing has an access: the poison set alone is left to bound. -/
theorem State.poisonInStore_of_blocks_reset {t : State} (hp : ∀ g ∈ t.poison, g < 4096) (ha : t.arbiter = Arbiter.reset)
    (hc : t.channels = State.reset.channels) (hl : ∀ p, (t.link p).service = none) : t.poisonInStore := by
  have hwait : ∀ c, t.waitingAccess c = none := fun c => by simp [State.waitingAccess, ha, Arbiter.reset]
  have hout : ∀ c, t.outcomeOf c = none := fun c => by simp [State.outcomeOf, ha, Arbiter.reset]
  have hchan : ∀ c, t.chan c = ChannelContext.reset := fun c => by
    rw [← State.chan_reset c, State.chan, hc]
    rfl
  refine ⟨hp, fun g hg => ?_, fun p => LinkController.presentedInStore_of_idle (hl p), fun c => ⟨?_, ?_, ?_⟩⟩
  · rw [ha] at hg
    cases hg
  · rw [hwait]
    exact fun _ h => by cases h
  · rw [hout]
    exact fun _ h => by cases h
  · rw [hchan]
    exact ChannelContext.inStore_reset

/-- A Link Controller reset has an IDLE dispatcher. -/
theorem service_hubReset {t s : State} (h : t.links = mapVector LinkController.hubReset s.links) (p : Port) :
    (t.link p).service = none := by
  rw [State.link, h]
  simp [mapVector, LinkController.hubReset, LinkController.reset]

theorem State.poisonInStore_coldReset (s : State) : s.coldReset.poisonInStore :=
  State.poisonInStore_of_blocks_reset (fun _ h => by cases h) rfl rfl (service_hubReset (s := s) rfl)

theorem State.poisonInStore.warmReset {s : State} (h : s.poisonInStore) : s.warmReset.poisonInStore := by
  refine State.poisonInStore_of_blocks_reset (fun n hn => ?_) rfl rfl (service_hubReset (s := s) rfl)
  rcases mem_cutPoison hn with hn | ⟨g, hg, rfl⟩
  · exact h.granule hn
  · exact granuleOf_lt (h.granted hg)

/-! ### O55 -/

/-- Every command keeps the canonical form of the store and the poison set. -/
theorem exec_memoryLawful (c : Instr) {s : State} (h : s.memoryLawful) : Leads State.memoryLawful (exec c s) := by
  by_cases hc : touchesStore c = false
  · exact fun t ht => (exec_storeUntouched c s hc t ht).memoryLawful h
  · cases c with
    | pwrokFall => exact .next (State.memoryLawful_of_nothing_listed rfl rfl rfl fun _ => rfl)
    | pwrokRise => exact execPwrokRise_memoryLawful h
    | initComplete => exact execInitComplete_memoryLawful h
    | hrstAssert => exact execHrstAssert_memoryLawful h
    | hrstRelease => exact execHrstRelease_memoryLawful h
    | bitDisturbance w d => exact .next (h.change (Store.FormKept.setCondition ..) h.poison_rising id)
    | accessComplete => exact execAccessComplete_memoryLawful h
    | _ => exact absurd rfl hc

/-- Every command keeps the poison set, and every access on its way to the store, inside the store. -/
theorem exec_poisonInStore (c : Instr) {s : State} (h : s.poisonInStore) : Leads State.poisonInStore (exec c s) := by
  by_cases hc : touchesStore c = false
  · exact fun t ht => (exec_storeUntouched c s hc t ht).inStore h
  · cases c with
    | pwrokFall => exact .next (State.poisonInStore_coldReset s)
    | pwrokRise =>
      show Leads _ (execPwrokRise s)
      unfold execPwrokRise
      split <;> exact .next h
    | initComplete =>
      show Leads _ (execInitComplete s)
      unfold execInitComplete
      split <;> exact .next h
    | hrstAssert =>
      show Leads _ (execHrstAssert s)
      unfold execHrstAssert
      split
      · exact .next h.warmReset
      · exact .next h.warmReset
      all_goals exact .next h
    | hrstRelease =>
      show Leads _ (execHrstRelease s)
      unfold execHrstRelease
      split <;> exact .next h
    | bitDisturbance w d => exact .next h
    | accessComplete => exact execAccessComplete_poisonInStore h
    | _ => exact absurd rfl hc

/-- A step keeps what every command keeps, where neither the queue of commands nor the time elapsed has part in it. -/
theorem step_keeps {P : State → Prop} (hexec : ∀ c s, P s → Leads P (exec c s)) (hidle : ∀ s, P s → P s.idle)
    (hqueue : ∀ s l, P s → P { s with pending := l }) {s t : State} (h : P s) (hstep : step s = .next t) : P t := by
  unfold step at hstep
  split at hstep
  · exact hexec _ _ (hqueue s _ h) t hstep
  · cases hstep
    exact hidle s h

/-- Settles O55: an invariant of each command, by whether it touches the store, carried to the step. -/
theorem everyStepKeepsTheStoreForm : Obligations.EveryStepKeepsTheStoreForm :=
  ⟨fun _ _ => step_keeps (fun c _ => exec_memoryLawful c) (fun _ => id) (fun _ _ => id),
    fun _ _ => step_keeps (fun c _ => exec_poisonInStore c) (fun _ => id) (fun _ _ => id)⟩

end Sys2Proof.Machine
end

section
/-! SUPPORT. O6, O9 and O24: a store access cut by warm reset (R9), a disturbance (R1), and the checks on a direct request (R10). -/

namespace Sys2Proof.Machine

/-! ### Words that a cut access would have written (R9) -/

/-- A word that a cut access would not have written stays. -/
theorem Store.cutWrite_other (st : Store) (n w : Nat) (v : Word) {x : Nat} (hx : x ≠ w) :
    (st.cutWrite n w v).word x = st.word x ∧ (st.cutWrite n w v).condition x = st.condition x := by
  unfold Store.cutWrite
  split
  · exact ⟨st.word_writeWord_other w v x hx, st.condition_writeWord_other w v x hx⟩
  · split
    · exact ⟨st.word_writeWord_other w _ x hx, st.condition_writeWord_other w _ x hx⟩
    · exact ⟨rfl, st.condition_setCondition_other w _ x hx⟩
    · exact ⟨rfl, st.condition_setCondition_other w _ x hx⟩

/-- A word that a cut access would have written is clean, and holds the new value or the old one where that was known. -/
theorem Store.cutWrite_self {st : Store} (h : st.Canonical) (n w : Nat) (v : Word) :
    (st.cutWrite n w v).condition w = .clean
      ∧ (st.condition w ≠ .uncorrectable →
          (st.cutWrite n w v).word w = v ∨ (st.cutWrite n w v).word w = st.word w) := by
  unfold Store.cutWrite
  split
  · exact ⟨st.condition_writeWord_self w v h.conditions_rising, fun _ => .inl (st.word_writeWord_self w v h.bytes_rising)⟩
  · split
    · next hc => exact ⟨st.condition_writeWord_self w _ h.conditions_rising, fun hn => absurd hc hn⟩
    · exact ⟨st.condition_setCondition_self w _ h.conditions_rising, fun _ => .inr rfl⟩
    · exact ⟨st.condition_setCondition_self w _ h.conditions_rising, fun _ => .inr rfl⟩

theorem Store.cutWrites_other (st : Store) (n w : Nat) (l : List Word) {x : Nat} (hx : x < w ∨ w + l.length ≤ x) :
    (st.cutWrites n w l).word x = st.word x ∧ (st.cutWrites n w l).condition x = st.condition x := by
  induction l generalizing st w with
  | nil => exact ⟨rfl, rfl⟩
  | cons v rest ih =>
    simp only [List.length_cons] at hx
    obtain ⟨hword, hcond⟩ := ih (st.cutWrite n w v) (w + 1) (by omega)
    obtain ⟨hword', hcond'⟩ := st.cutWrite_other n w v (x := x) (by omega)
    exact ⟨hword.trans hword', hcond.trans hcond'⟩

theorem Store.cutWrites_self {st : Store} (h : st.Canonical) (n w : Nat) (l : List Word) (i : Nat) (hi : i < l.length) :
    (st.cutWrites n w l).condition (w + i) = .clean
      ∧ (st.condition (w + i) ≠ .uncorrectable →
          (st.cutWrites n w l).word (w + i) = l[i] ∨ (st.cutWrites n w l).word (w + i) = st.word (w + i)) := by
  induction l generalizing st w i with
  | nil => cases hi
  | cons v rest ih =>
    unfold Store.cutWrites
    cases i with
    | zero =>
      obtain ⟨hword, hcond⟩ := (st.cutWrite n w v).cutWrites_other n (w + 1) rest (x := w + 0) (by omega)
      rw [hword, hcond]
      exact Store.cutWrite_self h n w v
    | succ i =>
      have hrest := ih ((Store.FormKept.cutWrite st n w v).canonical h) (w + 1) i (by simpa using hi)
      obtain ⟨hword, hcond⟩ := st.cutWrite_other n w v (x := w + 1 + i) (by omega)
      rw [hword, hcond, Nat.add_right_comm w 1 i] at hrest
      exact hrest

/-! ### Words that a cut access had read (R9) -/

/-- A store with the same values in which every single-bit error is corrected or as it was. -/
def Store.Reread (st st' : Store) : Prop :=
  ∀ x, st'.word x = st.word x
    ∧ (st'.condition x = st.condition x ∨ st.condition x = .singleBit ∧ st'.condition x = .clean)

theorem Store.Reread.refl (st : Store) : st.Reread st := fun _ => ⟨rfl, .inl rfl⟩

theorem Store.Reread.trans {st st' st'' : Store} (h : st.Reread st') (h' : st'.Reread st'') : st.Reread st'' := by
  intro x
  obtain ⟨hword, hcond⟩ := h x
  obtain ⟨hword', hcond'⟩ := h' x
  refine ⟨hword'.trans hword, ?_⟩
  rcases hcond with hc | ⟨hs, hc⟩ <;> rcases hcond' with hc' | ⟨hs', hc'⟩
  · exact .inl (hc'.trans hc)
  · exact .inr ⟨hc.symm.trans hs', hc'⟩
  · exact .inr ⟨hs, hc'.trans hc⟩
  · rw [hc] at hs'
    cases hs'

theorem Store.Reread.correct {st : Store} (h : st.Canonical) (w : Nat) : st.Reread (st.correct w) := by
  refine fun x => ⟨st.word_correct w x, ?_⟩
  rw [st.condition_correct w x h.conditions_rising]
  split
  · next hx =>
    rw [hx]
    cases st.condition w with
    | clean => exact .inl rfl
    | singleBit => exact .inr ⟨rfl, rfl⟩
    | uncorrectable => exact .inl rfl
  · exact .inl rfl

theorem Store.Reread.cutReads {st : Store} (h : st.Canonical) (n w k : Nat) : st.Reread (st.cutReads n w k) := by
  induction k generalizing st w with
  | zero => exact .refl st
  | succ k ih =>
    unfold Store.cutReads
    split
    · exact (Store.Reread.correct h w).trans (ih ((Store.FormKept.correct st w).canonical h) (w + 1))
    · exact ih h (w + 1)

/-- A word that a cut access had not read stays. -/
theorem Store.cutReads_other {st : Store} (h : st.Canonical) (n w k : Nat) {x : Nat} (hx : x < w ∨ w + k ≤ x) :
    (st.cutReads n w k).word x = st.word x ∧ (st.cutReads n w k).condition x = st.condition x := by
  refine ⟨(Store.Reread.cutReads h n w k x).1, ?_⟩
  induction k generalizing st w with
  | zero => rfl
  | succ k ih =>
    unfold Store.cutReads
    split
    · rw [ih ((Store.FormKept.correct st w).canonical h) (w + 1) (by omega),
        st.condition_correct w x h.conditions_rising, if_neg (by omega)]
    · exact ih h (w + 1) (by omega)

/-! ### A cut access by its operation -/

/-- A cut access leaves every word that it does not touch. -/
theorem StoreAccess.cut_other (a : StoreAccess) (n : Nat) {st : Store} (h : st.Canonical) {x : Nat}
    (hx : x < a.addr / 4 ∨ a.addr / 4 + a.op.count ≤ x) :
    (a.cut n st).word x = st.word x ∧ (a.cut n st).condition x = st.condition x := by
  unfold StoreAccess.cut
  cases hop : a.op with
  | read k =>
    rw [hop] at hx
    exact Store.cutReads_other h n _ k hx
  | write data =>
    rw [hop] at hx
    exact st.cutWrites_other n _ data hx
  | fetchAdd v =>
    simp only [hop, AccessOp.count] at hx
    dsimp only
    split
    · exact ⟨rfl, rfl⟩
    · exact st.cutWrite_other n _ _ (by omega)
  | swap v =>
    simp only [hop, AccessOp.count] at hx
    dsimp only
    split
    · exact ⟨rfl, rfl⟩
    · exact st.cutWrite_other n _ _ (by omega)
  | compareSwap e v =>
    simp only [hop, AccessOp.count] at hx
    dsimp only
    split
    · exact ⟨rfl, rfl⟩
    · split
      · exact st.cutWrite_other n _ _ (by omega)
      · exact Store.cutReads_other h n _ 1 hx

/-- The operation is an atomic (R14, R15). -/
def AccessOp.IsAtomic (op : AccessOp) : Prop :=
  (∃ v, op = .swap v) ∨ (∃ x, op = .fetchAdd x) ∨ ∃ e v, op = .compareSwap e v

/-- The operation is an atomic that writes the value `new` over `old` (R14, R15). -/
def AccessOp.AtomicWrites (op : AccessOp) (old new : Word) : Prop :=
  op = .swap new ∨ (∃ x, op = .fetchAdd x ∧ new = old + x) ∨ op = .compareSwap old new

/-- A cut atomic that met an uncorrectable word leaves the store (R9). -/
theorem StoreAccess.cut_of_uncorrectable {a : StoreAccess} (hop : a.op.IsAtomic) (n : Nat) {st : Store}
    (hu : st.condition (a.addr / 4) = .uncorrectable) : a.cut n st = st := by
  unfold StoreAccess.cut
  rcases hop with ⟨v, hop⟩ | ⟨x, hop⟩ | ⟨e, v, hop⟩ <;> rw [hop] <;> exact if_pos hu

/-- A cut atomic with something to write would have written that one word. -/
theorem StoreAccess.cut_of_atomicWrites {a : StoreAccess} {st : Store} {new : Word} (n : Nat)
    (hop : a.op.AtomicWrites (st.word (a.addr / 4)) new) (hu : st.condition (a.addr / 4) ≠ .uncorrectable) :
    a.cut n st = st.cutWrite n (a.addr / 4) new := by
  unfold StoreAccess.cut
  rcases hop with hop | ⟨x, hop, rfl⟩ | hop <;> rw [hop] <;> simp [hu]

/-- A cut COMPARE_SWAP that does not match has read its word at most. -/
theorem StoreAccess.cut_of_mismatch {a : StoreAccess} {st : Store} {e v : Word} (h : st.Canonical) (n : Nat)
    (hop : a.op = .compareSwap e v) (he : e ≠ st.word (a.addr / 4)) : st.Reread (a.cut n st) := by
  unfold StoreAccess.cut
  rw [hop]
  dsimp only
  split
  · exact .refl st
  · rw [if_neg he.symm]
    exact .cutReads h n _ 1

/-- A granule joins the poison set at a cut only for a reading access that met an uncorrectable word (R9). -/
theorem StoreAccess.metWhenCut_iff (a : StoreAccess) (st : Store) :
    a.metWhenCut st = true ↔ (∀ data, a.op ≠ .write data)
      ∧ ∃ i, i < a.op.count ∧ st.condition (a.addr / 4 + i) = .uncorrectable := by
  unfold StoreAccess.metWhenCut
  cases a.op <;> simp [Store.anyUncorrectable_iff, AccessOp.count]

/-! ### O6 -/

/-- Settles O6: the store after the reset is the access cut, case by case of its operation. -/
theorem warmResetCutsTheAccessInProgress : Obligations.WarmResetCutsTheAccessInProgress := by
  intro s g hrun hmem hg
  have hcanon := hmem.canonical
  have hstore : s.warmReset.store = g.access.cut s.fresh s.store := by
    show s.cutStore = _
    rw [State.cutStore, hg]
  have hexec : exec .hrstAssert s = .next s.warmReset := by
    show execHrstAssert s = _
    rw [execHrstAssert, hrun]
  refine ⟨s.warmReset, hexec, fun x hx => ?_, fun data hop i hi => ?_, fun new hop hu => ?_, fun e v hop he => ?_,
    fun hop hu => ?_, fun n hop => ?_, ?_, rfl, fun p => ⟨rfl, ?_⟩⟩
  · rw [hstore]
    exact g.access.cut_other _ hcanon hx
  · rw [hstore, StoreAccess.cut, hop]
    exact Store.cutWrites_self hcanon _ _ data i hi
  · rw [hstore, StoreAccess.cut_of_atomicWrites _ hop hu]
    obtain ⟨hclean, hword⟩ := Store.cutWrite_self hcanon s.fresh (g.access.addr / 4) new
    exact ⟨hclean, hword hu⟩
  · rw [hstore]
    exact StoreAccess.cut_of_mismatch hcanon _ hop he
  · rw [hstore, StoreAccess.cut_of_uncorrectable hop _ hu]
  · rw [hstore, StoreAccess.cut, hop]
    exact Store.Reread.cutReads hcanon _ _ n
  · show s.cutPoison = _ ∨ _ ∧ _ ∧ s.cutPoison = _
    rw [State.cutPoison, hg]
    dsimp only
    split
    · next hmet =>
      obtain ⟨hread, hbad⟩ := (g.access.metWhenCut_iff s.store).mp hmet.1
      exact .inr ⟨hread, hbad, rfl⟩
    · exact .inl rfl
  · simp [State.queue, State.warmReset, State.reset]

/-! ### O9 -/

/-- Settles O9: only the condition of the word is set, to the disturbed one. -/
theorem disturbanceChangesOneCondition : Obligations.DisturbanceChangesOneCondition := by
  intro s w c hmem hc
  have hself : ∀ d, (s.store.setCondition w.toNat d).condition w.toNat = d :=
    fun d => s.store.condition_setCondition_self _ d hmem.canonical.conditions_rising
  refine ⟨_, rfl, rfl, fun a => rfl, fun x hx => s.store.condition_setCondition_other _ _ x hx, ?_, ?_, ?_⟩ <;> intro hold <;>
    refine (hself _).trans ?_ <;> rw [hold]
  · rfl
  · cases c with
    | clean => exact absurd rfl hc
    | singleBit => rfl
    | uncorrectable => rfl
  · rfl

/-! ### O24 -/

/-- The checks of R10 on the length: 4 to 64 and a multiple of 4. -/
theorem lengthOk_iff (len : Word) : lengthOk len = true ↔ 4 ≤ len.toNat ∧ len.toNat ≤ 64 ∧ len.toNat % 4 = 0 := by
  simp [lengthOk, and_assoc]

/-- The checks of R10 on the address: 4-aligned, in the store, all the bytes in one granule. -/
theorem addressOk_iff (addr : Word) {n : Nat} (hn : 4 ≤ n ∧ n ≤ 64) :
    addressOk addr n = true ↔ addr.toNat % 4 = 0 ∧ addr.toNat ≤ 0x3FFFF ∧ addr.toNat % 64 + n ≤ 64 := by
  simp only [addressOk, granuleOf, Bool.and_eq_true, beq_iff_eq, decide_eq_true_eq, and_assoc]
  refine and_congr_right fun _ => and_congr_right fun _ => ?_
  omega

/-- The number of bytes that R10's checks take: the length field, or the one word of an atomic. -/
def checkedLength (len : Option Word) : Nat := (len.map BitVec.toNat).getD 4

/-- R10's checks in order: length, then address. -/
theorem directCheck_eq (addr : Word) (len : Option Word) :
    directCheck addr len
      = if 4 ≤ checkedLength len ∧ checkedLength len ≤ 64 ∧ checkedLength len % 4 = 0 then
          if addr.toNat % 4 = 0 ∧ addr.toNat ≤ 0x3FFFF ∧ addr.toNat % 64 + checkedLength len ≤ 64 then none
          else some .badAddress
        else some .badLength := by
  cases len with
  | none => simp [directCheck, checkedLength, addressOk_iff addr (n := 4) (by omega)]
  | some l =>
    by_cases hl : lengthOk l = true
    · have hl' := (lengthOk_iff l).mp hl
      have ha := addressOk_iff addr (n := l.toNat) ⟨hl'.1, hl'.2.1⟩
      by_cases hok : addressOk addr l.toNat = true
      · simp [directCheck, checkedLength, hl, hl', hok, ha.mp hok]
      · simp [directCheck, checkedLength, hl, hl', hok, mt ha.mpr hok]
    · have hl' := mt (lengthOk_iff l).mpr hl
      simp [directCheck, checkedLength, hl, hl']

/-- The command of a direct request, by its kind (R10): what it asks for and what is checked. -/
theorem exec_directRequest {s : State} {p : Port} {c : Instr} {req : Request} {addr : Word} {n : Nat} {op : AccessOp}
    {g : Option Handle} (hreq : s.request p = some req)
    (hkind : (∃ len, req = .read addr len g ∧ n = len.toNat ∧ op = .read (n / 4) ∧ c = .read p)
      ∨ (∃ len data, req = .write addr len data g ∧ n = len.toNat ∧ op = .write data ∧ c = .write p)
      ∨ (∃ x, req = .fetchAdd addr x g ∧ n = 4 ∧ op = .fetchAdd x ∧ c = .fetchAdd p)
      ∨ (∃ x, req = .swap addr x g ∧ n = 4 ∧ op = .swap x ∧ c = .swap p)
      ∨ (∃ x y, req = .compareSwap addr x y g ∧ n = 4 ∧ op = .compareSwap x y ∧ c = .compareSwap p)) :
    ∃ len, exec c s = .next (s.presentDirect p addr len) ∧ checkedLength len = n
      ∧ req.access? = some (⟨addr.toNat, op, g⟩, len) := by
  rcases hkind with ⟨len, rfl, rfl, rfl, rfl⟩ | ⟨len, data, rfl, rfl, rfl, rfl⟩ | ⟨x, rfl, rfl, rfl, rfl⟩
    | ⟨x, rfl, rfl, rfl, rfl⟩ | ⟨x, y, rfl, rfl, rfl, rfl⟩
  · exact ⟨some len, by show execRead p s = _; rw [execRead, hreq], rfl, rfl⟩
  · exact ⟨some len, by show execWrite p s = _; rw [execWrite, hreq], rfl, rfl⟩
  · exact ⟨none, by show execFetchAdd p s = _; rw [execFetchAdd, hreq], rfl, rfl⟩
  · exact ⟨none, by show execSwap p s = _; rw [execSwap, hreq], rfl, rfl⟩
  · exact ⟨none, by show execCompareSwap p s = _; rw [execCompareSwap, hreq], rfl, rfl⟩

/-- A request presented waits at the arbiter as the access it asks for (R16). -/
theorem State.memberAccess_of_presented {s : State} {p : Port} {req : Request} {a : StoreAccess} {len : Option Word}
    (hreq : s.request p = some req) (ha : req.access? = some (a, len)) :
    (s.setLink p ((s.link p).setStage .presented)).memberAccess p .dispatcher = some ⟨0, a⟩ := by
  obtain ⟨sv, hsv, rfl, _⟩ := State.request_eq_some hreq
  simp [State.memberAccess, State.dispatcherAccess, LinkController.setStage, hsv, ha]

/-- Settles O24: the command of each direct request makes R10's checks in order, then presents the access. -/
theorem directRequestIsChecked : Obligations.DirectRequestIsChecked := by
  intro s p c req addr n op g hreq hkind
  obtain ⟨len, hexec, hlen, haccess⟩ := exec_directRequest hreq hkind
  obtain ⟨sv, hsv, _⟩ := State.request_eq_some hreq
  have hcheck := directCheck_eq addr len
  rw [hlen] at hcheck
  have hanswer : ∀ st, directCheck addr len = some st →
      ∃ t, exec c s = .next t ∧ AnsweredOnly s t p st none [] := by
    intro st hst
    refine ⟨_, hexec, ?_⟩
    rw [State.presentDirect, hst]
    exact State.answer_answeredOnly hsv st none []
  refine ⟨fun hbad => hanswer _ ?_, fun hok hbad => hanswer _ ?_, fun hok hok' => ⟨_, hexec, ?_⟩⟩
  · rw [hcheck, if_neg hbad]
  · rw [hcheck, if_pos hok, if_neg hbad]
  · rw [if_pos hok, if_pos hok'] at hcheck
    rw [State.presentDirect, hcheck]
    exact ⟨rfl, State.memberAccess_of_presented hreq haccess⟩

end Sys2Proof.Machine
end

section
/-! SUPPORT. O25 and O26: the arbiter's choice (R17, R18), and the checks made at a grant (R11). -/

namespace Sys2Proof.Machine

/-! ### The cyclic orders of ports and members -/

theorem mem_cyclicAfter_ports : ∀ last p : Port, p ∈ cyclicAfter allPorts last := by decide

theorem rotationDistance_rising : ∀ last : Port,
    (cyclicAfter allPorts last).Pairwise fun a b => rotationDistance last a < rotationDistance last b := by decide

/-- A statement of every member holds of the dispatcher and of every channel. -/
theorem Member.forall_iff {P : Member → Prop} : (∀ m, P m) ↔ P .dispatcher ∧ ∀ c, P (.chan c) := by
  refine ⟨fun h => ⟨h _, fun c => h _⟩, fun h m => ?_⟩
  cases m with
  | dispatcher => exact h.1
  | chan c => exact h.2 c

theorem mem_allMembers : ∀ m : Member, m ∈ allMembers := Member.forall_iff.mpr (by decide)

theorem mem_cyclicAfter_members : ∀ last m : Member, m ∈ cyclicAfter allMembers last := by
  simp only [Member.forall_iff]
  decide

theorem memberDistance_rising : ∀ last : Member,
    (cyclicAfter allMembers last).Pairwise fun a b => memberDistance last a < memberDistance last b :=
  Member.forall_iff.mpr (by decide)

/-! ### The choice -/

theorem State.groupWaiting_iff (s : State) (p : Port) :
    s.groupWaiting p = true ↔ ∃ m, (s.memberAccess p m).isSome = true := by
  simp [State.groupWaiting, mem_allMembers]

/-- The member chosen waits, and no waiting member stands nearer behind the last granted one (R17). -/
theorem State.chosenMember_eq_some {s : State} {p : Port} {m : Member} (h : s.chosenMember p = some m) :
    (s.memberAccess p m).isSome = true ∧ ∀ m', (s.memberAccess p m').isSome = true →
      memberDistance s.arbiter.lastMember[p] m ≤ memberDistance s.arbiter.lastMember[p] m' :=
  ⟨List.find?_some (p := fun m => (s.memberAccess p m).isSome) h,
    fun m' hm' => find?_least (memberDistance_rising _) h m' (mem_cyclicAfter_members _ m') hm'⟩

/-- A group that waits has a member chosen, with its access. -/
theorem State.exists_chosen {s : State} {p : Port} (h : s.groupWaiting p = true) :
    ∃ m a, s.chosenMember p = some m ∧ s.memberAccess p m = some a := by
  obtain ⟨m, hm⟩ := (s.groupWaiting_iff p).mp h
  have hsome : (s.chosenMember p).isSome = true := by
    rw [State.chosenMember, List.find?_isSome]
    exact ⟨m, mem_cyclicAfter_members _ m, hm⟩
  obtain ⟨m', hm'⟩ := Option.isSome_iff_exists.mp hsome
  obtain ⟨a, ha⟩ := Option.isSome_iff_exists.mp (State.chosenMember_eq_some hm').1
  exact ⟨m', a, hm', ha⟩

/-- The port of a priority grant is the one PRIORITY_PORT names, waiting, on a PRIORITY turn (R18). -/
theorem State.priorityGrant_eq_some_iff (s : State) (p : Port) :
    s.priorityGrant = some p ↔
      s.settings.priorityPort.toNat = p.val ∧ s.groupWaiting p = true ∧ s.arbiter.turn = .priority := by
  unfold State.priorityGrant State.priorityPort
  by_cases hlt : s.settings.priorityPort.toNat < 4
  · have hval : ∀ q : Port, Fin.ofNat 4 s.settings.priorityPort.toNat = q ↔ s.settings.priorityPort.toNat = q.val := by
      intro q
      rw [Fin.ext_iff, Fin.val_ofNat, Nat.mod_eq_of_lt hlt]
    rw [if_pos hlt]
    dsimp only
    split
    · next hw => exact ⟨fun h => by cases h; exact ⟨(hval _).mp rfl, hw⟩, fun h => by rw [(hval p).mpr h.1]⟩
    · next hw =>
      refine ⟨nofun, fun h => absurd ?_ hw⟩
      rw [(hval p).mpr h.1]
      exact h.2
  · rw [if_neg hlt]
    exact ⟨nofun, fun h => absurd (h.1 ▸ p.isLt) hlt⟩

/-- The port that the rotation chooses waits, and no waiting port stands nearer behind the last granted one (R17). -/
theorem State.rotationPort_eq_some {s : State} {p : Port} (h : s.rotationPort = some p) :
    s.groupWaiting p = true ∧ ∀ q, s.groupWaiting q = true →
      rotationDistance s.arbiter.lastPort p ≤ rotationDistance s.arbiter.lastPort q :=
  ⟨List.find?_some h, fun q hq => find?_least (rotationDistance_rising _) h q (mem_cyclicAfter_ports _ q) hq⟩

/-- What the next grant is made of: the port by priority or by rotation, then the member within its group. -/
theorem State.nextGrant_eq_some_iff (s : State) (p : Port) (m : Member) (a : ChannelAccess) (isPriority : Bool) :
    s.nextGrant = some (p, m, a, isPriority) ↔
      (if isPriority then s.priorityGrant = some p else s.priorityGrant = none ∧ s.rotationPort = some p)
        ∧ s.chosenMember p = some m ∧ s.memberAccess p m = some a := by
  have hof : ∀ (q : Port) (b : Bool),
      ((s.chosenMember q).bind fun m => (s.memberAccess q m).map fun a => (q, m, a, b)) = some (p, m, a, isPriority)
        ↔ (q = p ∧ b = isPriority) ∧ s.chosenMember p = some m ∧ s.memberAccess p m = some a := by
    intro q b
    simp only [Option.bind_eq_some_iff, Option.map_eq_some_iff, Prod.mk.injEq]
    constructor
    · rintro ⟨m', hm', a', ha', rfl, rfl, rfl, rfl⟩
      exact ⟨⟨rfl, rfl⟩, hm', ha'⟩
    · rintro ⟨⟨rfl, rfl⟩, hm', ha'⟩
      exact ⟨m, hm', a, ha', rfl, rfl, rfl, rfl⟩
  unfold State.nextGrant
  cases hp : s.priorityGrant with
  | some q =>
    simp only [hof]
    cases isPriority <;> simp
  | none =>
    simp only [Option.bind_eq_some_iff, hof]
    cases isPriority <;> simp

/-- With a group waiting there is a next grant. -/
theorem State.exists_nextGrant {s : State} {q : Port} (h : s.groupWaiting q = true) : ∃ g, s.nextGrant = some g := by
  cases hp : s.priorityGrant with
  | some p =>
    obtain ⟨m, a, hm, ha⟩ := State.exists_chosen ((s.priorityGrant_eq_some_iff p).mp hp).2.1
    exact ⟨(p, m, a, true), (s.nextGrant_eq_some_iff ..).mpr ⟨hp, hm, ha⟩⟩
  | none =>
    have hrot : s.rotationPort.isSome = true := by
      rw [State.rotationPort, List.find?_isSome]
      exact ⟨q, mem_cyclicAfter_ports _ q, h⟩
    obtain ⟨p, hp'⟩ := Option.isSome_iff_exists.mp hrot
    obtain ⟨m, a, hm, ha⟩ := State.exists_chosen (State.rotationPort_eq_some hp').1
    exact ⟨(p, m, a, false), (s.nextGrant_eq_some_iff ..).mpr ⟨⟨hp, hp'⟩, hm, ha⟩⟩

/-- The next grant is the one that ARBITER_GRANT makes. -/
theorem State.grantNext_of_nextGrant {s : State} {p : Port} {m : Member} {a : ChannelAccess} {isPriority : Bool}
    (h : s.nextGrant = some (p, m, a, isPriority)) :
    s.grantNext = (s.setArbiter (s.arbiter.rotated p m isPriority)).startAccess p m a := by
  obtain ⟨hport, hm, ha⟩ := (s.nextGrant_eq_some_iff ..).mp h
  have hgrant : s.grantPort p isPriority = (s.setArbiter (s.arbiter.rotated p m isPriority)).startAccess p m a := by
    simp [State.grantPort, hm, ha]
  rw [← hgrant]
  unfold State.grantNext
  cases isPriority with
  | true => rw [if_pos rfl] at hport; rw [hport]
  | false =>
    obtain ⟨hnone, hrot⟩ := hport
    rw [hnone, hrot]

/-- With no group waiting nothing is granted. -/
theorem State.grantNext_of_nothing_waiting {s : State} (h : ∀ q, s.groupWaiting q = false) : s.grantNext = s := by
  have hpri : s.priorityGrant = none := by
    cases hp : s.priorityGrant with
    | none => rfl
    | some p => exact absurd ((s.priorityGrant_eq_some_iff p).mp hp).2.1 (by simp [h])
  have hrot : s.rotationPort = none := by simp [State.rotationPort, h]
  rw [State.grantNext, hpri, hrot]

theorem exec_arbiterGrant {s : State} (h : s.arbiter.inProgress = none) : exec .arbiterGrant s = .next s.grantNext := by
  show execArbiterGrant s = _
  rw [execArbiterGrant, h]

/-! ### What delivering an outcome leaves alone -/

/-- A change that leaves the arbiter's rotation and access in progress, the lease restart reports, and the events handed before it. -/
structure GrantStands (s t : State) : Prop where
  lastPort : t.arbiter.lastPort = s.arbiter.lastPort
  lastMember : t.arbiter.lastMember = s.arbiter.lastMember
  turn : t.arbiter.turn = s.arbiter.turn
  inProgress : t.arbiter.inProgress = s.arbiter.inProgress
  reports : t.reports = s.reports
  events : s.events <+: t.events

theorem GrantStands.refl (s : State) : GrantStands s s := ⟨rfl, rfl, rfl, rfl, rfl, ⟨[], List.append_nil _⟩⟩

theorem GrantStands.trans {s t u : State} (h : GrantStands s t) (h' : GrantStands t u) : GrantStands s u :=
  ⟨h'.lastPort.trans h.lastPort, h'.lastMember.trans h.lastMember, h'.turn.trans h.turn, h'.inProgress.trans h.inProgress,
    h'.reports.trans h.reports, h.events.trans h'.events⟩

theorem GrantStands.setLink (s : State) (p : Port) (lc : LinkController) : GrantStands s (s.setLink p lc) :=
  ⟨rfl, rfl, rfl, rfl, rfl, ⟨[], List.append_nil _⟩⟩

theorem GrantStands.setWaiting (s : State) (c : Channel) (a : Option ChannelAccess) : GrantStands s (s.setWaiting c a) :=
  ⟨rfl, rfl, rfl, rfl, rfl, ⟨[], List.append_nil _⟩⟩

theorem GrantStands.setOutcome (s : State) (c : Channel) (o : Option (ChannelAccess × AccessOutcome)) :
    GrantStands s (s.setOutcome c o) := ⟨rfl, rfl, rfl, rfl, rfl, ⟨[], List.append_nil _⟩⟩

theorem GrantStands.hand (s : State) (l : List Handed) : GrantStands s (s.hand l) := by
  refine ⟨rfl, rfl, rfl, rfl, rfl, ?_⟩
  rw [State.hand_events]
  split
  · exact ⟨[], List.append_nil _⟩
  · exact ⟨_, rfl⟩

theorem GrantStands.ofEngine {s t : State} (h : EngineOnly s t) (he : s.events <+: t.events) : GrantStands s t := by
  obtain ⟨_, _, _, _, _, _, _, _, _, _, _, hreports, _, _, _, hport, hmember, hturn, hprog⟩ := h.kept
  exact ⟨hport, hmember, hturn, hprog, hreports, he⟩

theorem GrantStands.giveSlots (s : State) (p : Port) : GrantStands s (s.giveSlots p) := by
  refine .ofEngine (.giveSlots ..) ?_
  rw [State.giveSlots_frame]

theorem GrantStands.takeLockPortDown (s : State) (p : Port) : GrantStands s (s.takeLockPortDown p) := by
  unfold State.takeLockPortDown
  split
  · exact .refl s
  · exact (GrantStands.hand s _).trans ⟨rfl, rfl, rfl, rfl, rfl, ⟨[], List.append_nil _⟩⟩

theorem GrantStands.foldl {f : State → Channel → State} (hf : ∀ s c, GrantStands s (f s c)) (l : List Channel) (s : State) :
    GrantStands s (l.foldl f s) := by
  induction l generalizing s with
  | nil => exact .refl s
  | cons c rest ih => exact (hf s c).trans (ih _)

theorem GrantStands.takeArbiterPortDown (s : State) (p : Port) : GrantStands s (s.takeArbiterPortDown p) := by
  unfold State.takeArbiterPortDown
  split
  · have hwithdrawn := GrantStands.foldl (fun t c => .setWaiting t c none) (s.boundTo p) s
    exact hwithdrawn.trans ⟨rfl, rfl, rfl, rfl, rfl, ⟨[], List.append_nil _⟩⟩
  · exact .refl s

theorem GrantStands.takeNoticePortDown (s : State) (p : Port) : GrantStands s (s.takeNoticePortDown p) := by
  unfold State.takeNoticePortDown
  split
  · exact .refl s
  all_goals exact ⟨rfl, rfl, rfl, rfl, rfl, ⟨[], List.append_nil _⟩⟩

/-- A claim's events stand behind those handed before (R137). -/
theorem GrantStands.takeClaim (s : State) (p : Port) : GrantStands s (s.takeClaim p) := by
  have hjoin : ∀ u v : State, u.events <+: (u.asOneAction v).events := by
    intro u v
    rw [State.asOneAction_events, joined]
    split
    · exact ⟨[], List.append_nil _⟩
    · exact ⟨_, rfl⟩
  refine .ofEngine (.takeClaim ..) ?_
  unfold State.takeClaim
  split
  · next cl rest _ =>
    unfold State.carryClaim
    split
    · exact hjoin (s.setClaims p rest) _
    · exact hjoin (s.setClaims p rest) _
  · exact ⟨[], List.append_nil _⟩

theorem GrantStands.takeClaims (s : State) (p : Port) (n : Nat) : GrantStands s (s.takeClaims p n) := by
  induction n generalizing s with
  | zero => exact .refl s
  | succ n ih => exact (GrantStands.takeClaim s p).trans (ih _)

theorem GrantStands.settlePort (s : State) (p : Port) : GrantStands s (s.settlePort p) :=
  (((GrantStands.takeLockPortDown s p).trans (.takeArbiterPortDown ..)).trans (.takeClaims ..)).trans
    (.takeNoticePortDown ..)

theorem GrantStands.portUpEvent (s : State) (p : Port) : GrantStands s (s.portUpEvent p) :=
  (((GrantStands.settlePort s p).trans (.setLink ..)).trans (.hand ..)).trans (.giveSlots ..)

theorem GrantStands.endDiscarded (s : State) (p : Port) : GrantStands s (s.endDiscarded p) := by
  have hidle := GrantStands.setLink s p (s.link p).discardService
  unfold State.endDiscarded
  dsimp only
  split
  · exact hidle.trans (.portUpEvent ..)
  · exact hidle

theorem GrantStands.answer (s : State) (p : Port) (st : Status) (d : Option Half) (w : List Word) :
    GrantStands s (s.answer p st d w) := by
  unfold State.answer
  split
  · exact .setLink ..
  · exact .refl s

theorem GrantStands.deliver (s : State) (p : Port) (m : Member) (a : ChannelAccess) (o : AccessOutcome) :
    GrantStands s (s.deliver p m a o) := by
  cases m with
  | dispatcher =>
    show GrantStands s (s.deliverDirect p o)
    unfold State.deliverDirect
    split
    · split
      · exact .endDiscarded ..
      · exact .answer ..
    · exact .refl s
  | chan c => exact .setOutcome ..

theorem GrantStands.takeAccess (s : State) (p : Port) (m : Member) : GrantStands s (s.takeAccess p m) := by
  cases m with
  | dispatcher => exact .setLink ..
  | chan c => exact .setWaiting ..

/-- A grant's access leaves the rotation state that the grant has set. -/
theorem State.startAccess_rotation (s : State) (p : Port) (m : Member) (a : ChannelAccess) :
    (s.startAccess p m a).arbiter.lastPort = s.arbiter.lastPort
      ∧ (s.startAccess p m a).arbiter.lastMember = s.arbiter.lastMember
      ∧ (s.startAccess p m a).arbiter.turn = s.arbiter.turn := by
  have htake := GrantStands.takeAccess s p m
  unfold State.startAccess
  dsimp only
  split
  · next o _ =>
    have hrefused := htake.trans (.deliver _ p m a o)
    exact ⟨hrefused.lastPort, hrefused.lastMember, hrefused.turn⟩
  · exact ⟨htake.lastPort, htake.lastMember, htake.turn⟩

/-! ### O25 -/

/-- Settles O25: the choice is a search in cyclic order, the grant sets the rotation state and the access leaves it. -/
theorem grantFollowsTheRotation : Obligations.GrantFollowsTheRotation := by
  intro s hidle
  refine ⟨fun hnone => ?_, fun ⟨q, hq⟩ => State.exists_nextGrant hq, fun p m a isPriority hgrant => ?_⟩
  · rw [exec_arbiterGrant hidle, State.grantNext_of_nothing_waiting hnone]
  obtain ⟨hport, hm, ha⟩ := (s.nextGrant_eq_some_iff ..).mp hgrant
  refine ⟨ha, (State.chosenMember_eq_some hm).2, fun htrue => ?_, fun hfalse => ?_, _, exec_arbiterGrant hidle, ?_⟩
  · rw [if_pos htrue] at hport
    obtain ⟨hval, _, hturn⟩ := (s.priorityGrant_eq_some_iff p).mp hport
    exact ⟨hval, hturn⟩
  · rw [if_neg (by simp [hfalse])] at hport
    obtain ⟨hnone, hrot⟩ := hport
    refine ⟨(State.rotationPort_eq_some hrot).2, fun hturn q hq => ?_⟩
    by_contra hw
    have hsome := (s.priorityGrant_eq_some_iff q).mpr ⟨hq.symm, by simpa using hw, hturn⟩
    rw [hnone] at hsome
    cases hsome
  · rw [State.grantNext_of_nextGrant hgrant]
    exact State.startAccess_rotation (s.setArbiter (s.arbiter.rotated p m isPriority)) p m a

end Sys2Proof.Machine
end

section
/-! SUPPORT. O26: the checks made at a grant, in order guard, lock, poison (R11, R53 to R58), and the access refused or in progress. -/

namespace Sys2Proof.Machine

/-! ### The checks -/

/-- A write of all 64 bytes of a granule (R5, R6): no atomic has 16 words. -/
theorem StoreAccess.fullGranule_iff (a : StoreAccess) :
    a.fullGranule = true ↔ a.op.isWrite = true ∧ a.op.count = 16 ∧ a.addr % 64 = 0 := by
  unfold StoreAccess.fullGranule
  cases a.op <;> simp [AccessOp.isWrite, AccessOp.count]

/-- A guard that R57 does not accept refuses (R58). -/
theorem guardCheck_of_fails {u : LockUnit} {p : Port} {a : StoreAccess} {h : Handle} (hg : a.guard = some h)
    (hf : ¬GuardPasses u p h) : guardCheck u p a = some .guardFailed := by
  unfold guardCheck
  rw [hg]
  exact if_neg (mt (u.guardHolds_iff p h).mp hf)

/-- The class of a lock refusal (R55): OWN_PORT when some refusing entry names the port. -/
theorem LockUnit.refusalClass_eq_ownPort_iff (u : LockUnit) (p : Port) (l : List LockSlot) :
    u.refusalClass p l = .ownPort ↔ ∃ j ∈ l, ∃ c ∈ (u.entry j).state.claim?, c.owner = p := by
  have howner : ∀ j, u.ownerIs p j = true ↔ ∃ c ∈ (u.entry j).state.claim?, c.owner = p := by
    intro j
    unfold LockUnit.ownerIs
    cases (u.entry j).state.claim? <;> simp
  simp only [← howner, ← List.any_eq_true, LockUnit.refusalClass]
  split <;> simp [*]

/-- The lock check names the lowest-numbered refusing slot and the class of the refusal (R54, R55). -/
theorem lockCheck_of_refuses {u : LockUnit} {p : Port} {a : StoreAccess} {k : LockSlot}
    (hk : EntryRefuses u p (granuleOf a.addr) a.op.isWrite k)
    (hlow : ∀ j, j < k → ¬EntryRefuses u p (granuleOf a.addr) a.op.isWrite j) :
    ∃ cls, lockCheck u p a = some (.lockRefused k cls)
      ∧ (cls = .ownPort ↔ ∃ j, EntryRefuses u p (granuleOf a.addr) a.op.isWrite j
          ∧ ∃ c ∈ (u.entry j).state.claim?, c.owner = p) := by
  have hmem := u.mem_refusers p (granuleOf a.addr) a.op.isWrite
  unfold lockCheck
  cases hr : u.refusers p (granuleOf a.addr) a.op.isWrite with
  | nil =>
    have hk' := (hmem k).mpr hk
    rw [hr] at hk'
    cases hk'
  | cons j rest =>
    have hsorted : (j :: rest).Pairwise (· < ·) := hr ▸ allLockSlots_sorted.sublist List.filter_sublist
    have hj : EntryRefuses u p (granuleOf a.addr) a.op.isWrite j := (hmem j).mp (hr ▸ List.mem_cons_self)
    have hjk : j = k := by
      have hk' := (hmem k).mpr hk
      rw [hr] at hk'
      rcases List.mem_cons.mp hk' with h | h
      · exact h.symm
      · exact absurd hj (hlow j ((List.pairwise_cons.mp hsorted).1 k h))
    refine ⟨u.refusalClass p (j :: rest), by rw [hjk], ?_⟩
    rw [LockUnit.refusalClass_eq_ownPort_iff, ← hr]
    simp only [hmem]

/-- The poison check refuses a read of a poisoned granule, and a write of less than all of it (Table 1.1). -/
theorem poisonCheck_eq (poison : List Nat) (a : StoreAccess) :
    poisonCheck poison a
      = if granuleOf a.addr ∈ poison then
          if a.op.isWrite = false then some .dataError
          else if a.op.count = 16 ∧ a.addr % 64 = 0 then none else some .poisoned
        else none := by
  have hfull := a.fullGranule_iff
  unfold poisonCheck
  cases hw : a.op.isWrite with
  | false => simp
  | true =>
    by_cases hc : a.op.count = 16 ∧ a.addr % 64 = 0
    · simp [hfull.mpr ⟨hw, hc⟩, hc]
    · simp [mt hfull.mp (fun h => hc h.2), hc]

/-- The port's leased HELD entries that cover a granule (R60). -/
def LockUnit.leasedOver (u : LockUnit) (p : Port) (g : Nat) : List Handle :=
  (allLockSlots.filter fun k => match (u.entry k).state.held? with
    | some c => decide (c.owner = p) && c.covers g && decide (c.leaseLen ≠ 0)
    | none => false).map u.handleAt

theorem LockUnit.mem_leasedOver (u : LockUnit) (p : Port) (g : Nat) (h : Handle) :
    h ∈ u.leasedOver p g ↔ ∃ c, u.entry h.slot = ⟨h.gen, .held c⟩ ∧ c.owner = p ∧ c.first ≤ g ∧ g < c.first + c.count
      ∧ c.leaseLen ≠ 0 := by
  simp only [LockUnit.leasedOver, List.mem_map, List.mem_filter, mem_allLockSlots, true_and]
  constructor
  · rintro ⟨k, hk, rfl⟩
    cases hs : (u.entry k).state with
    | held c =>
      simp only [hs, EntryState.held?, Claim.covers, Bool.and_eq_true, decide_eq_true_eq] at hk
      obtain ⟨⟨howner, hfirst, hlast⟩, hlease⟩ := hk
      refine ⟨c, ?_, howner, hfirst, hlast, hlease⟩
      rw [← hs]
      rfl
    | _ => simp [hs, EntryState.held?] at hk
  · rintro ⟨c, he, howner, hfirst, hlast, hlease⟩
    refine ⟨h.slot, ?_, by simp [LockUnit.handleAt, he]⟩
    simp [he, EntryState.held?, Claim.covers, howner, hfirst, hlast, hlease]

/-- The report of an access without a guard, and of one with. -/
theorem leaseReport_eq (u : LockUnit) (p : Port) (a : StoreAccess) :
    leaseReport u p a = a.guard.elim (u.leasedOver p (granuleOf a.addr)) fun h =>
      if h ∈ u.leasedOver p (granuleOf a.addr) then u.leasedOver p (granuleOf a.addr)
      else u.leasedOver p (granuleOf a.addr) ++ [h] := by
  unfold leaseReport
  cases a.guard <;> rfl

/-- A lease restart report names the guard's entry and the port's leased HELD entries that cover the granule (R60). -/
theorem mem_leaseReport (u : LockUnit) (p : Port) (a : StoreAccess) (h : Handle) :
    h ∈ leaseReport u p a ↔ a.guard = some h
      ∨ ∃ c, u.entry h.slot = ⟨h.gen, .held c⟩ ∧ c.owner = p ∧ c.first ≤ granuleOf a.addr
          ∧ granuleOf a.addr < c.first + c.count ∧ c.leaseLen ≠ 0 := by
  rw [leaseReport_eq, ← LockUnit.mem_leasedOver]
  generalize u.leasedOver p (granuleOf a.addr) = covering
  cases a.guard with
  | none => simp
  | some g =>
    by_cases hin : g ∈ covering
    · have hguard : some g = some h → h ∈ covering := fun he => by cases he; exact hin
      simp only [Option.elim_some, if_pos hin]
      exact ⟨Or.inr, fun h' => h'.elim hguard id⟩
    · simp only [Option.elim_some, if_neg hin, List.mem_append, List.mem_singleton, Option.some.injEq]
      rw [or_comm, eq_comm]

/-! ### The dispatcher's request at the arbiter -/

/-- The dispatcher's access at the arbiter is that of its request in service, presented. -/
theorem State.service_of_memberAccess {s : State} {p : Port} {a : ChannelAccess}
    (h : s.memberAccess p .dispatcher = some a) : ∃ sv, (s.link p).service = some sv ∧ sv.stage = .presented := by
  obtain ⟨b, hb, _⟩ := Option.map_eq_some_iff.mp h
  unfold State.dispatcherAccess at hb
  split at hb
  · next sv hsv =>
    split at hb
    · next hst => exact ⟨sv, hsv, hst⟩
    · cases hb
  · cases hb

/-- The answer to a request whose stage and mark alone have moved since the state s: what the statements ask of it. -/
theorem State.answer_answered {s u : State} {p : Port} {sv sv' : Service} (h : (s.link p).service = some sv)
    (hu : u.link p = { s.link p with service := some sv' }) (hpkt : sv'.pkt = sv.pkt) (hother : ∀ q, q ≠ p → u.link q = s.link q)
    (st : Status) (d : Option Half) (w : List Word) :
    AnsweredAs s (u.answer p st d w) p st d w ∧ DispatcherOnly s (u.answer p st d w) p := by
  refine ⟨⟨sv, h, ?_⟩, fun q hq => by rw [State.answer_link_other _ _ _ _ _ _ hq, hother q hq], ?_⟩
  · simp [State.answer, hu, LinkController.answer, LinkController.dispatch, hpkt]
  · have hans : (u.answer p st d w).link p = (u.link p).answer (respond sv.pkt st d w) := by
      simp [State.answer, hu, hpkt]
    rw [hans, hu]
    exact LinkController.dispatch_kept _

/-- The Link Controllers and the arbiter alone have changed, and of the channels' accesses at it only that of the member granted, which
waits no more (R16). -/
def AccessTaken (s t : State) (m : Member) : Prop :=
  t = { s with links := t.links, arbiter := t.arbiter }
    ∧ (∀ c : Channel, m ≠ .chan c → t.waitingAccess c = s.waitingAccess c ∧ t.outcomeOf c = s.outcomeOf c)
    ∧ ∀ c : Channel, m = .chan c → t.waitingAccess c = none

/-- An access refused at its grant is over: its outcome is delivered and nothing else has changed (log entry 9). -/
theorem State.refuse_delivered {s u t : State} {p : Port} {m : Member} {a : ChannelAccess} {o : AccessOutcome}
    (hu : u = { s with arbiter := { s.arbiter with
      lastPort := u.arbiter.lastPort, lastMember := u.arbiter.lastMember, turn := u.arbiter.turn } })
    (hidle : s.arbiter.inProgress = none)
    (hdisc : ∀ sv, (s.link p).service = some sv → sv.stage = .presented → sv.discard = false)
    (ha : s.memberAccess p m = some a) (ht : t = (u.takeAccess p m).deliver p m a o) :
    AccessTaken s t m ∧ t.arbiter.inProgress = none ∧ Delivered s t p m a o := by
  have hlink : ∀ q, u.link q = s.link q := by
    intro q
    rw [hu]
    rfl
  cases m with
  | dispatcher =>
    obtain ⟨sv, hsv, hst⟩ := State.service_of_memberAccess ha
    have hself : (u.takeAccess p .dispatcher).link p
        = { s.link p with service := some { sv with stage := .granted } } := by
      simp [State.takeAccess, LinkController.setStage, hlink, hsv]
    have hdirect : (u.takeAccess p .dispatcher).deliver p .dispatcher a o
        = (u.takeAccess p .dispatcher).answer p (directStatus o) (directDetail o) (directWords o) := by
      simp [State.deliver, State.deliverDirect, hself, hdisc sv hsv hst]
    rw [ht, hdirect]
    refine ⟨⟨?_, fun c _ => ?_, fun c hc => (by cases hc)⟩, ?_,
      fun _ _ => State.answer_answered hsv hself rfl (fun q hq => ?_) ..⟩
    · rw [State.answer_frame, hu]
      rfl
    · rw [State.answer_frame, hu]
      exact ⟨rfl, rfl⟩
    · rw [State.answer_frame, hu]
      exact hidle
    · rw [← hlink q]
      exact State.setLink_link_other _ _ hq
  | chan c =>
    have hlinks : u.links = s.links := by rw [hu]
    subst ht
    refine ⟨⟨?_, fun d hd => ?_, fun d hd => ?_⟩, ?_, State.setOutcome_outcomeOf_self .., hlinks⟩
    · rw [hu]
      rfl
    · have hdc : d ≠ c := fun h => hd (h ▸ rfl)
      refine ⟨(State.setWaiting_waitingAccess_other u none hdc).trans ?_, (State.setOutcome_outcomeOf_other _ _ hdc).trans ?_⟩ <;>
        rw [hu] <;> rfl
    · cases hd
      exact State.setWaiting_waitingAccess_self u c none
    · rw [hu]
      exact hidle

/-- An access that passes its checks is in progress, with the report it will hand on (R17, R60). -/
theorem State.startAccess_passed {s u t : State} {p : Port} {m : Member} {a : ChannelAccess}
    (hu : u = { s with arbiter := { s.arbiter with
      lastPort := u.arbiter.lastPort, lastMember := u.arbiter.lastMember, turn := u.arbiter.turn } })
    (hpass : grantCheck s.locks s.poison p a.access = none) (ht : t = u.startAccess p m a) :
    AccessTaken s t m
      ∧ t.arbiter.inProgress = some ⟨p, m, a.chunk, a.access, leaseReport s.locks p a.access⟩
      ∧ (m = .dispatcher → t.links = (s.setLink p ((s.link p).setStage .granted)).links)
      ∧ ∀ c, m = .chan c → t.links = s.links ∧ t.outcomeOf c = s.outcomeOf c := by
  have hstart : u.startAccess p m a = (u.takeAccess p m).setArbiter { (u.takeAccess p m).arbiter with
      inProgress := some ⟨p, m, a.chunk, a.access, leaseReport s.locks p a.access⟩ } := by
    have hlocks : u.locks = s.locks := by rw [hu]
    have hpoison : u.poison = s.poison := by rw [hu]
    rw [State.startAccess, hlocks, hpoison, hpass]
  rw [ht, hstart]
  cases m with
  | dispatcher =>
    refine ⟨⟨?_, fun c _ => ?_, fun c hc => (by cases hc)⟩, rfl, fun _ => ?_, fun c hc => (by cases hc)⟩ <;> rw [hu]
    · rfl
    · exact ⟨rfl, rfl⟩
    · rfl
  | chan c =>
    refine ⟨⟨?_, fun d hd => ?_, fun d hd => ?_⟩, rfl, fun hm => (by cases hm), fun d _ => ?_⟩
    · rw [hu]
      rfl
    · have hdc : d ≠ c := fun h => hd (h ▸ rfl)
      refine ⟨(State.setWaiting_waitingAccess_other u none hdc).trans ?_, ?_⟩ <;> rw [hu] <;> rfl
    · cases hd
      exact State.setWaiting_waitingAccess_self u c none
    · rw [hu]
      exact ⟨rfl, rfl⟩

/-! ### O26 -/

/-- Settles O26: the three checks in order, each refusal delivered, and the access that passes all of them put in progress. -/
theorem grantMakesTheChecks : Obligations.GrantMakesTheChecks := by
  intro s p m a isPriority hidle hlawful hgrant
  obtain ⟨_, _, ha⟩ := (s.nextGrant_eq_some_iff ..).mp hgrant
  have hexec := exec_arbiterGrant hidle
  rw [State.grantNext_of_nextGrant hgrant] at hexec
  generalize ht : (s.setArbiter (s.arbiter.rotated p m isPriority)).startAccess p m a = t at hexec
  have hdisc : ∀ sv, (s.link p).service = some sv → sv.stage = .presented → sv.discard = false := by
    intro sv hsv hst
    obtain ⟨_, _, _, hservice, _⟩ := hlawful p
    by_contra hd
    have hgranted := (hservice sv hsv).2 (by simpa using hd)
    rw [hst] at hgranted
    cases hgranted
  have hrefused : ∀ o, grantCheck s.locks s.poison p a.access = some o →
      AccessTaken s t m ∧ t.arbiter.inProgress = none ∧ Delivered s t p m a o := by
    intro o ho
    rw [State.startAccess, State.setArbiter_locks, State.setArbiter_poison, ho] at ht
    exact State.refuse_delivered rfl hidle hdisc ha ht.symm
  have htaken : AccessTaken s t m := by
    cases hchk : grantCheck s.locks s.poison p a.access with
    | some o => exact (hrefused o hchk).1
    | none => exact (State.startAccess_passed rfl hchk ht.symm).1
  obtain ⟨hframe, hothers, hself⟩ := htaken
  refine ⟨t, hexec, hframe, hothers, hself, ?_⟩
  rintro g isWrite rfl rfl
  have hcheck : grantCheck s.locks s.poison p a.access = (guardCheck s.locks p a.access).or
    ((lockCheck s.locks p a.access).or (poisonCheck s.poison a.access)) := rfl
  refine ⟨fun h hg hf => ?_, fun hguard => ?_⟩
  · rw [guardCheck_of_fails hg hf] at hcheck
    exact (hrefused _ hcheck).2
  rw [(guardCheck_eq_none ..).mpr hguard, Option.none_or] at hcheck
  refine ⟨fun k hk hlow => ?_, fun hlock => ?_⟩
  · obtain ⟨cls, hcls, hown⟩ := lockCheck_of_refuses hk hlow
    rw [hcls] at hcheck
    obtain ⟨_, hover, hdel⟩ := hrefused _ hcheck
    exact ⟨cls, hover, hdel, hown⟩
  rw [(lockCheck_eq_none ..).mpr hlock, Option.none_or, poisonCheck_eq] at hcheck
  refine ⟨fun hp hw => ?_, fun hp hw hpart => ?_, fun hclear => ?_⟩
  · rw [if_pos (by exact hp), if_pos hw] at hcheck
    exact (hrefused _ hcheck).2
  · rw [if_pos (by exact hp), if_neg (by simp [hw]), if_neg hpart] at hcheck
    exact (hrefused _ hcheck).2
  · have hnone : grantCheck s.locks s.poison p a.access = none := by
      rw [hcheck]
      split
      · next hp =>
        obtain ⟨hw, hwhole⟩ := hclear.resolve_left (not_not.mpr hp)
        rw [if_neg (by simp [hw]), if_pos hwhole]
      · rfl
    obtain ⟨_, hprog, hdispatcher, hchannel⟩ := State.startAccess_passed rfl hnone ht.symm
    exact ⟨⟨_, hprog, mem_leaseReport s.locks p a.access⟩, hdispatcher, hchannel⟩

end Sys2Proof.Machine
end

section
/-! SUPPORT. O27, O28 and O29: an access carried out (R12 to R15), its report and its outcome delivered or discarded (R60, R164). -/

namespace Sys2Proof.Machine

/-! ### The waiting accesses withdrawn (R20) -/

/-- Withdrawing the accesses of some channels touches nothing but what waits at the arbiter. -/
theorem State.foldl_withdrawAccess_frame (l : List Channel) (s : State) :
    l.foldl (fun t c => t.withdrawAccess c) s
      = { s with arbiter := { s.arbiter with waiting := (l.foldl (fun t c => t.withdrawAccess c) s).arbiter.waiting } } := by
  induction l generalizing s with
  | nil => rfl
  | cons c rest ih =>
    have hrest := ih (s.withdrawAccess c)
    exact hrest

theorem State.foldl_withdrawAccess_waitingAccess (l : List Channel) (s : State) (c : Channel) :
    (l.foldl (fun t c => t.withdrawAccess c) s).waitingAccess c = if c ∈ l then none else s.waitingAccess c := by
  induction l generalizing s with
  | nil => rfl
  | cons d rest ih =>
    rw [List.foldl_cons, ih, State.withdrawAccess, State.setWaiting_waitingAccess]
    by_cases hc : c = d
    · simp [hc]
    · simp [hc]

/-! ### A port that comes UP with its dispatcher IDLE (R165) -/

/-- Settling a port whose dispatcher is IDLE touches of its Link Controller what belongs to hub requests alone. -/
theorem State.settlePort_link {s : State} {p : Port} (h : (s.link p).service = none) :
    (s.settlePort p).link p = { s.link p with
      slots := ((s.settlePort p).link p).slots, unsent := ((s.settlePort p).link p).unsent
      waiting := ((s.settlePort p).link p).waiting, lastServed := ((s.settlePort p).link p).lastServed } := by
  have hlock : ∀ t : State, (t.takeLockPortDown p).link p = t.link p := by
    intro t
    unfold State.takeLockPortDown
    split <;> rfl
  have harb : ∀ t : State, (t.link p).service = none → (t.takeArbiterPortDown p).link p = t.link p := by
    intro t ht
    unfold State.takeArbiterPortDown
    split
    · dsimp only
      rw [State.setPortDown_link, State.setLink_link_self, State.foldl_withdrawAccess_frame]
      show (t.link p).withdrawPresented = _
      simp [LinkController.withdrawPresented, ht]
    · rfl
  have hnotice : ∀ t : State, (t.takeNoticePortDown p).link p = t.link p := by
    intro t
    unfold State.takeNoticePortDown
    split <;> rfl
  have hclaims := fun t n => (EngineKeeps.takeClaims t p n).link p
  have hstart : ((s.takeLockPortDown p).takeArbiterPortDown p).link p = s.link p := by
    rw [harb _ (by rw [hlock, h]), hlock]
  unfold State.settlePort
  dsimp only
  rw [hnotice]
  generalize ((s.takeLockPortDown p).takeArbiterPortDown p).claimsOf p = l
  have hdone := hclaims ((s.takeLockPortDown p).takeArbiterPortDown p) l.length
  rw [hstart] at hdone
  exact hdone

/-- A port that comes UP with its dispatcher IDLE and no response left. -/
theorem State.portUpEvent_idle {s : State} {p : Port} (hs : (s.link p).service = none) (hr : (s.link p).responses = []) :
    ((s.portUpEvent p).link p).service = none ∧ ((s.portUpEvent p).link p).responses = []
      ∧ ((s.portUpEvent p).link p).heldCount = 0 ∧ ((s.portUpEvent p).link p).link = .up := by
  have hsettled := State.settlePort_link hs
  unfold State.portUpEvent
  dsimp only
  generalize s.settlePort p = t at hsettled
  rw [(EngineKeeps.giveSlots _ p).link p]
  dsimp only
  rw [State.hand_link, State.setLink_link_self, LinkController.bringUp, hsettled]
  exact ⟨hs, hr, rfl, rfl⟩

/-- The end of service of a request from before the loss (R151, R164). -/
theorem State.endDiscarded_endsDiscarded {s u : State} {p : Port} (hu : u.link p = s.link p) :
    EndsDiscarded s (u.endDiscarded p) p := by
  intro hresp hin
  have hself : (u.setLink p (u.link p).discardService).link p = (s.link p).discardService := by
    rw [State.setLink_link_self, hu]
  unfold State.endDiscarded
  dsimp only
  by_cases hready : (s.link p).link = .training ∧ (s.link p).readyTaken = some true
  · have hcond : ((u.setLink p (u.link p).discardService).link p).link = .training
        ∧ ((u.setLink p (u.link p).discardService).link p).readyTaken = some true := by
      rw [hself]
      exact hready
    rw [if_pos hcond, if_pos hready]
    exact State.portUpEvent_idle (by rw [hself]; rfl) (by rw [hself]; exact hresp)
  · have hcond : ¬(((u.setLink p (u.link p).discardService).link p).link = .training
        ∧ ((u.setLink p (u.link p).discardService).link p).readyTaken = some true) := by
      rw [hself]
      exact hready
    rw [if_neg hcond, if_neg hready, hself]
    exact ⟨rfl, hresp, rfl, rfl⟩

/-! ### The completion of an access (R19) -/

/-- What the completion of the access in progress, with its effect, makes of the state. -/
structure Completed (s t : State) (g : Granted) (e : AccessEffect) : Prop where
  store : t.store = e.store
  poison : t.poison = poisonAfter s.poison g.access e.met
  reports : t.reports = (s.reportAccess g e.outcome).reports
  inProgress : t.arbiter.inProgress = none
  events : (s.handPoison g.access e.met).events <+: t.events
  wanted : ResultWanted s g → t = { s with store := t.store, poison := t.poison, reports := t.reports, events := t.events
                                           arbiter := t.arbiter, links := t.links }
    ∧ t.events = (s.handPoison g.access e.met).events ∧ Delivered s t g.port g.member ⟨g.chunk, g.access⟩ e.outcome
  discarded : ResultDiscarded s g → EndsDiscarded s t g.port

/-- A delivered outcome leaves the store and the poison set. -/
theorem State.deliver_store (s : State) (p : Port) (m : Member) (a : ChannelAccess) (o : AccessOutcome) :
    (s.deliver p m a o).store = s.store ∧ (s.deliver p m a o).poison = s.poison := by
  cases m with
  | dispatcher => exact ⟨(StoreUntouched.deliverDirect s p o).store, (StoreUntouched.deliverDirect s p o).poison⟩
  | chan c => exact ⟨rfl, rfl⟩

theorem State.carriedOut_events (s : State) (g : Granted) :
    (s.carriedOut g).events = (s.handPoison g.access (g.access.carryOut s.store).met).events := by
  unfold State.carriedOut State.handPoison State.reportAccess
  split <;> split <;> rfl

theorem State.carriedOut_reports (s : State) (g : Granted) :
    (s.carriedOut g).reports = (s.reportAccess g (g.access.carryOut s.store).outcome).reports := by
  unfold State.carriedOut State.handPoison State.reportAccess
  split <;> split <;> rfl

/-- An outcome that is wanted is answered, or handed to its channel, and nothing else changes. -/
theorem State.deliver_wanted {s u : State} {g : Granted} (hw : ResultWanted s g) (hu : u.links = s.links) (a : ChannelAccess)
    (o : AccessOutcome) :
    u.deliver g.port g.member a o = { u with links := (u.deliver g.port g.member a o).links
                                             arbiter := (u.deliver g.port g.member a o).arbiter }
      ∧ Delivered s (u.deliver g.port g.member a o) g.port g.member a o := by
  have hlink : ∀ q, u.link q = s.link q := fun q => by rw [State.link, hu, State.link]
  unfold ResultWanted at hw
  cases hm : g.member with
  | dispatcher =>
    obtain ⟨sv, hsv, hd⟩ := hw hm
    have hdirect : u.deliver g.port .dispatcher a o
        = u.answer g.port (directStatus o) (directDetail o) (directWords o) := by
      simp [State.deliver, State.deliverDirect, hlink, hsv, hd]
    rw [hdirect]
    refine ⟨?_, fun _ _ => ⟨State.answer_answeredAs hsv (hlink _) .., State.answer_dispatcherOnly hlink ..⟩⟩
    rw [State.answer_frame]
  | chan c => exact ⟨rfl, State.setOutcome_outcomeOf_self .., hu⟩

/-- ACCESS_COMPLETE carries the access out, hands its report and delivers its outcome. -/
theorem exec_accessComplete {s : State} {g : Granted} (hg : s.arbiter.inProgress = some g) :
    ∃ t, exec .accessComplete s = .next t ∧ Completed s t g (g.access.carryOut s.store) := by
  have hexec : exec .accessComplete s = .next (s.finishAccess g) := by
    show execAccessComplete s = _
    rw [execAccessComplete, hg]
  refine ⟨_, hexec, ?_⟩
  rw [State.finishAccess_eq]
  have hframe := s.carriedOut_frame g
  have hevents := s.carriedOut_events g
  have hreports := s.carriedOut_reports g
  generalize s.carriedOut g = u at hframe hevents hreports
  generalize g.access.carryOut s.store = e at hframe hevents hreports
  have hstands := GrantStands.deliver u g.port g.member ⟨g.chunk, g.access⟩ e.outcome
  obtain ⟨hstore, hpoison⟩ := u.deliver_store g.port g.member ⟨g.chunk, g.access⟩ e.outcome
  have hulinks : u.links = s.links := by rw [hframe]
  refine ⟨?_, ?_, hstands.reports.trans hreports, ?_, hevents ▸ hstands.events, fun hw => ?_, fun hd => ?_⟩
  · rw [hstore, hframe]
  · rw [hpoison, hframe]
  · rw [hstands.inProgress, hframe]
  · obtain ⟨hself, hdel⟩ := State.deliver_wanted hw hulinks ⟨g.chunk, g.access⟩ e.outcome
    generalize u.deliver g.port g.member ⟨g.chunk, g.access⟩ e.outcome = t at hself hdel
    refine ⟨?_, ?_, hdel⟩
    · rw [hself, hframe]
    · rw [hself]
      exact hevents
  · obtain ⟨hm, sv, hsv, hdisc⟩ := hd
    have hlink : u.link g.port = s.link g.port := by rw [State.link, hulinks, State.link]
    have hend : u.deliver g.port g.member ⟨g.chunk, g.access⟩ e.outcome = u.endDiscarded g.port := by
      simp [State.deliver, hm, State.deliverDirect, hlink, hsv, hdisc]
    rw [hend]
    exact State.endDiscarded_endsDiscarded hlink

/-- The poison set after an access that met no uncorrectable word: less the granule it wrote whole (R6). -/
theorem mem_poisonAfter_unmet (poison : List Nat) (a : StoreAccess) (x : Nat) :
    x ∈ poisonAfter poison a false ↔ x ∈ poison ∧ ¬(a.fullGranule = true ∧ x = granuleOf a.addr) := by
  unfold poisonAfter
  by_cases hf : a.fullGranule = true
  · simp [hf, mem_setErase]
  · simp [hf]

theorem poisonAfter_of_reading (poison : List Nat) {a : StoreAccess} (hf : a.fullGranule = false) :
    poisonAfter poison a false = poison := by
  simp [poisonAfter, hf]

/-- The poison set after an access that met an uncorrectable word: with its granule (R4). -/
theorem mem_poisonAfter_met (poison : List Nat) (a : StoreAccess) (x : Nat) :
    x ∈ poisonAfter poison a true ↔ x = a.addr / 64 ∨ x ∈ poison := mem_setInsert _ _ _

/-! ### O27 -/

/-- Settles O27: the effect of a WRITE is its words written, with the poison of a granule it fills taken out. -/
theorem writeAccessCompletes : Obligations.WriteAccessCompletes := by
  intro s g data hmem hg hop
  obtain ⟨t, hexec, hdone⟩ := exec_accessComplete hg
  have heffect : g.access.carryOut s.store = ⟨s.store.writeWords (g.access.addr / 4) data, false, .done [] none⟩ := by
    simp [StoreAccess.carryOut, hop]
  have hfull : g.access.fullGranule = true ↔ data.length = 16 ∧ g.access.addr % 64 = 0 := by
    simp [StoreAccess.fullGranule_iff, hop, AccessOp.isWrite, AccessOp.count]
  rw [heffect] at hdone
  refine ⟨t, hexec, fun i hi => ?_, fun x hx => ?_, fun x => ?_, hdone.reports, hdone.inProgress, fun hw => ?_,
    hdone.discarded⟩
  · rw [hdone.store]
    exact s.store.writeWords_self _ data i hi hmem.canonical.bytes_rising hmem.canonical.conditions_rising
  · rw [hdone.store]
    exact s.store.writeWords_other _ data x hx
  · rw [hdone.poison, mem_poisonAfter_unmet, hfull, and_assoc]
    rfl
  · obtain ⟨hframe, hevents, hdel⟩ := hdone.wanted hw
    rw [hevents] at hframe
    exact ⟨hframe, hdel⟩

/-! ### O28 -/

/-- Settles O28: the effect of a READ is its words corrected, by whether one of them is uncorrectable. -/
theorem readAccessCompletes : Obligations.ReadAccessCompletes := by
  intro s g n hmem hg hop
  obtain ⟨t, hexec, hdone⟩ := exec_accessComplete hg
  have hstore : (g.access.carryOut s.store).store = s.store.correctAll (g.access.addr / 4) n := by
    simp only [StoreAccess.carryOut, hop]
    split <;> rfl
  have hfull : g.access.fullGranule = false := by simp [StoreAccess.fullGranule, hop]
  have hmet := s.store.anyUncorrectable_iff (g.access.addr / 4) n
  refine ⟨t, hexec, fun hw => (hdone.wanted hw).1, hdone.discarded, fun x => ?_, fun i hi => ?_, fun x hx => ?_,
    hdone.inProgress, fun hok => ?_, fun hbad => ?_⟩
  · rw [hdone.store, hstore, Store.word_correctAll]
  · rw [hdone.store, hstore, s.store.condition_correctAll _ _ _ hmem.canonical.conditions_rising, if_pos (by omega)]
  · rw [hdone.store, hstore, s.store.condition_correctAll _ _ _ hmem.canonical.conditions_rising, if_neg (by omega)]
  · have hnot : ¬s.store.anyUncorrectable (g.access.addr / 4) n = true := fun h => by
      obtain ⟨i, hi, hu⟩ := hmet.mp h
      exact hok i hi hu
    have heffect : g.access.carryOut s.store = ⟨s.store.correctAll (g.access.addr / 4) n, false,
        .done ((List.range n).map fun i => s.store.word (g.access.addr / 4 + i)) none⟩ := by
      simp [StoreAccess.carryOut, hop, hnot, Store.words_eq]
    rw [heffect] at hdone
    refine ⟨?_, hdone.reports, fun hw => (hdone.wanted hw).2⟩
    rw [hdone.poison, poisonAfter_of_reading _ hfull]
  · have heffect : g.access.carryOut s.store = ⟨s.store.correctAll (g.access.addr / 4) n, true, .dataError⟩ := by
      simp [StoreAccess.carryOut, hop, hmet.mpr hbad]
    rw [heffect] at hdone
    refine ⟨fun x => ?_, hdone.events, hdone.reports, fun hw => (hdone.wanted hw).2⟩
    rw [hdone.poison, mem_poisonAfter_met]

/-! ### O29 -/

/-- An atomic on an uncorrectable word leaves it (R14, R15). -/
theorem atomicEffect_of_uncorrectable {st : Store} {w : Nat} (h : st.condition w = .uncorrectable)
    (new : Word → Option Word) (swapped : Word → Option Bool) : atomicEffect st w new swapped = ⟨st, true, .dataError⟩ := by
  rw [atomicEffect, h]

/-- An atomic with something to write writes it over the old value and answers that (R14, R15). -/
theorem atomicEffect_of_some {st : Store} {w : Nat} (h : st.condition w ≠ .uncorrectable) {new : Word → Option Word}
    {v : Word} (hv : new (st.word w) = some v) (swapped : Word → Option Bool) :
    atomicEffect st w new swapped = ⟨st.writeWord w v, false, .done [st.word w] (swapped (st.word w))⟩ := by
  unfold atomicEffect
  split
  · next hc => exact absurd hc h
  all_goals rw [hv]

/-- A COMPARE_SWAP that does not match reads its word (R15). -/
theorem atomicEffect_of_none {st : Store} {w : Nat} (h : st.condition w ≠ .uncorrectable) {new : Word → Option Word}
    (hv : new (st.word w) = none) (swapped : Word → Option Bool) :
    atomicEffect st w new swapped = ⟨st.correct w, false, .done [st.word w] (swapped (st.word w))⟩ := by
  unfold atomicEffect
  split
  · next hc => exact absurd hc h
  all_goals rw [hv]

/-- What FETCH_ADD, SWAP and COMPARE_SWAP leave in the word and answer, from its old value (R14, R15). -/
def AccessOp.AtomicAnswers (op : AccessOp) (old new : Word) (swapped : Option Bool) : Prop :=
  (∃ x, op = .fetchAdd x ∧ new = old + x ∧ swapped = none)
    ∨ (∃ v, op = .swap v ∧ new = v ∧ swapped = none)
    ∨ (∃ e v, op = .compareSwap e v ∧ old = e ∧ new = v ∧ swapped = some true)
    ∨ ∃ e v, op = .compareSwap e v ∧ old ≠ e ∧ new = old ∧ swapped = some false

theorem AccessOp.AtomicAnswers.carryOut_of_uncorrectable {a : StoreAccess} {st : Store} {old new : Word}
    {swapped : Option Bool} (hop : a.op.AtomicAnswers old new swapped) (h : st.condition (a.addr / 4) = .uncorrectable) :
    a.carryOut st = ⟨st, true, .dataError⟩ := by
  unfold StoreAccess.carryOut
  rcases hop with ⟨x, hop, _⟩ | ⟨v, hop, _⟩ | ⟨e, v, hop, _⟩ | ⟨e, v, hop, _⟩ <;> rw [hop] <;>
    exact atomicEffect_of_uncorrectable h _ _

/-- An atomic on a word that can be read writes the new value, or corrects the word where it has nothing to write. -/
theorem AccessOp.AtomicAnswers.carryOut {a : StoreAccess} {st : Store} {new : Word} {swapped : Option Bool}
    (hop : a.op.AtomicAnswers (st.word (a.addr / 4)) new swapped) (h : st.condition (a.addr / 4) ≠ .uncorrectable) :
    ∃ st', a.carryOut st = ⟨st', false, .done [st.word (a.addr / 4)] swapped⟩
      ∧ (st' = st.writeWord (a.addr / 4) new ∨ st' = st.correct (a.addr / 4) ∧ new = st.word (a.addr / 4)) := by
  unfold StoreAccess.carryOut
  rcases hop with ⟨x, hop, rfl, rfl⟩ | ⟨v, hop, rfl, rfl⟩ | ⟨e, v, hop, he, rfl, rfl⟩ | ⟨e, v, hop, he, rfl, rfl⟩ <;>
    rw [hop] <;> dsimp only
  · exact ⟨_, atomicEffect_of_some h (new := fun old => some (old + x)) rfl _, .inl rfl⟩
  · exact ⟨_, atomicEffect_of_some h (new := fun _ => some new) rfl _, .inl rfl⟩
  · refine ⟨_, ?_, .inl rfl⟩
    rw [atomicEffect_of_some h (if_pos he) _, decide_eq_true he]
  · refine ⟨_, ?_, .inr ⟨rfl, rfl⟩⟩
    rw [atomicEffect_of_none h (if_neg he) _, decide_eq_false he]

/-- The word of an atomic after it, and the other words. -/
theorem Store.atomic_words {st st' : Store} {w : Nat} {new : Word} (hc : st.Canonical) (h : st.condition w ≠ .uncorrectable)
    (hst : st' = st.writeWord w new ∨ st' = st.correct w ∧ new = st.word w) :
    (st'.word w = new ∧ st'.condition w = .clean)
      ∧ ∀ x, x ≠ w → st'.word x = st.word x ∧ st'.condition x = st.condition x := by
  rcases hst with rfl | ⟨rfl, rfl⟩
  · exact ⟨⟨st.word_writeWord_self w new hc.bytes_rising, st.condition_writeWord_self w new hc.conditions_rising⟩,
      fun x hx => ⟨st.word_writeWord_other w new x hx, st.condition_writeWord_other w new x hx⟩⟩
  · have hcond := fun x => st.condition_correct w x hc.conditions_rising
    refine ⟨⟨st.word_correct w w, ?_⟩, fun x hx => ⟨st.word_correct w x, by rw [hcond, if_neg hx]⟩⟩
    rw [hcond, if_pos rfl]
    cases hk : st.condition w with
    | uncorrectable => exact absurd hk h
    | _ => rfl

/-- Settles O29: the effect of an atomic by whether its word is uncorrectable, then by whether it writes. -/
theorem atomicAccessCompletes : Obligations.AtomicAccessCompletes := by
  intro s g old new swapped hmem hg hold hkind
  subst hold
  have hop : g.access.op.AtomicAnswers (s.store.word (g.access.addr / 4)) new swapped := hkind
  obtain ⟨t, hexec, hdone⟩ := exec_accessComplete hg
  have hfull : g.access.fullGranule = false := by
    rcases hop with ⟨x, hop, _⟩ | ⟨v, hop, _⟩ | ⟨e, v, hop, _⟩ | ⟨e, v, hop, _⟩ <;> simp [StoreAccess.fullGranule, hop]
  refine ⟨t, hexec, fun hw => (hdone.wanted hw).1, hdone.discarded, ?_, hdone.inProgress, fun hok => ?_, fun hbad => ?_⟩
  · by_cases hbad : s.store.condition (g.access.addr / 4) = .uncorrectable
    · rw [hdone.store, hop.carryOut_of_uncorrectable hbad]
      exact fun x _ => ⟨rfl, rfl⟩
    · obtain ⟨st', heffect, hst⟩ := hop.carryOut hbad
      rw [hdone.store, heffect]
      exact (Store.atomic_words hmem.canonical hbad hst).2
  · obtain ⟨st', heffect, hst⟩ := hop.carryOut hok
    obtain ⟨⟨hword, hclean⟩, _⟩ := Store.atomic_words hmem.canonical hok hst
    rw [heffect] at hdone
    rw [hdone.store]
    refine ⟨hword, hclean, ?_, hdone.reports, fun hw => (hdone.wanted hw).2⟩
    rw [hdone.poison, poisonAfter_of_reading _ hfull]
  · rw [hop.carryOut_of_uncorrectable hbad] at hdone
    rw [hdone.store]
    refine ⟨rfl, hbad, fun x => ?_, hdone.events, hdone.reports, fun hw => (hdone.wanted hw).2⟩
    rw [hdone.poison, mem_poisonAfter_met]

end Sys2Proof.Machine
end

section
/-! SUPPORT. O51: a port-down event at the arbiter and at the Notice Unit (R20, R142, R143). -/

namespace Sys2Proof.Machine

/-! ### The rewind of a queue (R142) -/

/-- The records `back` tell what the records `l` told: each subject once, at its first place, with its newest event, its
occurrences added up and held at 255, and PENDING. -/
structure Summarises (l back : List NoticeRecord) : Prop where
  subjects : back.map (fun r => r.event.subject) = (l.map fun r => r.event.subject).eraseDups
  sent : ∀ b ∈ back, b.sent = none
  newest : ∀ b ∈ back, ((l.filter fun x => decide (x.event.subject = b.event.subject)).getLast?.map fun x => x.event)
    = some b.event
  total : ∀ b ∈ back, b.occurrences
    = min 255 ((l.filter fun x => decide (x.event.subject = b.event.subject)).map fun x => x.occurrences).sum

theorem Summarises.nil : Summarises [] [] := by
  constructor <;> simp

/-- A subject has a record exactly when some record told of it. -/
theorem Summarises.any_subject {l back : List NoticeRecord} (h : Summarises l back) (j : Subject) :
    (back.any fun b => decide (b.event.subject = j)) = true ↔ ∃ r ∈ l, r.event.subject = j := by
  have hmem : j ∈ back.map (fun r => r.event.subject) ↔ j ∈ l.map fun r => r.event.subject := by
    rw [h.subjects, List.mem_eraseDups]
  simpa using hmem

/-- A returning record on a subject that has a record already. -/
theorem returnSent_of_any {back : List NoticeRecord} {r : NoticeRecord}
    (h : (back.any fun b => decide (b.event.subject = r.event.subject)) = true) :
    returnSent back r = back.map fun b => if b.event.subject = r.event.subject then
      ⟨r.event, addOccurrences b.occurrences r.occurrences, none⟩ else b := if_pos h

/-- A returning record on a subject that has no record yet. -/
theorem returnSent_of_not_any {back : List NoticeRecord} {r : NoticeRecord}
    (h : ¬(back.any fun b => decide (b.event.subject = r.event.subject)) = true) :
    returnSent back r = back ++ [⟨r.event, r.occurrences, none⟩] := if_neg h

/-- The records of one subject among some records and one more. -/
theorem filter_subject_concat (l : List NoticeRecord) (r : NoticeRecord) (j : Subject) :
    (l ++ [r]).filter (fun x => decide (x.event.subject = j))
      = l.filter (fun x => decide (x.event.subject = j)) ++ if r.event.subject = j then [r] else [] := by
  rw [List.filter_append]
  by_cases h : r.event.subject = j <;> simp [h]

theorem Summarises.returnSent {l back : List NoticeRecord} (h : Summarises l back) {r : NoticeRecord}
    (hr : r.occurrences ≤ 255) : Summarises (l ++ [r]) (returnSent back r) := by
  have hany := h.any_subject r.event.subject
  have hsubjects : ((l ++ [r]).map fun x => x.event.subject).eraseDups
      = (l.map fun x => x.event.subject).eraseDups ++ if ∃ x ∈ l, x.event.subject = r.event.subject then []
        else [r.event.subject] := by
    rw [List.map_append, List.eraseDups_append]
    congr 1
    have hone : [r.event.subject].eraseDups = [r.event.subject] := rfl
    by_cases hin : ∃ x ∈ l, x.event.subject = r.event.subject <;> simp [List.removeAll, hin, hone]
  by_cases hold : (back.any fun b => decide (b.event.subject = r.event.subject)) = true
  · have hmoved : ∀ b ∈ Machine.returnSent back r, ∃ b' ∈ back,
        (b'.event.subject = r.event.subject ∧ b = ⟨r.event, addOccurrences b'.occurrences r.occurrences, none⟩)
          ∨ (b'.event.subject ≠ r.event.subject ∧ b = b') := by
      rw [returnSent_of_any hold]
      intro b hb
      obtain ⟨b', hb', rfl⟩ := List.mem_map.mp hb
      refine ⟨b', hb', ?_⟩
      by_cases hs : b'.event.subject = r.event.subject
      · exact .inl ⟨hs, if_pos hs⟩
      · exact .inr ⟨hs, if_neg hs⟩
    refine ⟨?_, fun b hb => ?_, fun b hb => ?_, fun b hb => ?_⟩
    · rw [returnSent_of_any hold, hsubjects, if_pos (hany.mp hold), List.append_nil, ← h.subjects, List.map_map]
      refine List.map_congr_left fun b _ => ?_
      by_cases hs : b.event.subject = r.event.subject <;> simp [hs]
    all_goals obtain ⟨b', hb', ⟨hs, rfl⟩ | ⟨hs, rfl⟩⟩ := hmoved b hb
    · rfl
    · exact h.sent b hb'
    · rw [filter_subject_concat]
      simp
    · rw [filter_subject_concat, if_neg (Ne.symm hs), List.append_nil]
      exact h.newest b hb'
    · have htotal := h.total b' hb'
      rw [hs] at htotal
      rw [filter_subject_concat, if_pos rfl]
      simp only [addOccurrences, List.map_append, List.sum_append, List.map_cons, List.map_nil, List.sum_cons, List.sum_nil]
      omega
    · rw [filter_subject_concat, if_neg (Ne.symm hs), List.append_nil]
      exact h.total b hb'
  · have hnew : l.filter (fun x => decide (x.event.subject = r.event.subject)) = [] := by
      refine List.filter_eq_nil_iff.mpr fun x hx hs => hold (hany.mpr ⟨x, hx, by simpa using hs⟩)
    have hother : ∀ b ∈ back, r.event.subject ≠ b.event.subject := fun b hb hs =>
      hold (List.any_eq_true.mpr ⟨b, hb, by simpa using hs.symm⟩)
    rw [returnSent_of_not_any hold]
    refine ⟨?_, fun b hb => ?_, fun b hb => ?_, fun b hb => ?_⟩
    · rw [hsubjects, if_neg (mt hany.mpr hold), List.map_append, h.subjects]
      rfl
    all_goals rcases List.mem_append.mp hb with hb | hb
    · exact h.sent b hb
    · rw [List.mem_singleton.mp hb]
    · rw [filter_subject_concat, if_neg (hother b hb), List.append_nil]
      exact h.newest b hb
    · rw [List.mem_singleton.mp hb, filter_subject_concat, hnew]
      simp
    · rw [filter_subject_concat, if_neg (hother b hb), List.append_nil]
      exact h.total b hb
    · rw [List.mem_singleton.mp hb, filter_subject_concat, hnew]
      simp [hr]

theorem Summarises.foldl_returnSent {l back : List NoticeRecord} (h : Summarises l back) (m : List NoticeRecord)
    (hm : ∀ r ∈ m, r.occurrences ≤ 255) : Summarises (l ++ m) (m.foldl Machine.returnSent back) := by
  induction m generalizing l back with
  | nil => simpa using h
  | cons r rest ih =>
    have hnext := ih (h.returnSent (hm r List.mem_cons_self)) fun x hx => hm x (List.mem_cons_of_mem r hx)
    simpa using hnext

/-- Joining the PENDING records of distinct subjects is returning them one by one, each behind the records returned before it. -/
theorem foldl_returnSent_pending (pending back : List NoticeRecord) (hsent : ∀ r ∈ pending, r.sent = none)
    (hnodup : (pending.map fun r => r.event.subject).Nodup) :
    pending.foldl returnSent back = back.map (joinPending pending)
      ++ pending.filter fun r => !(back.any fun b => decide (b.event.subject = r.event.subject)) := by
  induction pending generalizing back with
  | nil => simp [List.map_id'' (f := joinPending []) fun _ => rfl]
  | cons r rest ih =>
    obtain ⟨hr, hrest⟩ := List.nodup_cons.mp hnodup
    have hne : ∀ x ∈ rest, x.event.subject ≠ r.event.subject := fun x hx hs => hr (List.mem_map.mpr ⟨x, hx, hs⟩)
    have hjoin : ∀ b : NoticeRecord, b.event.subject = r.event.subject → joinPending rest b = b := by
      intro b hb
      have hfind : rest.find? (fun x => decide (x.event.subject = b.event.subject)) = none :=
        List.find?_eq_none.mpr fun x hx => by simpa [hb] using hne x hx
      simp [joinPending, hfind]
    have hskip : ∀ b : NoticeRecord, b.event.subject ≠ r.event.subject → joinPending (r :: rest) b = joinPending rest b := by
      intro b hb
      simp [joinPending, Ne.symm hb]
    rw [List.foldl_cons, ih _ (fun x hx => hsent x (List.mem_cons_of_mem r hx)) hrest]
    by_cases hold : (back.any fun b => decide (b.event.subject = r.event.subject)) = true
    · rw [returnSent_of_any hold, List.map_map]
      congr 1
      · refine List.map_congr_left fun b _ => ?_
        by_cases hs : b.event.subject = r.event.subject
        · rw [Function.comp_apply, if_pos hs, hjoin ⟨r.event, _, none⟩ rfl]
          simp [joinPending, hs]
        · rw [Function.comp_apply, if_neg hs, hskip b hs]
      · rw [List.filter_cons, if_neg (by simp [hold])]
        refine List.filter_congr fun x _ => ?_
        rw [List.any_map]
        congr 2
        funext b
        by_cases hs : b.event.subject = r.event.subject <;> simp [hs]
    · have hself : (⟨r.event, r.occurrences, none⟩ : NoticeRecord) = r := by
        rw [← hsent r List.mem_cons_self]
      have hback : ∀ b ∈ back, b.event.subject ≠ r.event.subject := fun b hb hs =>
        hold (List.any_eq_true.mpr ⟨b, hb, by simpa using hs⟩)
      rw [returnSent_of_not_any hold, hself, List.map_append, List.filter_cons, if_pos (by simp [hold]), List.append_assoc]
      congr 1
      · exact List.map_congr_left fun b hb => (hskip b (hback b hb)).symm
      · rw [List.map_singleton, hjoin r rfl, List.singleton_append]
        congr 1
        refine List.filter_congr fun x hx => ?_
        simp [List.any_append, Ne.symm (hne x hx)]

/-- In a queue with its SENT records first, they and the PENDING ones make up the queue (R133). -/
theorem sentFirst_split {q : List NoticeRecord} (h : sentFirst q = true) :
    (q.filter fun r => !r.isPending) ++ q.filter (fun r => r.isPending) = q := by
  induction q with
  | nil => rfl
  | cons r rest ih =>
    by_cases hp : r.isPending = true
    · have hall : ∀ x ∈ rest, x.isPending = true := by
        simpa [sentFirst, hp] using h
      have hnone : rest.filter (fun x => !x.isPending) = [] := List.filter_eq_nil_iff.mpr fun x hx => by simp [hall x hx]
      simp [hp, hnone, List.filter_eq_self.mpr hall]
    · have hrest : sentFirst rest = true := by
        simpa [sentFirst, hp] using h
      simpa [hp] using ih hrest

/-- The rewind of a lawful queue tells what the queue told (R142). -/
theorem rewind_summarises {p : Port} {q : List NoticeRecord} (h : queueLawful p q) : Summarises q (rewind q) := by
  obtain ⟨hfirst, _, hnodup, hrecords⟩ := h
  have hbound : ∀ r ∈ q, r.occurrences ≤ 255 := fun r hr => by
    obtain ⟨_, _, hle⟩ := hrecords r hr
    exact hle
  have hpending : ∀ r ∈ q.filter (fun r => r.isPending), r.sent = none := fun r hr =>
    (NoticeRecord.isPending_iff r).mp (List.mem_filter.mp hr).2
  have hfold : rewind q = q.foldl returnSent [] := by
    conv_rhs => rw [← sentFirst_split hfirst, List.foldl_append]
    exact (foldl_returnSent_pending _ _ hpending hnodup).symm
  rw [hfold]
  simpa using Summarises.nil.foldl_returnSent q hbound

/-! ### O51 -/

/-- The channels bound to a port (R90). -/
theorem State.mem_boundTo (s : State) (p : Port) (c : Channel) : c ∈ s.boundTo p ↔ (s.chan c).owner = some p := by
  have hall : ∀ c : Channel, c ∈ allChannels := by decide
  simp [State.boundTo, hall]

/-- The arbiter's part of a port-down event (R20): what waits for the port's group is withdrawn, and nothing else changes. -/
theorem State.takeArbiterPortDown_eq {s : State} {p : Port} (h : (s.portDown p).arbiter = true) :
    s.takeArbiterPortDown p = (({ s with arbiter := { s.arbiter with
      waiting := ((s.boundTo p).foldl (fun t c => t.withdrawAccess c) s).arbiter.waiting } } : State).setLink p
        (s.link p).withdrawPresented).setPortDown p { s.portDown p with arbiter := false } := by
  rw [State.takeArbiterPortDown, if_pos h]
  dsimp only
  rw [State.foldl_withdrawAccess_frame]
  rfl

/-- A dispatcher with no request at the arbiter is left (R20). -/
theorem LinkController.withdrawPresented_of_not_presented {lc : LinkController}
    (h : ∀ sv ∈ lc.service, sv.stage ≠ .presented) : lc.withdrawPresented = lc := by
  unfold LinkController.withdrawPresented
  split
  · next sv hsv => exact if_neg (h sv hsv)
  · rfl

/-- A dispatcher with its request at the arbiter gives it up, with its credit and its tag (R20). -/
theorem LinkController.withdrawPresented_of_presented {lc : LinkController} {sv : Service} (hsv : lc.service = some sv)
    (hst : sv.stage = .presented) (hin : lc.inbound = []) :
    lc.withdrawPresented = { lc with service := none, heldCount := lc.heldCount - 1
                                     tags := lc.tags.filter (· != (sv.pkt.tag.setWidth 4).toNat) } := by
  simp [LinkController.withdrawPresented, hsv, hst, LinkController.dispatch, hin, takeNext, setErase]

/-- Settles O51: the arbiter's withdrawals, then the rewind as a summary of the queue, then its emptying. -/
theorem portDownWithdrawsAndRewinds : Obligations.PortDownWithdrawsAndRewinds := by
  refine ⟨fun s p harb => ⟨_, rfl, ?_⟩, fun s p hsoft hlaw => ?_, fun s p hhard => ?_⟩
  · have hwait := fun c => State.foldl_withdrawAccess_waitingAccess (s.boundTo p) s c
    rw [State.takeArbiterPortDown_eq harb]
    refine ⟨rfl, State.setPortDown_portDown_self .., fun q hq => ⟨?_, State.setPortDown_portDown_other _ _ hq⟩, fun c => ?_,
      fun hidle => ?_, fun sv hsv hst hin => ?_⟩
    · exact State.setLink_link_other _ _ hq
    · refine (hwait c).trans ?_
      simp only [State.mem_boundTo]
    · exact (State.setLink_link_self ..).trans (LinkController.withdrawPresented_of_not_presented hidle)
    · exact (State.setLink_link_self ..).trans (LinkController.withdrawPresented_of_presented hsv hst hin)
  · have hexec : exec (.noticeRewind p) s
        = .next ((s.setQueue p (rewind (s.queue p))).setPortDown p { s.portDown p with notice := none }) := by
      show execNoticeRewind p s = _
      rw [execNoticeRewind, if_pos hsoft, State.takeNoticePortDown, hsoft]
    have hsum := rewind_summarises hlaw
    have hqueue : ((s.setQueue p (rewind (s.queue p))).setPortDown p { s.portDown p with notice := none }).queue p
        = rewind (s.queue p) := State.setQueue_queue_self ..
    refine ⟨_, hexec, rfl, State.setPortDown_portDown_self .., fun q hq =>
      ⟨State.setQueue_queue_other _ _ hq, State.setPortDown_portDown_other _ _ hq⟩, ?_, fun r hr => ?_⟩
    · rw [hqueue]
      exact hsum.subjects
    · rw [hqueue] at hr
      exact ⟨hsum.sent r hr, hsum.newest r hr, hsum.total r hr⟩
  · have hexec : exec (.noticeQueueEmpty p) s
        = .next ((s.setQueue p []).setPortDown p { s.portDown p with notice := none }) := by
      show execNoticeQueueEmpty p s = _
      rw [execNoticeQueueEmpty, if_pos hhard, State.takeNoticePortDown, hhard]
    exact ⟨_, hexec, rfl, State.setQueue_queue_self .., State.setPortDown_portDown_self .., fun q hq =>
      ⟨State.setQueue_queue_other _ _ hq, State.setPortDown_portDown_other _ _ hq⟩⟩

end Sys2Proof.Machine
end

section
/-! SUPPORT. O54: the state right after cold reset meets every law. -/

namespace Sys2Proof.Machine

/-! ### What the reset state holds -/

@[simp] theorem State.link_reset (p : Port) : State.reset.link p = LinkController.reset false := by
  simp [State.reset, State.link]

@[simp] theorem State.queue_reset (p : Port) : State.reset.queue p = [] := by
  simp [State.reset, State.queue]

@[simp] theorem State.claimsOf_reset (p : Port) : State.reset.claimsOf p = [] := by
  simp [State.reset, State.claimsOf]

@[simp] theorem State.portDown_reset (p : Port) : State.reset.portDown p = PortDownClaims.none := by
  simp [State.reset, State.portDown]

@[simp] theorem State.entry_reset (k : LockSlot) : State.reset.locks.entry k = ⟨0#8, .free⟩ := by
  simp [State.reset, LockUnit.reset, LockUnit.entry]

@[simp] theorem LinkController.outstanding_reset (prst : Bool) (h : HubSlot) :
    (LinkController.reset prst).outstanding h = none := by
  simp [LinkController.reset, LinkController.outstanding]

/-- A Link Controller reset has nothing of a channel waiting for a slot. -/
@[simp] theorem LinkController.waiting_reset (prst : Bool) (c : Nat) (h : c < 8) :
    (LinkController.reset prst).waiting[c] = [] := by
  simp [LinkController.reset]

/-- Right after reset no channel has a hub request. -/
theorem State.requestsAt_reset (p : Port) (c : Channel) : State.reset.requestsAt p c = [] := by
  simp [State.requestsAt]

/-- Right after reset no channel has a store access. -/
theorem State.accessesOf_reset (c : Channel) : State.reset.accessesOf c = [] := by
  simp [State.accessesOf, State.waitingAccess, State.grantedTo, State.outcomeOf, State.reset, Arbiter.reset]

/-! ### The laws -/

/-- No entry outside FREE: the laws of the Lock Table have nothing to bind. -/
theorem LockUnit.lawful_reset : State.reset.locks.lawful := by
  have horder : State.reset.locks.order = [] := rfl
  refine ⟨fun k c hc => ?_, fun j k _ c hc => ?_, ⟨?_, fun k => ?_⟩, fun j k c hc => ?_⟩
  · simp [EntryState.claim?] at hc
  · simp [EntryState.standing?] at hc
  · rw [horder]
    exact List.nodup_nil
  · simp [horder, EntryState.waiting?]
  · simp [EntryState.waiting?] at hc

/-- Nobody waits, so nobody waits for itself (R33). -/
theorem LockUnit.noCycle_reset : State.reset.locks.noCycle := by
  have hnone : ∀ a b, ¬State.reset.locks.waitsFor a b = true := by
    intro a b
    have hw : State.reset.locks.waitingOf a = none := by
      rw [LockUnit.waitingOf, find_allLockSlots_eq_none]
      intro k
      simp [EntryState.waiting?]
    simp [LockUnit.waitsFor, hw]
  intro p hp
  obtain ⟨b, hb, _⟩ := Relation.TransGen.head'_iff.mp hp
  exact hnone p b hb

theorem State.noticesLawful_reset : State.reset.noticesLawful := by
  refine ⟨fun p => ?_, fun batch hb => ?_⟩
  · rw [State.queue_reset]
    exact ⟨rfl, Nat.zero_le 4, List.nodup_nil, fun r hr => by cases hr⟩
  · cases hb

theorem LinkController.lawful_reset (prst : Bool) : (LinkController.reset prst).lawful :=
  ⟨Nat.zero_le 16, rfl, fun _ => ⟨rfl, rfl⟩, fun sv hsv => (by cases hsv), Nat.le_refl 8, fun h hh => by simp at hh⟩

theorem ChannelContext.lawful_reset : ChannelContext.reset.lawful :=
  ⟨Nat.zero_le 4, fun _ => rfl, fun h => absurd rfl h, fun _ => ⟨rfl, rfl⟩, fun _ => rfl, fun _ => rfl⟩

theorem State.flightLawful_reset (c : Channel) : State.reset.flightLawful c := by
  have hidle : (State.reset.chan c).state = .idle := by
    rw [State.chan_reset]
    rfl
  have hreq := fun p => State.requestsAt_reset p c
  have hacc := State.accessesOf_reset c
  refine ⟨fun p => ⟨?_, ?_, fun _ => hreq p⟩, ?_, fun _ => ⟨hreq, hacc⟩, fun h => ?_, fun h => ?_, fun h => ?_, fun h => ?_⟩
  · rw [hreq]
    exact List.nodup_nil
  · simp
  · rw [hacc]
    exact Nat.zero_le 1
  · rw [hidle] at h
    cases h
  · rw [hidle] at h
    cases h
  · rw [hidle] at h
    rcases h with h | h <;> cases h
  · rw [hidle] at h
    rcases h with h | h <;> cases h

theorem State.quietOutsideRun_reset : State.reset.quietOutsideRun := by
  intro _
  refine ⟨rfl, rfl, rfl, fun k => ?_, rfl, State.chan_reset, fun p => ?_, rfl, rfl, rfl⟩
  · rw [State.entry_reset]
  · exact ⟨by rw [State.link_reset]; rfl, State.queue_reset p, State.claimsOf_reset p, State.portDown_reset p⟩

theorem State.poisonInStore_reset : State.reset.poisonInStore :=
  State.poisonInStore_of_blocks_reset (fun _ h => by cases h) rfl rfl fun p => by
    rw [State.link_reset]
    rfl

/-- Settles O54: each law in turn, of a state in which every block is as after reset. -/
theorem lawsHoldAtReset : Obligations.LawsHoldAtReset := by
  have hlink : ∀ p : Port, (State.reset.link p).lawful := fun p => by
    rw [State.link_reset]
    exact LinkController.lawful_reset false
  have hchan : ∀ c : Channel, (State.reset.chan c).lawful := fun c => by
    rw [State.chan_reset]
    exact ChannelContext.lawful_reset
  exact ⟨State.memoryLawful_of_nothing_listed rfl rfl rfl fun _ => rfl, LockUnit.lawful_reset, State.noticesLawful_reset,
    hlink, hchan, State.quietOutsideRun_reset, LockUnit.noCycle_reset, State.poisonInStore_reset,
    fun c => ⟨hchan c, State.flightLawful_reset c⟩⟩

end Sys2Proof.Machine
end

section
/-! SUPPORT. O37: the grant sweep, examined slot by slot in arrival order (R35, law 3), and what a release leaves (R22, R31). -/

namespace Sys2Proof.Machine

/-! ### Conflict and clearance -/

theorem Claim.conflicts_comm (c d : Claim) : c.conflicts d = d.conflicts c := by
  simp [Claim.conflicts, rangesMeet, Bool.and_comm]

/-- An entry WAITING is not HELD or ORPHANED. -/
theorem EntryState.standing_of_waiting {e : EntryState} (h : e.waiting?.isSome = true) : e.standing? = none := by
  cases e <;> simp_all [EntryState.standing?, EntryState.waiting?]

theorem EntryState.waiting_of_standing {e : EntryState} (h : e.standing?.isSome = true) : e.waiting? = none := by
  cases e <;> simp_all [EntryState.standing?, EntryState.waiting?]

/-- A waiting claim is clear when no standing entry and none of the slots kept before it conflicts with it (R35). -/
theorem LockUnit.clear_iff (u : LockUnit) (c : Claim) (kept : List LockSlot) :
    u.clear c kept = true
      ↔ (∀ j : LockSlot, ∀ d ∈ (u.entry j).state.standing?, d.conflicts c = false)
        ∧ ∀ j ∈ kept, ∀ d ∈ (u.entry j).state.waiting?, d.conflicts c = false := by
  have hmatch : ∀ o : Option Claim, (match o with | some d => d.conflicts c | none => false) = false
      ↔ ∀ d ∈ o, d.conflicts c = false := fun o => by cases o <;> simp
  simp only [LockUnit.clear, Bool.and_eq_true, Bool.not_eq_true', List.any_eq_false, Bool.not_eq_true]
  refine and_congr ⟨fun h j => (hmatch _).mp (h j (mem_allLockSlots j)), fun h j _ => (hmatch _).mpr (h j)⟩
    ⟨fun h j hj => (hmatch _).mp (h j hj), fun h j hj => (hmatch _).mpr (h j hj)⟩

/-! ### The sweep from some slot on -/

/-- Slot j stands before slot k in a sweep: it was kept, or it is examined earlier. -/
def SweptBefore (todo kept : List LockSlot) (j k : LockSlot) : Prop := j ∈ kept ∨ todo.idxOf j < todo.idxOf k

/-- With the first slot passed by, the slots before one that follows it are those of the rest, when the first is not among them. -/
theorem sweptBefore_cons_iff {k j i : LockSlot} {rest kept : List LockSlot} (hi : i ≠ k) (hj : j ≠ k) :
    SweptBefore (k :: rest) kept i j ↔ SweptBefore rest kept i j := by
  simp [SweptBefore, List.idxOf_cons_ne _ hi.symm, List.idxOf_cons_ne _ hj.symm]

/-- With the first slot kept, it stands before every slot that follows it. -/
theorem sweptBefore_keep_iff {k j i : LockSlot} {rest kept : List LockSlot} (hj : j ≠ k) :
    SweptBefore (k :: rest) kept i j ↔ SweptBefore rest (kept ++ [k]) i j := by
  by_cases hi : i = k
  · simp [SweptBefore, hi, List.idxOf_cons_ne _ hj.symm]
  · rw [sweptBefore_cons_iff hi hj]
    simp [SweptBefore, hi]

/-- What a sweep over the slots still to be examined makes of a Lock Table u with some slots kept: the table v and the events (R35). -/
structure SweptFrom (todo kept : List LockSlot) (u v : LockUnit) (granted : List Handed) : Prop where
  order : ∃ l, l.Sublist todo ∧ v.order = kept ++ l
  others : ∀ j, j ∉ todo → v.entry j = u.entry j
  fate : ∀ j ∈ todo, ∀ c ∈ (u.entry j).state.waiting?,
    j ∈ v.order ∧ v.entry j = u.entry j ∨ j ∉ v.order ∧ v.entry j = ⟨(u.entry j).gen, .held c.fullLease⟩
  told : granted = todo.filterMap fun j => if j ∈ v.order then none
    else (u.entry j).state.waiting?.map fun c => (c.owner, .lockGranted (u.handleAt j))
  clear : ∀ j ∈ todo, j ∉ v.order → ∀ c ∈ (u.entry j).state.waiting?,
    (∀ i : LockSlot, ∀ d ∈ (u.entry i).state.standing?, d.conflicts c = false)
    ∧ (∀ i : LockSlot, i ≠ j → ∀ d ∈ (v.entry i).state.standing?, d.conflicts c = false)
    ∧ ∀ i ∈ v.order, SweptBefore todo kept i j → ∀ d ∈ (u.entry i).state.waiting?, d.conflicts c = false
  blocked : ∀ j ∈ v.order, j ∈ todo → ∀ c ∈ (u.entry j).state.waiting?,
    (∃ i : LockSlot, ∃ d ∈ (v.entry i).state.standing?, d.conflicts c = true)
    ∨ ∃ i ∈ v.order, SweptBefore todo kept i j ∧ ∃ d ∈ (u.entry i).state.waiting?, d.conflicts c = true

/-- Nothing is left to examine: the slots kept are the waiting order. -/
theorem SweptFrom.nil (kept : List LockSlot) (u : LockUnit) : SweptFrom [] kept u { u with order := kept } [] where
  order := ⟨[], List.Sublist.refl _, (List.append_nil _).symm⟩
  others := fun _ _ => rfl
  fate := nofun
  told := rfl
  clear := nofun
  blocked := nofun

/-- A slot that the sweep has passed by and not kept is not in the waiting order. -/
theorem SweptFrom.not_mem_order {todo kept : List LockSlot} {u v : LockUnit} {g : List Handed}
    (h : SweptFrom todo kept u v g) {k : LockSlot} (htodo : k ∉ todo) (hkept : k ∉ kept) : k ∉ v.order := by
  obtain ⟨l, hl, hv⟩ := h.order
  rw [hv, List.mem_append]
  exact fun hk => hk.elim hkept fun hk => htodo (hl.subset hk)

theorem SweptFrom.mem_order_of_kept {todo kept : List LockSlot} {u v : LockUnit} {g : List Handed}
    (h : SweptFrom todo kept u v g) {k : LockSlot} (hk : k ∈ kept) : k ∈ v.order := by
  obtain ⟨l, _, hv⟩ := h.order
  rw [hv]
  exact List.mem_append_left _ hk

/-- A clear slot examined first is granted, and the sweep goes on in the table in which it is HELD. -/
theorem SweptFrom.grant {k : LockSlot} {rest kept : List LockSlot} {u v : LockUnit} {g : List Handed} {c : Claim}
    (hc : (u.entry k).state.waiting? = some c) (hk : k ∉ rest) (hkept : k ∉ kept)
    (hwait : ∀ j ∈ rest, (u.entry j).state.waiting?.isSome = true) (hclear : u.clear c kept = true)
    (h : SweptFrom rest kept (u.grant k c) v g) :
    SweptFrom (k :: rest) kept u v ((c.owner, .lockGranted (u.handleAt k)) :: g) := by
  obtain ⟨hstand, hbefore⟩ := (u.clear_iff c kept).mp hclear
  have hkv : k ∉ v.order := h.not_mem_order hk hkept
  have hother : ∀ j, j ≠ k → (u.grant k c).entry j = u.entry j := fun j hj => u.entry_grant_other c hj
  have hself : v.entry k = ⟨(u.entry k).gen, .held c.fullLease⟩ := by rw [h.others k hk, u.entry_grant_self]
  have hmem : ∀ {j}, j ∈ rest → j ≠ k := fun hj hjk => hk (hjk ▸ hj)
  have hmemv : ∀ {j}, j ∈ v.order → j ≠ k := fun hj hjk => hkv (hjk ▸ hj)
  refine ⟨?_, fun j hj => ?_, fun j hj d hd => ?_, ?_, fun j hj hjv d hd => ?_, fun j hjv hj d hd => ?_⟩
  · obtain ⟨l, hl, hv⟩ := h.order
    exact ⟨l, hl.cons k, hv⟩
  · obtain ⟨hjk, hj⟩ := not_or.mp (List.mem_cons.not.mp hj)
    rw [h.others j hj, hother j hjk]
  · rcases List.mem_cons.mp hj with rfl | hj
    · cases hc.symm.trans hd
      exact .inr ⟨hkv, hself⟩
    · have hfate := h.fate j hj d
      rw [hother j (hmem hj)] at hfate
      exact hfate hd
  · rw [List.filterMap_cons, if_neg hkv, hc, h.told]
    refine congrArg (_ :: ·) (List.filterMap_congr fun j hj => ?_)
    rw [LockUnit.handleAt, LockUnit.handleAt, hother j (hmem hj)]
  · rcases List.mem_cons.mp hj with rfl | hj
    · cases hc.symm.trans hd
      refine ⟨hstand, fun i hi d hd => ?_, fun i hiv hb d hd => ?_⟩
      · by_cases hir : i ∈ rest
        · obtain ⟨e, he⟩ := Option.isSome_iff_exists.mp (hwait i hir)
          rw [← hother i hi] at he
          rcases h.fate i hir e he with ⟨_, heq⟩ | ⟨hiv, heq⟩
          · rw [heq, EntryState.standing_of_waiting (by rw [he]; rfl)] at hd
            cases hd
          · rw [heq] at hd
            cases hd
            rw [Claim.conflicts_comm]
            exact (h.clear i hir hiv e he).1 j c.fullLease (by rw [u.entry_grant_self]; rfl)
        · rw [h.others i hir, hother i hi] at hd
          exact hstand i d hd
      · refine hb.elim (fun hik => hbefore i hik d hd) fun hlt => ?_
        simp at hlt
    · have hjk := hmem hj
      obtain ⟨h1, h2, h3⟩ := h.clear j hj hjv d (by rw [hother j hjk]; exact hd)
      refine ⟨fun i e he => ?_, h2, fun i hiv hb e he => ?_⟩
      · have hik : i ≠ k := by
          rintro rfl
          rw [EntryState.standing_of_waiting (by rw [hc]; rfl)] at he
          cases he
        exact h1 i e (by rw [hother i hik]; exact he)
      · have hik := hmemv hiv
        exact h3 i hiv ((sweptBefore_cons_iff hik hjk).mp hb) e (by rw [hother i hik]; exact he)
  · have hjk := hmemv hjv
    have hj := (List.mem_cons.mp hj).resolve_left hjk
    refine (h.blocked j hjv hj d (by rw [hother j hjk]; exact hd)).imp_right ?_
    rintro ⟨i, hiv, hb, e, he, hconf⟩
    have hik := hmemv hiv
    rw [hother i hik] at he
    exact ⟨i, hiv, (sweptBefore_cons_iff hik hjk).mpr hb, e, he, hconf⟩

/-- A slot examined first that is not clear is kept, and the sweep goes on. -/
theorem SweptFrom.keep {k : LockSlot} {rest kept : List LockSlot} {u v : LockUnit} {g : List Handed} {c : Claim}
    (hc : (u.entry k).state.waiting? = some c) (hk : k ∉ rest)
    (hwait : ∀ j ∈ rest, (u.entry j).state.waiting?.isSome = true) (hclear : ¬u.clear c kept = true)
    (h : SweptFrom rest (kept ++ [k]) u v g) : SweptFrom (k :: rest) kept u v g := by
  have hkv : k ∈ v.order := h.mem_order_of_kept (by simp)
  have hmem : ∀ {j}, j ∈ rest → j ≠ k := fun hj hjk => hk (hjk ▸ hj)
  refine ⟨?_, fun j hj => h.others j (not_or.mp (List.mem_cons.not.mp hj)).2, fun j hj d hd => ?_, ?_, fun j hj hjv d hd => ?_,
    fun j hjv hj d hd => ?_⟩
  · obtain ⟨l, hl, hv⟩ := h.order
    exact ⟨k :: l, hl.cons_cons k, by rw [hv, List.append_assoc]; rfl⟩
  · rcases List.mem_cons.mp hj with rfl | hj
    · exact .inl ⟨hkv, h.others j hk⟩
    · exact h.fate j hj d hd
  · rw [List.filterMap_cons, if_pos hkv]
    exact h.told
  · have hj := (List.mem_cons.mp hj).resolve_left fun hjk => hjv (hjk ▸ hkv)
    obtain ⟨h1, h2, h3⟩ := h.clear j hj hjv d hd
    exact ⟨h1, h2, fun i hiv hb => h3 i hiv ((sweptBefore_keep_iff (hmem hj)).mp hb)⟩
  · rcases List.mem_cons.mp hj with rfl | hj
    · cases hc.symm.trans hd
      rw [u.clear_iff, not_and_or] at hclear
      push Not at hclear
      rcases hclear with ⟨i, e, he, hconf⟩ | ⟨i, hi, e, he, hconf⟩
      · have hir : i ∉ rest := fun hir => by
          rw [EntryState.standing_of_waiting (hwait i hir)] at he
          cases he
        exact .inl ⟨i, e, by rw [h.others i hir]; exact he, by simpa using hconf⟩
      · exact .inr ⟨i, h.mem_order_of_kept (List.mem_append_left _ hi), .inl hi, e, he, by simpa using hconf⟩
    · refine (h.blocked j hjv hj d hd).imp_right ?_
      rintro ⟨i, hiv, hb, hconf⟩
      exact ⟨i, hiv, (sweptBefore_keep_iff (hmem hj)).mpr hb, hconf⟩

/-- A sweep over waiting slots, each still to be examined once, does to the table what R35 says. -/
theorem sweepFrom_sweptFrom (todo kept : List LockSlot) (u : LockUnit) (hnodup : todo.Nodup)
    (hkept : ∀ k ∈ todo, k ∉ kept) (hwait : ∀ k ∈ todo, (u.entry k).state.waiting?.isSome = true) :
    SweptFrom todo kept u (sweepFrom todo kept u).1 (sweepFrom todo kept u).2 := by
  induction todo generalizing kept u with
  | nil => exact .nil kept u
  | cons k rest ih =>
    obtain ⟨hk, hrest⟩ := List.nodup_cons.mp hnodup
    obtain ⟨hkk, hkr⟩ := List.forall_mem_cons.mp hkept
    obtain ⟨hkw, hrw⟩ := List.forall_mem_cons.mp hwait
    obtain ⟨c, hc⟩ := Option.isSome_iff_exists.mp hkw
    have hne : ∀ j ∈ rest, j ≠ k := fun j hj hjk => hk (hjk ▸ hj)
    simp only [sweepFrom, hc]
    split
    · next hclear =>
      refine .grant hc hk hkk hrw hclear (ih kept (u.grant k c) hrest hkr fun j hj => ?_)
      rw [u.entry_grant_other c (hne j hj)]
      exact hrw j hj
    · next hclear =>
      refine .keep hc hk hrw hclear (ih (kept ++ [k]) u hrest (fun j hj => ?_) hrw)
      simpa using ⟨hkr j hj, hne j hj⟩

/-- GRANT_SWEEP over a table whose waiting order lists exactly its WAITING entries (R35). -/
theorem LockUnit.sweep_sweptFrom {u : LockUnit} (h : u.orderMatches) :
    SweptFrom u.order [] u u.sweep.1 u.sweep.2 := by
  obtain ⟨hnodup, hwait⟩ := h
  exact sweepFrom_sweptFrom u.order [] u hnodup (fun _ _ => List.not_mem_nil) fun k hk => (hwait k).mp hk

/-- In a sweep over the whole waiting order, before means arrived earlier. -/
theorem sweptBefore_nil_iff {todo : List LockSlot} {j k : LockSlot} :
    SweptBefore todo [] j k ↔ todo.idxOf j < todo.idxOf k := by
  simp [SweptBefore]

/-! ### O37 -/

theorem LockUnit.release_released (u : LockUnit) (k : LockSlot) : Released u (u.release k) k :=
  ⟨u.entry_release_self k, fun _ hj => u.entry_release_other hj, u.order_release k⟩

/-- Settles O37: the sweep is an induction over the slots still to be examined, with those kept before them. -/
theorem sweepGrantsInArrivalOrder : Obligations.SweepGrantsInArrivalOrder := by
  refine ⟨LockUnit.release_released, fun u v granted hmatch hsweep => ?_⟩
  have h := LockUnit.sweep_sweptFrom hmatch
  have hsub := u.order_sweep_sublist
  rw [hsweep] at h hsub
  obtain ⟨_, hwaiting⟩ := hmatch
  refine ⟨hsub, h.others, fun k c n hk => ?_, h.told, fun k hk hkv c hc => ?_, fun k hkv c hc => ?_⟩
  · have hc : (u.entry k).state.waiting? = some c := by rw [hk]; rfl
    exact h.fate k ((hwaiting k).mpr (by rw [hc]; rfl)) c hc
  · obtain ⟨hstood, hstands, hbefore⟩ := h.clear k hk hkv c hc
    exact ⟨hstood, hstands, fun j hj hlt => hbefore j hj (sweptBefore_nil_iff.mpr hlt)⟩
  · refine (h.blocked k hkv (hsub.subset hkv) c hc).imp_right ?_
    rintro ⟨j, hj, hb, hconf⟩
    exact ⟨j, hj, sweptBefore_nil_iff.mp hb, hconf⟩

end Sys2Proof.Machine
end

section
/-! SUPPORT. The wait-for relation (R32), and what a change of the Lock Table must keep for laws 1, 2, 4 and 6 and the waiting order to
hold after it. -/

namespace Sys2Proof.Machine

/-! ### The WAITING entry of a port -/

theorem LockUnit.waitingOf_eq_none_iff (u : LockUnit) (p : Port) :
    u.waitingOf p = none ↔ ∀ k : LockSlot, ∀ c ∈ (u.entry k).state.waiting?, c.owner ≠ p := by
  rw [LockUnit.waitingOf, find_allLockSlots_eq_none]
  refine forall_congr' fun k => ?_
  cases (u.entry k).state.waiting? <;> simp

/-- The slot found holds a WAITING entry of the port, and no lower slot does. -/
theorem LockUnit.waitingOf_eq_some_iff (u : LockUnit) (p : Port) (k : LockSlot) :
    u.waitingOf p = some k ↔ (∃ c ∈ (u.entry k).state.waiting?, c.owner = p)
      ∧ ∀ j, j < k → ∀ c ∈ (u.entry j).state.waiting?, c.owner ≠ p := by
  rw [LockUnit.waitingOf, find_allLockSlots_eq_some]
  refine and_congr ?_ (forall_congr' fun j => imp_congr_right fun _ => ?_)
  · cases (u.entry k).state.waiting? <;> simp
  · cases (u.entry j).state.waiting? <;> simp

/-- Where law 1 holds, a port's WAITING entry is the one found. -/
theorem LockUnit.oneWaitEach.waitingOf {u : LockUnit} (h : u.oneWaitEach) {k : LockSlot} {c : Claim}
    (hc : (u.entry k).state.waiting? = some c) : u.waitingOf c.owner = some k := by
  cases hw : u.waitingOf c.owner with
  | none => exact absurd rfl ((u.waitingOf_eq_none_iff c.owner).mp hw k c hc)
  | some j =>
    obtain ⟨⟨d, hd, howner⟩, _⟩ := (u.waitingOf_eq_some_iff c.owner j).mp hw
    rw [h j k d hd c hc howner]

/-! ### Waiting for another port -/

/-- An entry of port b stands before the WAITING entry in slot k and conflicts with its claim c (R32). -/
def LockUnit.StandsAgainst (u : LockUnit) (b : Port) (k : LockSlot) (c : Claim) : Prop :=
  (∃ j : LockSlot, ∃ d ∈ (u.entry j).state.standing?, d.owner = b ∧ d.conflicts c = true)
    ∨ ∃ j : LockSlot, ∃ d ∈ (u.entry j).state.waiting?, d.owner = b ∧ d.conflicts c = true
      ∧ u.order.idxOf j < u.order.idxOf k

/-- Port a waits for port b (R32), where it may have more than one WAITING entry. -/
def LockUnit.Waits (u : LockUnit) (a b : Port) : Prop :=
  a ≠ b ∧ ∃ k : LockSlot, ∃ c ∈ (u.entry k).state.waiting?, c.owner = a ∧ u.StandsAgainst b k c

/-- One entry stands against the claim in slot k: HELD or ORPHANED, or WAITING and arrived earlier. -/
theorem LockUnit.standsBefore_iff (u : LockUnit) (b : Port) (j k : LockSlot) (c : Claim) :
    (∃ d ∈ (u.entry j).state.claim?, d.owner = b ∧ d.conflicts c = true ∧ u.standsBefore j k = true)
      ↔ (∃ d ∈ (u.entry j).state.standing?, d.owner = b ∧ d.conflicts c = true)
        ∨ ∃ d ∈ (u.entry j).state.waiting?, d.owner = b ∧ d.conflicts c = true ∧ u.order.idxOf j < u.order.idxOf k := by
  unfold LockUnit.standsBefore
  cases (u.entry j).state <;> simp [EntryState.claim?, EntryState.standing?, EntryState.waiting?]

/-- Where law 1 holds, the wait-for relation is that of R32. -/
theorem LockUnit.oneWaitEach.waitsFor_iff {u : LockUnit} (h : u.oneWaitEach) (a b : Port) :
    u.waitsFor a b = true ↔ u.Waits a b := by
  unfold LockUnit.waitsFor LockUnit.Waits
  rw [Bool.and_eq_true, decide_eq_true_eq]
  refine and_congr_right fun _ => ?_
  cases hw : u.waitingOf a with
  | none =>
    have hnone := (u.waitingOf_eq_none_iff a).mp hw
    simp only [Bool.false_eq_true, false_iff]
    rintro ⟨k, c, hc, howner, _⟩
    exact hnone k c hc howner
  | some k =>
    obtain ⟨⟨c, hc, howner⟩, _⟩ := (u.waitingOf_eq_some_iff a k).mp hw
    have hclaim : (u.entry k).state.claim? = some c := EntryState.claim_of_waiting hc
    have hmatch : ∀ (o : Option Claim) (j : LockSlot), (match o with
        | some d => decide (d.owner = b) && d.conflicts c && u.standsBefore j k
        | none => false) = true ↔ ∃ d ∈ o, d.owner = b ∧ d.conflicts c = true ∧ u.standsBefore j k = true :=
      fun o j => by cases o <;> simp [and_assoc]
    have hentry := fun j => (hmatch (u.entry j).state.claim? j).trans (u.standsBefore_iff b j k c)
    simp only [hclaim, List.any_eq_true]
    refine ⟨fun ⟨j, _, hj⟩ => ⟨k, c, hc, howner, ?_⟩, fun ⟨k', c', hc', howner', hagainst⟩ => ?_⟩
    · exact ((hentry j).mp hj).imp (fun hs => ⟨j, hs⟩) fun hs => ⟨j, hs⟩
    · have hk := h.waitingOf hc'
      rw [howner', hw] at hk
      cases hk
      cases hc.symm.trans hc'
      exact hagainst.elim (fun ⟨j, hs⟩ => ⟨j, mem_allLockSlots j, (hentry j).mpr (.inl hs)⟩)
        fun ⟨j, hs⟩ => ⟨j, mem_allLockSlots j, (hentry j).mpr (.inr hs)⟩

/-- Law 4 by the relation of R32. -/
theorem LockUnit.oneWaitEach.noCycle_iff {u : LockUnit} (h : u.oneWaitEach) :
    u.noCycle ↔ ∀ p : Port, ¬Relation.TransGen u.Waits p p := by
  have hrel : (fun a b => u.waitsFor a b = true) = u.Waits := by
    funext a b
    exact propext (h.waitsFor_iff a b)
  rw [LockUnit.noCycle, hrel]

/-! ### Changes that keep the laws -/

/-- A change of the Lock Table that keeps laws 1, 2 and 6 and the waiting order, and with them law 4. -/
structure LockUnit.KeepsLaws (u v : LockUnit) : Prop where
  lawful : u.lawful → v.lawful
  noCycle : u.lawful → u.noCycle → v.noCycle

theorem LockUnit.KeepsLaws.refl (u : LockUnit) : u.KeepsLaws u := ⟨id, fun _ => id⟩

theorem LockUnit.KeepsLaws.trans {u v w : LockUnit} (h : u.KeepsLaws v) (h' : v.KeepsLaws w) : u.KeepsLaws w :=
  ⟨fun hu => h'.lawful (h.lawful hu), fun hu hc => h'.noCycle (h.lawful hu) (h.noCycle hu hc)⟩

/-- A change that keeps laws 1, 2 and 6 and the waiting order, and after which no port waits for one that it did not wait for. -/
structure LockUnit.Calms (u v : LockUnit) : Prop where
  lawful : u.lawful → v.lawful
  waits : u.lawful → ∀ a b, v.Waits a b → u.Waits a b

theorem LockUnit.Calms.refl (u : LockUnit) : u.Calms u := ⟨id, fun _ _ _ => id⟩

theorem LockUnit.Calms.trans {u v w : LockUnit} (h : u.Calms v) (h' : v.Calms w) : u.Calms w :=
  ⟨fun hu => h'.lawful (h.lawful hu), fun hu a b hw => h.waits hu a b (h'.waits (h.lawful hu) a b hw)⟩

theorem LockUnit.lawful.oneWait {u : LockUnit} (h : u.lawful) : u.oneWaitEach := by
  obtain ⟨_, _, _, hone⟩ := h
  exact hone

/-- Where nobody waits for anyone new, no cycle comes about (R33). -/
theorem LockUnit.Calms.keepsLaws {u v : LockUnit} (h : u.Calms v) : u.KeepsLaws v := by
  refine ⟨h.lawful, fun hu hc => ?_⟩
  rw [(h.lawful hu).oneWait.noCycle_iff]
  rw [hu.oneWait.noCycle_iff] at hc
  exact fun p hp => hc p (Relation.TransGen.mono (h.waits hu) p p hp)

/-! ### Entries that stay or go -/

/-- Two claims of one port to one range in one mode: they differ in their leases alone. -/
structure Claim.SameLock (c d : Claim) : Prop where
  owner : c.owner = d.owner
  mode : c.mode = d.mode
  first : c.first = d.first
  count : c.count = d.count

theorem Claim.SameLock.refl (c : Claim) : c.SameLock c := ⟨rfl, rfl, rfl, rfl⟩

/-- Conflict is by range and mode alone (R24). -/
theorem Claim.SameLock.conflicts {c c' d d' : Claim} (h : c.SameLock c') (h' : d.SameLock d') :
    c.conflicts d = c'.conflicts d' := by
  rw [Claim.conflicts, Claim.conflicts, h.mode, h.first, h.count, h'.mode, h'.first, h'.count]

/-- A change after which every WAITING entry was one before and every standing entry was one before, of the same port, range and mode:
entries go, and leases change. -/
structure LockUnit.Fades (u v : LockUnit) : Prop where
  waiting : ∀ k : LockSlot, ∀ c' ∈ (v.entry k).state.waiting?, ∃ c ∈ (u.entry k).state.waiting?, c'.SameLock c
  standing : ∀ k : LockSlot, ∀ c' ∈ (v.entry k).state.standing?, ∃ c ∈ (u.entry k).state.standing?, c'.SameLock c
  leases : u.leasesBounded → v.leasesBounded
  order : v.order.Sublist u.order
  orderMatches : u.orderMatches → v.orderMatches

/-- The places of two members of a list without duplicates are in the order that they have in a sublist. -/
theorem idxOf_lt_of_sublist {l l' : List LockSlot} (h : l.Sublist l') (hnodup : l'.Nodup) {j k : LockSlot} (hj : j ∈ l)
    (hk : k ∈ l) (hlt : l.idxOf j < l.idxOf k) : l'.idxOf j < l'.idxOf k := by
  induction h with
  | slnil => cases hj
  | @cons l₁ l₂ a hsub ih =>
    obtain ⟨ha, hrest⟩ := List.nodup_cons.mp hnodup
    have hne : ∀ {i}, i ∈ l₁ → a ≠ i := fun hi hai => ha (hai ▸ hsub.subset hi)
    rw [List.idxOf_cons_ne _ (hne hj), List.idxOf_cons_ne _ (hne hk)]
    exact Nat.succ_lt_succ (ih hrest hj hk hlt)
  | @cons_cons l₁ l₂ a hsub ih =>
    obtain ⟨_, hrest⟩ := List.nodup_cons.mp hnodup
    by_cases haj : a = j
    · subst haj
      have hak : a ≠ k := fun hak => by simp [hak] at hlt
      rw [List.idxOf_cons_self, List.idxOf_cons_ne _ hak]
      exact Nat.succ_pos _
    · have hak : a ≠ k := fun hak => by simp [hak] at hlt
      rw [List.idxOf_cons_ne _ haj, List.idxOf_cons_ne _ hak] at hlt ⊢
      exact Nat.succ_lt_succ (ih hrest ((List.mem_cons.mp hj).resolve_left (Ne.symm haj))
        ((List.mem_cons.mp hk).resolve_left (Ne.symm hak)) (Nat.lt_of_succ_lt_succ hlt))

theorem LockUnit.Fades.lawful {u v : LockUnit} (h : u.Fades v) (hu : u.lawful) : v.lawful := by
  obtain ⟨hleases, hstanding, horder, hone⟩ := hu
  refine ⟨h.leases hleases, fun j k hjk c' hc' d' hd' => ?_, h.orderMatches horder, fun j k c' hc' d' hd' howner => ?_⟩
  · obtain ⟨c, hc, hcc⟩ := h.standing j c' hc'
    obtain ⟨d, hd, hdd⟩ := h.standing k d' hd'
    rw [hcc.conflicts hdd]
    exact hstanding j k hjk c hc d hd
  · obtain ⟨c, hc, hcc⟩ := h.waiting j c' hc'
    obtain ⟨d, hd, hdd⟩ := h.waiting k d' hd'
    exact hone j k c hc d hd (by rw [← hcc.owner, ← hdd.owner, howner])

/-- Nobody waits for anyone new when entries only go. -/
theorem LockUnit.Fades.waits {u v : LockUnit} (h : u.Fades v) (hu : u.orderMatches) (a b : Port) (hw : v.Waits a b) :
    u.Waits a b := by
  obtain ⟨hne, k, c', hc', howner, hagainst⟩ := hw
  obtain ⟨c, hc, hcc⟩ := h.waiting k c' hc'
  obtain ⟨_, hmem⟩ := h.orderMatches hu
  refine ⟨hne, k, c, hc, hcc.owner ▸ howner, hagainst.imp ?_ ?_⟩
  · rintro ⟨j, d', hd', hb, hconf⟩
    obtain ⟨d, hd, hdd⟩ := h.standing j d' hd'
    exact ⟨j, d, hd, hdd.owner ▸ hb, hdd.conflicts hcc ▸ hconf⟩
  · rintro ⟨j, d', hd', hb, hconf, hlt⟩
    obtain ⟨d, hd, hdd⟩ := h.waiting j d' hd'
    have hj : j ∈ v.order := (hmem j).mpr (Option.isSome_of_mem hd')
    have hk : k ∈ v.order := (hmem k).mpr (Option.isSome_of_mem hc')
    exact ⟨j, d, hd, hdd.owner ▸ hb, hdd.conflicts hcc ▸ hconf, idxOf_lt_of_sublist h.order hu.1 hj hk hlt⟩

theorem LockUnit.Fades.calms {u v : LockUnit} (h : u.Fades v) : u.Calms v :=
  ⟨h.lawful, fun ⟨_, _, horder, _⟩ => h.waits horder⟩

/-- A released entry goes, and leaves the waiting order with its state (R22, R31). -/
theorem LockUnit.Fades.release (u : LockUnit) (k : LockSlot) : u.Fades (u.release k) := by
  have hentry : ∀ j, (u.release k).entry j = if j = k then ⟨(u.entry k).gen + 1, .free⟩ else u.entry j := fun j => by
    split
    · next hj => rw [hj, u.entry_release_self]
    · next hj => rw [u.entry_release_other hj]
  refine ⟨fun j c hc => ?_, fun j c hc => ?_, fun hu j c hc => ?_, List.filter_sublist, fun ⟨hnodup, hmem⟩ =>
    ⟨hnodup.filter _, fun j => ?_⟩⟩
  · rw [hentry] at hc
    split at hc
    · cases hc
    · exact ⟨c, hc, .refl c⟩
  · rw [hentry] at hc
    split at hc
    · cases hc
    · exact ⟨c, hc, .refl c⟩
  · rw [hentry] at hc
    split at hc
    · cases hc
    · exact hu j c hc
  · rw [u.order_release, List.mem_filter, hentry]
    split
    · next hj => simp [hj, EntryState.waiting?]
    · next hj => simp [hj, hmem]

/-- A standing entry that goes on standing for its port, range and mode, with its lease still bounded. -/
theorem LockUnit.Fades.setEntry_standing {u : LockUnit} {k : LockSlot} {e : LockEntry} {c c' : Claim}
    (hc : (u.entry k).state.standing? = some c) (hc' : e.state.standing? = some c') (hsame : c'.SameLock c)
    (hlease : c.leaseLeft ≤ c.leaseLen → c'.leaseLeft ≤ c'.leaseLen) : u.Fades (u.setEntry k e) := by
  have hself := u.entry_setEntry_self k e
  have hother : ∀ j, j ≠ k → (u.setEntry k e).entry j = u.entry j := fun j hj => u.entry_setEntry_other e hj
  refine ⟨fun j d hd => ?_, fun j d hd => ?_, fun hu j d hd => ?_, List.Sublist.refl _, fun ⟨hnodup, hmem⟩ =>
    ⟨hnodup, fun j => ?_⟩⟩
  · by_cases hj : j = k
    · rw [hj, hself, EntryState.waiting_of_standing (by rw [hc']; rfl)] at hd
      cases hd
    · rw [hother j hj] at hd
      exact ⟨d, hd, .refl d⟩
  · by_cases hj : j = k
    · rw [hj, hself, hc'] at hd
      cases hd
      exact ⟨c, hj ▸ hc, hsame⟩
    · rw [hother j hj] at hd
      exact ⟨d, hd, .refl d⟩
  · by_cases hj : j = k
    · rw [hj, hself, EntryState.claim_of_standing hc'] at hd
      cases hd
      exact hlease (hu k c (EntryState.claim_of_standing hc))
    · rw [hother j hj] at hd
      exact hu j d hd
  · rw [u.order_setEntry, hmem]
    by_cases hj : j = k
    · rw [hj, hself, EntryState.waiting_of_standing (by rw [hc]; rfl), EntryState.waiting_of_standing (by rw [hc']; rfl)]
    · rw [hother j hj]

/-- A table with every entry FREE and nothing waiting. -/
theorem LockUnit.Fades.of_free {u v : LockUnit} (hfree : ∀ k, (v.entry k).state = .free) (horder : v.order = []) :
    u.Fades v := by
  have hnone : ∀ k, (v.entry k).state.claim? = none := fun k => by rw [hfree]; rfl
  refine ⟨fun k c hc => ?_, fun k c hc => ?_, fun _ k c hc => ?_, ?_, fun _ => ⟨?_, fun k => ?_⟩⟩
  · rw [hfree] at hc
    cases hc
  · rw [hfree] at hc
    cases hc
  · rw [hfree] at hc
    cases hc
  · rw [horder]
    exact List.nil_sublist _
  · rw [horder]
    exact List.nodup_nil
  · simp [horder, hfree, EntryState.waiting?]

end Sys2Proof.Machine
end

section
/-! SUPPORT. The operations of the Lock Unit keep its laws: the sweep, releases, the requests that carry a handle, the timers and the
port-down event. -/

namespace Sys2Proof.Machine

/-! ### The sweep -/

/-- The entries still WAITING after a sweep are those of its waiting order, unchanged. -/
theorem SweptFrom.waiting {u v : LockUnit} {g : List Handed} (h : SweptFrom u.order [] u v g) (hu : u.orderMatches)
    {k : LockSlot} {c : Claim} (hc : (v.entry k).state.waiting? = some c) :
    k ∈ v.order ∧ (u.entry k).state.waiting? = some c := by
  by_cases hk : k ∈ u.order
  · obtain ⟨d, hd⟩ := Option.isSome_iff_exists.mp ((hu.2 k).mp hk)
    rcases h.fate k hk d hd with ⟨hkv, heq⟩ | ⟨_, heq⟩
    · exact ⟨hkv, heq ▸ hc⟩
    · rw [heq] at hc
      cases hc
  · rw [h.others k hk] at hc
    exact absurd ((hu.2 k).mpr (by rw [hc]; rfl)) hk

/-- The entries standing after a sweep stood before it, or were WAITING and have been granted. -/
theorem SweptFrom.standing {u v : LockUnit} {g : List Handed} (h : SweptFrom u.order [] u v g) (hu : u.orderMatches)
    {k : LockSlot} {c : Claim} (hc : (v.entry k).state.standing? = some c) :
    (u.entry k).state.standing? = some c
      ∨ ∃ d, c = d.fullLease ∧ (u.entry k).state.waiting? = some d ∧ k ∈ u.order ∧ k ∉ v.order := by
  by_cases hk : k ∈ u.order
  · obtain ⟨d, hd⟩ := Option.isSome_iff_exists.mp ((hu.2 k).mp hk)
    rcases h.fate k hk d hd with ⟨_, heq⟩ | ⟨hkv, heq⟩
    · exact .inl (heq ▸ hc)
    · rw [heq] at hc
      cases hc
      exact .inr ⟨d, rfl, hd, hk, hkv⟩
  · exact .inl (h.others k hk ▸ hc)

theorem SweptFrom.order_sublist {u v : LockUnit} {g : List Handed} (h : SweptFrom u.order [] u v g) :
    v.order.Sublist u.order := by
  obtain ⟨l, hl, hv⟩ := h.order
  rw [hv]
  exact hl

/-- The waiting order after a sweep lists exactly the entries still WAITING (R31). -/
theorem SweptFrom.orderMatches {u v : LockUnit} {g : List Handed} (h : SweptFrom u.order [] u v g) (hu : u.orderMatches) :
    v.orderMatches := by
  refine ⟨hu.1.sublist h.order_sublist, fun k => ⟨fun hk => ?_, fun hk => ?_⟩⟩
  · have hku := h.order_sublist.subset hk
    obtain ⟨c, hc⟩ := Option.isSome_iff_exists.mp ((hu.2 k).mp hku)
    rcases h.fate k hku c hc with ⟨_, heq⟩ | ⟨hkv, _⟩
    · rw [heq, hc]
      rfl
    · exact absurd hk hkv
  · obtain ⟨c, hc⟩ := Option.isSome_iff_exists.mp hk
    exact (h.waiting hu hc).1

/-- A sweep keeps laws 1, 2 and 6: a granted entry conflicts with no standing one, and its lease is full. -/
theorem SweptFrom.lawful {u v : LockUnit} {g : List Handed} (h : SweptFrom u.order [] u v g) (hu : u.lawful) :
    v.lawful := by
  obtain ⟨hleases, hstanding, hmatch, hone⟩ := hu
  have hgranted : ∀ {j k c d}, j ≠ k → (v.entry j).state.standing? = some c → (v.entry k).state.standing? = some d →
      k ∈ u.order → k ∉ v.order → c.conflicts d = false := by
    intro j k c d hjk hc hd hk hkv
    obtain ⟨e, he⟩ := Option.isSome_iff_exists.mp ((hmatch.2 k).mp hk)
    rcases h.standing hmatch hd with hd | ⟨e', rfl, he', _⟩
    · rw [EntryState.standing_of_waiting (by rw [he]; rfl)] at hd
      cases hd
    · obtain ⟨_, hclear, _⟩ := h.clear k hk hkv e' he'
      rw [Claim.conflicts_comm, Claim.conflicts_fullLease, Claim.conflicts_comm]
      exact hclear j hjk c hc
  refine ⟨fun k c hc => ?_, fun j k hjk c hc d hd => ?_, h.orderMatches hmatch, fun j k c hc d hd howner => ?_⟩
  · by_cases hk : k ∈ u.order
    · obtain ⟨d, hd⟩ := Option.isSome_iff_exists.mp ((hmatch.2 k).mp hk)
      rcases h.fate k hk d hd with ⟨_, heq⟩ | ⟨_, heq⟩
      · exact hleases k c (heq ▸ hc)
      · rw [heq] at hc
        cases hc
        exact Nat.le_refl _
    · exact hleases k c (h.others k hk ▸ hc)
  · rcases h.standing hmatch hd with hud | ⟨_, _, _, hk, hkv⟩
    · rcases h.standing hmatch hc with huc | ⟨_, _, _, hj, hjv⟩
      · exact hstanding j k hjk c huc d hud
      · rw [Claim.conflicts_comm]
        exact hgranted hjk.symm hd hc hj hjv
    · exact hgranted hjk hc hd hk hkv
  · exact hone j k c (h.waiting hmatch hc).2 d (h.waiting hmatch hd).2 howner

/-- After a sweep nobody waits for anyone new: what stands in the way of an entry still WAITING stood there before, or was WAITING
before it, since no granted entry arrived later and conflicts with it (R35). -/
theorem SweptFrom.waits {u v : LockUnit} {g : List Handed} (h : SweptFrom u.order [] u v g) (hu : u.orderMatches)
    (a b : Port) (hw : v.Waits a b) : u.Waits a b := by
  obtain ⟨hne, k, c, hc, howner, hagainst⟩ := hw
  obtain ⟨hkv, huc⟩ := h.waiting hu hc
  have hlt := fun {j} (hj : j ∈ v.order) => idxOf_lt_of_sublist h.order_sublist hu.1 (j := j) (k := k) hj hkv
  refine ⟨hne, k, c, huc, howner, ?_⟩
  rcases hagainst with ⟨j, d, hd, hb, hconf⟩ | ⟨j, d, hd, hb, hconf, hjk⟩
  · rcases h.standing hu hd with hud | ⟨e, rfl, he, hj, hjv⟩
    · exact .inl ⟨j, d, hud, hb, hconf⟩
    · refine .inr ⟨j, e, he, hb, hconf, ?_⟩
      obtain ⟨_, _, hclear⟩ := h.clear j hj hjv e he
      rcases Nat.lt_trichotomy (u.order.idxOf j) (u.order.idxOf k) with hlt | heq | hgt
      · exact hlt
      · exact absurd hkv ((List.idxOf_inj hj).mp heq ▸ hjv)
      · have hfalse := hclear k hkv (sweptBefore_nil_iff.mpr hgt) c huc
        rw [Claim.conflicts_comm, ← Claim.conflicts_fullLease, hconf] at hfalse
        cases hfalse
  · obtain ⟨hjv, hud⟩ := h.waiting hu hd
    exact .inr ⟨j, d, hud, hb, hconf, hlt hjv hjk⟩

theorem LockUnit.Calms.sweep (u : LockUnit) : u.Calms u.sweep.1 := by
  refine ⟨fun hu => ?_, fun hu => ?_⟩ <;> obtain ⟨_, _, hmatch, _⟩ := id hu
  · exact (LockUnit.sweep_sweptFrom hmatch).lawful hu
  · exact (LockUnit.sweep_sweptFrom hmatch).waits hmatch

/-! ### Releases -/

theorem LockUnit.Calms.release (u : LockUnit) (k : LockSlot) : u.Calms (u.release k) := (LockUnit.Fades.release u k).calms

theorem LockUnit.Calms.releaseAndSweep (u : LockUnit) (k : LockSlot) (ev : List Handed) (r : List GranuleRange) :
    u.Calms (u.releaseAndSweep k ev r).unit := (LockUnit.Calms.release u k).trans (.sweep _)

theorem LockUnit.Calms.unlock (u : LockUnit) (p : Port) (h : Handle) : u.Calms (u.unlock p h).effect.unit := by
  unfold LockUnit.unlock
  split
  · exact .refl u
  · exact .refl u
  · exact .refl u
  all_goals
    split
    · exact .releaseAndSweep ..
    · exact .refl u

theorem LockUnit.Calms.forceRelease (u : LockUnit) (sup : Port) (k : LockSlot) :
    u.Calms (u.forceRelease sup k).effect.unit := by
  unfold LockUnit.forceRelease
  split
  · exact .refl u
  all_goals exact .releaseAndSweep ..

/-! ### Standing entries changed where they stand -/

/-- An honoured handle names its entry's state (R23). -/
theorem LockUnit.state_of_honoured {u : LockUnit} {h : Handle} {e : EntryState} (he : u.honoured h = some e) :
    (u.entry h.slot).state = e := by
  obtain ⟨hentry, _⟩ := (u.honoured_eq_some h e).mp he
  rw [hentry]

/-- A standing entry that becomes HELD, or stays so, with a bounded lease. -/
theorem LockUnit.Calms.hold {u : LockUnit} {k : LockSlot} {c c' : Claim} (hc : (u.entry k).state.standing? = some c)
    (hsame : c'.SameLock c) (hlease : c'.leaseLeft ≤ c'.leaseLen) : u.Calms (u.place k (.held c')) :=
  (LockUnit.Fades.setEntry_standing hc rfl hsame fun _ => hlease).calms

theorem LockUnit.Calms.renew (u : LockUnit) (p : Port) (h : Handle) (lease : Nat) :
    u.Calms (u.renew p h lease).effect.unit := by
  unfold LockUnit.renew
  split
  · exact .refl u
  · exact .refl u
  · exact .refl u
  · next c hc =>
    split
    · refine LockUnit.Calms.hold (c := c) ?_ ⟨rfl, rfl, rfl, rfl⟩ (Nat.le_refl _)
      rw [u.state_of_honoured hc]
      rfl
    · exact .refl u
  · split
    · exact .refl u
    · exact .refl u

theorem LockUnit.Calms.adopt (u : LockUnit) (p : Port) (h : Handle) : u.Calms (u.adopt p h).effect.unit := by
  unfold LockUnit.adopt
  split
  · exact .refl u
  · exact .refl u
  · exact .refl u
  · exact .refl u
  · next c _ _ hc =>
    split
    · exact .refl u
    · split
      · exact .refl u
      · refine LockUnit.Calms.hold (c := c) ?_ ⟨rfl, rfl, rfl, rfl⟩ (Nat.le_refl _)
        rw [u.state_of_honoured hc]
        rfl

theorem LockUnit.Calms.restartLease (u : LockUnit) (h : Handle) : u.Calms (u.restartLease h) := by
  unfold LockUnit.restartLease
  split
  · next c hc =>
    split
    · exact .refl u
    · refine LockUnit.Calms.hold (c := c) ?_ ⟨rfl, rfl, rfl, rfl⟩ (Nat.le_refl _)
      rw [u.state_of_honoured hc]
      rfl
  · exact .refl u

theorem LockUnit.Calms.restartLeases (u : LockUnit) (names : List Handle) : u.Calms (u.restartLeases names) := by
  induction names generalizing u with
  | nil => exact .refl u
  | cons h rest ih => exact (LockUnit.Calms.restartLease u h).trans (ih _)

/-! ### Timers -/

@[simp] theorem LockUnit.entry_tick (u : LockUnit) (k : LockSlot) :
    u.tick.entry k = ⟨(u.entry k).gen, (u.entry k).state.tick⟩ := by
  simp [LockUnit.tick, LockUnit.entry, mapVector]

/-- A count changes no entry's state, owner, range or mode, and takes from the lease left. -/
theorem LockUnit.Calms.tick (u : LockUnit) : u.Calms u.tick := by
  have hwait : ∀ e : EntryState, e.tick.waiting? = e.waiting? := fun e => by cases e <;> rfl
  have hleft : ∀ c : Claim, c.leaseLeft ≤ c.leaseLen → c.leaseLeft - 1 ≤ c.leaseLen := fun c h => by omega
  refine LockUnit.Fades.calms ⟨fun k c hc => ?_, fun k c hc => ?_, fun hu k c hc => ?_, List.Sublist.refl _,
    fun ⟨hnodup, hmem⟩ => ⟨hnodup, fun k => ?_⟩⟩
  · rw [u.entry_tick, hwait] at hc
    exact ⟨c, hc, .refl c⟩
  · rw [u.entry_tick] at hc
    cases he : (u.entry k).state with
    | free => rw [he] at hc; cases hc
    | waiting d n => rw [he] at hc; cases hc
    | orphaned d n ad => rw [he] at hc; cases hc; exact ⟨_, rfl, .refl _⟩
    | held d =>
      rw [he] at hc
      cases hc
      refine ⟨d, rfl, ?_⟩
      split
      · exact .refl d
      · exact ⟨rfl, rfl, rfl, rfl⟩
  · have hk := hu k
    rw [u.entry_tick] at hc
    cases he : (u.entry k).state with
    | free => rw [he] at hc; cases hc
    | waiting d n => rw [he] at hc hk; exact hk c hc
    | orphaned d n ad => rw [he] at hc hk; exact hk c hc
    | held d =>
      rw [he] at hc hk
      cases hc
      split
      · exact hk d rfl
      · exact hleft d (hk d rfl)
  · rw [u.entry_tick, hwait]
    exact hmem k

/-- An expiry that takes effect ends an entry and sweeps; one that does not leaves everything. -/
theorem LockUnit.Calms.leaseExpiry {u : LockUnit} {k : LockSlot} {e : LockEffect} (h : u.leaseExpiry k = some e) :
    u.Calms e.unit := by
  unfold LockUnit.leaseExpiry at h
  split at h
  · split at h
    · cases h
      exact .releaseAndSweep ..
    · cases h
  · cases h

theorem LockUnit.Calms.waitExpiry {u : LockUnit} {k : LockSlot} {e : LockEffect} (h : u.waitExpiry k = some e) :
    u.Calms e.unit := by
  unfold LockUnit.waitExpiry at h
  split at h
  · split at h
    · cases h
      exact .releaseAndSweep ..
    · cases h
  · cases h

theorem LockUnit.Calms.orphanExpiry {u : LockUnit} {sup : Port} {k : LockSlot} {e : LockEffect}
    (h : u.orphanExpiry sup k = some e) : u.Calms e.unit := by
  unfold LockUnit.orphanExpiry at h
  split at h
  · split at h
    · cases h
      exact .releaseAndSweep ..
    · cases h
  · cases h

/-! ### The port-down event -/

theorem LockUnit.Calms.removeWaiting (u : LockUnit) (p : Port) : u.Calms (u.removeWaiting p).1 := by
  unfold LockUnit.removeWaiting
  split
  · exact .release ..
  · exact .refl u

theorem LockUnit.Calms.orphan (u : LockUnit) (loss : Loss) (hold : Nat) (sup : Port) (k : LockSlot) :
    u.Calms (u.orphan loss hold sup k).1 := by
  unfold LockUnit.orphan
  split
  · next c hc =>
    refine (LockUnit.Fades.setEntry_standing (c := c) ?_ rfl (.refl c) id).calms
    rw [hc]
    rfl
  · exact .refl u

theorem LockUnit.Calms.orphanAll (u : LockUnit) (loss : Loss) (hold : Nat) (sup : Port) (l : List LockSlot) :
    u.Calms (u.orphanAll loss hold sup l).1 := by
  induction l generalizing u with
  | nil => exact .refl u
  | cons k rest ih => exact (LockUnit.Calms.orphan u loss hold sup k).trans (ih _)

theorem LockUnit.Calms.breakHeld (u : LockUnit) (sup : Port) (k : LockSlot) : u.Calms (u.breakHeld sup k).unit := by
  unfold LockUnit.breakHeld
  split
  · exact .release ..
  · exact .refl u

theorem LockUnit.Calms.breakAll (u : LockUnit) (sup : Port) (l : List LockSlot) : u.Calms (u.breakAll sup l).unit := by
  induction l generalizing u with
  | nil => exact .refl u
  | cons k rest ih => exact (LockUnit.Calms.breakHeld u sup k).trans (ih _)

theorem LockUnit.Calms.loseEntries (u : LockUnit) (p : Port) (loss : Loss) (hold : Nat) (sup : Port) :
    u.Calms (u.loseEntries p loss hold sup).unit := by
  have hremoved := LockUnit.Calms.removeWaiting u p
  unfold LockUnit.loseEntries
  dsimp only
  split
  · exact hremoved.trans (.breakAll ..)
  · exact hremoved.trans (.orphanAll ..)

theorem LockUnit.Calms.portDown (u : LockUnit) (p : Port) (loss : Loss) (hold : Nat) (sup : Port) :
    u.Calms (u.portDown p loss hold sup).unit := by
  have hlost := LockUnit.Calms.loseEntries u p loss hold sup
  unfold LockUnit.portDown
  dsimp only
  split
  · exact hlost.trans (.sweep _)
  · exact hlost

/-! ### Reset -/

/-- Warm reset leaves every entry FREE (R51). -/
theorem LockUnit.Calms.warmReset (u : LockUnit) : u.Calms u.warmReset := by
  refine (LockUnit.Fades.of_free (fun k => ?_) rfl).calms
  have hentry : u.warmReset.entry k = (u.entry k).warmReset := by
    simp [LockUnit.warmReset, LockUnit.entry, mapVector]
  rw [hentry, LockEntry.warmReset]
  split
  · assumption
  all_goals rfl

/-- Cold reset leaves every entry FREE (R50). -/
theorem LockUnit.Calms.coldReset (u : LockUnit) : u.Calms LockUnit.reset :=
  (LockUnit.Fades.of_free (fun k => by simp [LockUnit.reset, LockUnit.entry]) rfl).calms

end Sys2Proof.Machine
end

section
/-! SUPPORT. LOCK and RECLAIM keep the laws of the Lock Table: the deadlock check finds exactly the cycles (R33), a new HELD entry stands
in nobody's way, a new WAITING entry comes last, and the supervisor takes an orphan over while it waits for nobody. -/

namespace Sys2Proof.Machine

/-! ### Following the wait-for relation (R33) -/

/-- One port waits for another in the table u. -/
abbrev LockUnit.WaitsFor (u : LockUnit) (a b : Port) : Prop := u.waitsFor a b = true

theorem mem_allPorts : ∀ p : Port, p ∈ allPorts := by decide

/-- The ports reached from some ports by following the wait-for relation at most once. -/
def LockUnit.reachOnce (u : LockUnit) (ports : List Port) : List Port :=
  allPorts.filter fun b => decide (b ∈ ports) || ports.any fun a => u.waitsFor a b

theorem LockUnit.reach_succ (u : LockUnit) (n : Nat) (ports : List Port) :
    u.reach (n + 1) ports = u.reach n (u.reachOnce ports) := rfl

theorem LockUnit.mem_reachOnce (u : LockUnit) (ports : List Port) (b : Port) :
    b ∈ u.reachOnce ports ↔ b ∈ ports ∨ ∃ a ∈ ports, u.WaitsFor a b := by
  simp [LockUnit.reachOnce, mem_allPorts]

theorem LockUnit.mem_reach_of_mem (u : LockUnit) (n : Nat) {ports : List Port} {b : Port} (h : b ∈ ports) :
    b ∈ u.reach n ports := by
  induction n generalizing ports with
  | zero => exact h
  | succ n ih => exact ih ((u.mem_reachOnce ports b).mpr (.inl h))

/-- A port reached is reached from one of the ports by the relation. -/
theorem LockUnit.reflTransGen_of_mem_reach (u : LockUnit) (n : Nat) {ports : List Port} {b : Port}
    (h : b ∈ u.reach n ports) : ∃ a ∈ ports, Relation.ReflTransGen u.WaitsFor a b := by
  induction n generalizing ports with
  | zero => exact ⟨b, h, .refl⟩
  | succ n ih =>
    obtain ⟨a, ha, hab⟩ := ih h
    rcases (u.mem_reachOnce ports a).mp ha with ha | ⟨a', ha', hw⟩
    · exact ⟨a, ha, hab⟩
    · exact ⟨a', ha', .head hw hab⟩

/-- The relation leads out of the ports nowhere. -/
def LockUnit.ClosedUnder (u : LockUnit) (ports : List Port) : Prop := ∀ a ∈ ports, ∀ b, u.WaitsFor a b → b ∈ ports

theorem LockUnit.ClosedUnder.mem {u : LockUnit} {ports : List Port} (h : u.ClosedUnder ports) {a b : Port} (ha : a ∈ ports)
    (hab : Relation.ReflTransGen u.WaitsFor a b) : b ∈ ports := by
  induction hab with
  | refl => exact ha
  | tail _ hw ih => exact h _ ih _ hw

/-- Each turn either adds a port or finds the ports closed, and there are four ports. -/
theorem LockUnit.closedUnder_reach (u : LockUnit) (n : Nat) (ports : List Port) (hn : 4 ≤ n + ports.toFinset.card) :
    u.ClosedUnder (u.reach n ports) := by
  induction n generalizing ports with
  | zero =>
    have hall : ports.toFinset = Finset.univ := Finset.eq_univ_of_card _ (le_antisymm (Finset.card_le_univ _) (by simpa using hn))
    exact fun _ _ b _ => List.mem_toFinset.mp (hall ▸ Finset.mem_univ b)
  | succ n ih =>
    by_cases hc : u.ClosedUnder ports
    · intro a ha b hw
      obtain ⟨a', ha', haa⟩ := u.reflTransGen_of_mem_reach (n + 1) ha
      exact u.mem_reach_of_mem (n + 1) (hc.mem ha' (haa.tail hw))
    · rw [u.reach_succ]
      refine ih _ ?_
      have hsub : ports.toFinset ⊂ (u.reachOnce ports).toFinset := by
        unfold LockUnit.ClosedUnder at hc
        push Not at hc
        obtain ⟨a, ha, b, hw, hb⟩ := hc
        refine Finset.ssubset_iff_subset_ne.mpr ⟨fun c hc => ?_, fun heq => hb ?_⟩
        · exact List.mem_toFinset.mpr ((u.mem_reachOnce ports c).mpr (.inl (List.mem_toFinset.mp hc)))
        · exact List.mem_toFinset.mp (heq ▸ List.mem_toFinset.mpr ((u.mem_reachOnce ports b).mpr (.inr ⟨a, ha, hw⟩)))
      have hcard := Finset.card_lt_card hsub
      omega

/-- Four turns reach every port that the relation leads to. -/
theorem LockUnit.mem_reach_iff (u : LockUnit) (ports : List Port) (b : Port) :
    b ∈ u.reach 4 ports ↔ ∃ a ∈ ports, Relation.ReflTransGen u.WaitsFor a b :=
  ⟨u.reflTransGen_of_mem_reach 4, fun ⟨_, ha, hab⟩ =>
    (u.closedUnder_reach 4 ports (by omega)).mem (u.mem_reach_of_mem 4 ha) hab⟩

/-! ### The entries that conflict with a request -/

/-- The entry in slot k conflicts with a request, and its owner passes a test. -/
def LockUnit.ConflictsAt (u : LockUnit) (r : Claim) (own : Port → Bool) (k : LockSlot) : Prop :=
  ∃ c ∈ (u.entry k).state.claim?, own c.owner = true ∧ c.conflicts r = true

theorem LockUnit.mem_conflicting (u : LockUnit) (r : Claim) (own : Port → Bool) (k : LockSlot) :
    k ∈ u.conflicting r own ↔ u.ConflictsAt r own k := by
  rw [LockUnit.conflicting, List.mem_filter, LockUnit.ConflictsAt]
  cases (u.entry k).state.claim? <;> simp [mem_allLockSlots]

theorem LockUnit.conflicting_eq_nil_iff (u : LockUnit) (r : Claim) (own : Port → Bool) :
    u.conflicting r own = [] ↔ ∀ k : LockSlot, ∀ c ∈ (u.entry k).state.claim?, own c.owner = true → c.conflicts r = false := by
  rw [List.eq_nil_iff_forall_not_mem]
  refine forall_congr' fun k => ?_
  rw [u.mem_conflicting, LockUnit.ConflictsAt]
  simp

/-- The lowest-numbered conflicting entry is the first (step 4 of R28). -/
theorem LockUnit.conflicting_eq_cons {u : LockUnit} {r : Claim} {own : Port → Bool} {k : LockSlot}
    (hk : u.ConflictsAt r own k) (hlow : ∀ j, j < k → ¬u.ConflictsAt r own j) : ∃ rest, u.conflicting r own = k :: rest := by
  cases hl : u.conflicting r own with
  | nil =>
    have hmem := (u.mem_conflicting r own k).mpr hk
    rw [hl] at hmem
    cases hmem
  | cons j rest =>
    obtain ⟨hj, hjlow⟩ := filter_allLockSlots_head hl
    have hmem : ∀ {i}, u.ConflictsAt r own i → i ∈ u.conflicting r own := fun hi => (u.mem_conflicting r own _).mpr hi
    rcases lt_trichotomy j k with hlt | rfl | hgt
    · have hj : u.ConflictsAt r own j := (u.mem_conflicting r own j).mp (by rw [hl]; exact List.mem_cons_self)
      exact absurd hj (hlow j hlt)
    · exact ⟨rest, rfl⟩
    · have hkf := hjlow k hgt
      rw [(List.mem_filter.mp (hmem hk)).2] at hkf
      cases hkf

/-- The deadlock check finds exactly the requests whose queuing would close a cycle (R33). -/
theorem LockUnit.wouldDeadlock_iff (u : LockUnit) (p : Port) (r : Claim) :
    u.wouldDeadlock p r = true ↔ ClosesCycle u p r := by
  rw [LockUnit.wouldDeadlock, decide_eq_true_eq, u.mem_reach_iff]
  have hports : ∀ q, q ∈ (allPorts.filter fun q =>
      !(u.conflicting r fun o => decide (o = q) && decide (o ≠ p)).isEmpty)
        ↔ ∃ k : LockSlot, ∃ c ∈ (u.entry k).state.claim?, c.owner = q ∧ c.owner ≠ p ∧ c.conflicts r = true := fun q => by
    rw [List.mem_filter, Bool.not_eq_true', List.isEmpty_eq_false_iff_exists_mem]
    simp [mem_allPorts, u.mem_conflicting, LockUnit.ConflictsAt, and_assoc]
  constructor
  · rintro ⟨q, hq, hqp⟩
    obtain ⟨k, c, hc, rfl, hne, hconf⟩ := (hports q).mp hq
    exact ⟨k, c, hc, hne, hconf, hqp⟩
  · rintro ⟨k, c, hc, hne, hconf, hcp⟩
    exact ⟨c.owner, (hports _).mpr ⟨k, c, hc, rfl, hne, hconf⟩, hcp⟩

/-! ### A new HELD entry (R29) -/

/-- A new HELD entry that conflicts with no entry keeps law 2 and stands in nobody's way. -/
theorem LockUnit.Calms.placeHeld {u : LockUnit} {k : LockSlot} {r : Claim} (hfree : (u.entry k).state = .free)
    (hlease : r.leaseLeft ≤ r.leaseLen)
    (hconf : ∀ j : LockSlot, ∀ c ∈ (u.entry j).state.claim?, c.conflicts r = false) : u.Calms (u.place k (.held r)) := by
  have hself : ((u.place k (.held r)).entry k).state = .held r := by rw [u.place_eq, u.entry_setEntry_self]
  have hother : ∀ j, j ≠ k → (u.place k (.held r)).entry j = u.entry j := fun j hj => u.entry_setEntry_other _ hj
  have hwait : ∀ j, ((u.place k (.held r)).entry j).state.waiting? = (u.entry j).state.waiting? := fun j => by
    by_cases hj : j = k
    · rw [hj, hself, hfree]
      rfl
    · rw [hother j hj]
  have hstand : ∀ {j c}, ((u.place k (.held r)).entry j).state.standing? = some c →
      j = k ∧ c = r ∨ (u.entry j).state.standing? = some c := by
    intro j c hc
    by_cases hj : j = k
    · rw [hj, hself] at hc
      cases hc
      exact .inl ⟨hj, rfl⟩
    · exact .inr (hother j hj ▸ hc)
  have hclear : ∀ {j c}, (u.entry j).state.standing? = some c → c.conflicts r = false := fun {j c} hc =>
    hconf j c (EntryState.claim_of_standing hc)
  refine ⟨fun ⟨hleases, hstanding, ⟨hnodup, hmem⟩, hone⟩ => ⟨fun j c hc => ?_, fun i j hij c hc d hd => ?_,
    ⟨hnodup, fun j => ?_⟩, fun i j c hc d hd => ?_⟩, fun _ a b ⟨hne, i, c, hc, howner, hagainst⟩ => ?_⟩
  · by_cases hj : j = k
    · rw [hj, hself] at hc
      cases hc
      exact hlease
    · exact hleases j c (hother j hj ▸ hc)
  · rcases hstand hc with ⟨rfl, rfl⟩ | huc
    · rcases hstand hd with ⟨rfl, rfl⟩ | hud
      · exact absurd rfl hij
      · rw [Claim.conflicts_comm]
        exact hclear hud
    · rcases hstand hd with ⟨rfl, rfl⟩ | hud
      · exact hclear huc
      · exact hstanding i j hij c huc d hud
  · rw [hwait]
    exact hmem j
  · rw [hwait] at hc hd
    exact hone i j c hc d hd
  · rw [hwait] at hc
    refine ⟨hne, i, c, hc, howner, hagainst.imp ?_ ?_⟩
    · rintro ⟨j, d, hd, hb, hdc⟩
      rcases hstand hd with ⟨rfl, rfl⟩ | hud
      · rw [Claim.conflicts_comm, hconf i c (EntryState.claim_of_waiting hc)] at hdc
        cases hdc
      · exact ⟨j, d, hud, hb, hdc⟩
    · rintro ⟨j, d, hd, hb, hdc, hlt⟩
      rw [hwait] at hd
      exact ⟨j, d, hd, hb, hdc, hlt⟩

/-! ### A new WAITING entry (R30) -/

/-- The table with a request queued in slot k, at the tail of the waiting order. -/
def LockUnit.enqueue (u : LockUnit) (k : LockSlot) (r : Claim) (limit : Nat) : LockUnit :=
  { u.place k (.waiting r limit) with order := u.order ++ [k] }

@[simp] theorem LockUnit.order_enqueue (u : LockUnit) (k : LockSlot) (r : Claim) (limit : Nat) :
    (u.enqueue k r limit).order = u.order ++ [k] := rfl

@[simp] theorem LockUnit.entry_enqueue_self (u : LockUnit) (k : LockSlot) (r : Claim) (limit : Nat) :
    (u.enqueue k r limit).entry k = ⟨(u.entry k).gen, .waiting r limit⟩ := by
  rw [LockUnit.enqueue, LockUnit.entry_order, u.place_eq, u.entry_setEntry_self]

theorem LockUnit.entry_enqueue_other (u : LockUnit) {k j : LockSlot} (r : Claim) (limit : Nat) (h : j ≠ k) :
    (u.enqueue k r limit).entry j = u.entry j := u.entry_setEntry_other _ h

/-- A WAITING entry of the table with a request queued is the new one or an old one. -/
theorem LockUnit.waiting_enqueue {u : LockUnit} {k j : LockSlot} {r c : Claim} {limit : Nat}
    (h : ((u.enqueue k r limit).entry j).state.waiting? = some c) :
    j = k ∧ c = r ∨ j ≠ k ∧ (u.entry j).state.waiting? = some c := by
  by_cases hj : j = k
  · rw [hj, u.entry_enqueue_self] at h
    cases h
    exact .inl ⟨hj, rfl⟩
  · exact .inr ⟨hj, u.entry_enqueue_other r limit hj ▸ h⟩

/-- A standing entry of it is an old one. -/
theorem LockUnit.standing_enqueue {u : LockUnit} {k j : LockSlot} {r c : Claim} {limit : Nat}
    (h : ((u.enqueue k r limit).entry j).state.standing? = some c) : (u.entry j).state.standing? = some c := by
  by_cases hj : j = k
  · rw [hj, u.entry_enqueue_self] at h
    cases h
  · exact u.entry_enqueue_other r limit hj ▸ h

theorem LockUnit.not_mem_order_of_free {u : LockUnit} (h : u.orderMatches) {k : LockSlot}
    (hfree : (u.entry k).state = .free) : k ∉ u.order := by
  rw [h.2, hfree]
  exact nofun

/-- A port without a WAITING entry has its request queued: laws 1, 2 and 6 and the waiting order hold on. -/
theorem LockUnit.lawful_enqueue {u : LockUnit} {k : LockSlot} {r : Claim} (limit : Nat) (hu : u.lawful)
    (hfree : (u.entry k).state = .free) (hlease : r.leaseLeft ≤ r.leaseLen)
    (hnone : ∀ j : LockSlot, ∀ c ∈ (u.entry j).state.waiting?, c.owner ≠ r.owner) : (u.enqueue k r limit).lawful := by
  obtain ⟨hleases, hstanding, hmatch, hone⟩ := hu
  have hk := u.not_mem_order_of_free hmatch hfree
  obtain ⟨hnodup, hmem⟩ := hmatch
  refine ⟨fun j c hc => ?_, fun i j hij c hc d hd => ?_, ⟨?_, fun j => ?_⟩, fun i j c hc d hd howner => ?_⟩
  · by_cases hj : j = k
    · rw [hj, u.entry_enqueue_self] at hc
      cases hc
      exact hlease
    · exact hleases j c (u.entry_enqueue_other r limit hj ▸ hc)
  · exact hstanding i j hij c (u.standing_enqueue hc) d (u.standing_enqueue hd)
  · rw [u.order_enqueue]
    exact List.nodup_append.mpr ⟨hnodup, List.nodup_singleton k, by
      rintro a ha b hb rfl
      exact hk (List.mem_singleton.mp hb ▸ ha)⟩
  · rw [u.order_enqueue, List.mem_append, List.mem_singleton]
    by_cases hj : j = k
    · simp [hj, EntryState.waiting?]
    · rw [u.entry_enqueue_other r limit hj]
      simp [hj, hmem]
  · rcases u.waiting_enqueue hc with ⟨rfl, rfl⟩ | ⟨_, huc⟩
    · rcases u.waiting_enqueue hd with ⟨rfl, rfl⟩ | ⟨_, hud⟩
      · rfl
      · exact absurd howner.symm (hnone j d hud)
    · rcases u.waiting_enqueue hd with ⟨rfl, rfl⟩ | ⟨_, hud⟩
      · exact absurd howner (hnone i c huc)
      · exact hone i j c huc d hud howner

/-- Who waits once a request is queued: those who waited before, and the requester for the owners of the entries in its way; the new
entry, the last to arrive, stands in nobody's way. -/
theorem LockUnit.waits_enqueue {u : LockUnit} {k : LockSlot} {r : Claim} {limit : Nat} (hu : u.orderMatches)
    (hfree : (u.entry k).state = .free) {a b : Port} (h : (u.enqueue k r limit).Waits a b) :
    u.Waits a b
      ∨ a = r.owner ∧ ∃ j : LockSlot, ∃ d ∈ (u.entry j).state.claim?, d.owner = b ∧ b ≠ r.owner ∧ d.conflicts r = true := by
  obtain ⟨hne, i, c, hc, howner, hagainst⟩ := h
  have hk := u.not_mem_order_of_free hu hfree
  have hold : ∀ {j d}, (u.entry j).state.waiting? = some d → j ∈ u.order := fun {j d} hd =>
    (hu.2 j).mpr (by rw [hd]; rfl)
  rcases u.waiting_enqueue hc with ⟨rfl, rfl⟩ | ⟨_, huc⟩
  · refine .inr ⟨howner.symm, ?_⟩
    rcases hagainst with ⟨j, d, hd, hb, hconf⟩ | ⟨j, d, hd, hb, hconf, hlt⟩
    · exact ⟨j, d, EntryState.claim_of_standing (u.standing_enqueue hd), hb, howner ▸ hne.symm, hconf⟩
    · rcases u.waiting_enqueue hd with ⟨rfl, _⟩ | ⟨_, hud⟩
      · exact absurd hlt (Nat.lt_irrefl _)
      · exact ⟨j, d, EntryState.claim_of_waiting hud, hb, howner ▸ hne.symm, hconf⟩
  · refine .inl ⟨hne, i, c, huc, howner, hagainst.imp ?_ ?_⟩
    · rintro ⟨j, d, hd, hrest⟩
      exact ⟨j, d, u.standing_enqueue hd, hrest⟩
    · rintro ⟨j, d, hd, hb, hconf, hlt⟩
      rw [u.order_enqueue, List.idxOf_append_of_mem (hold huc)] at hlt
      rcases u.waiting_enqueue hd with ⟨rfl, _⟩ | ⟨_, hud⟩
      · rw [List.idxOf_append_of_notMem hk] at hlt
        have hle := List.idxOf_lt_length_of_mem (hold huc)
        omega
      · rw [List.idxOf_append_of_mem (hold hud)] at hlt
        exact ⟨j, d, hud, hb, hconf, hlt⟩

/-- A path in a relation enlarged by steps out of p alone either needs none of them, or comes to p in the old relation and goes on from
the end of such a step in it. -/
theorem transGen_new_source {old new : Port → Port → Prop} {p : Port} {target : Port → Prop}
    (hnew : ∀ a b, new a b → old a b ∨ a = p ∧ target b) {x y : Port} (h : Relation.TransGen new x y) :
    Relation.TransGen old x y
      ∨ Relation.ReflTransGen old x p ∧ ∃ b, target b ∧ Relation.ReflTransGen old b y := by
  induction h with
  | single hstep =>
    rcases hnew _ _ hstep with hold | ⟨rfl, ht⟩
    · exact .inl (.single hold)
    · exact .inr ⟨.refl, _, ht, .refl⟩
  | tail _ hstep ih =>
    rcases hnew _ _ hstep with hold | ⟨rfl, ht⟩
    · exact ih.imp (fun hxy => hxy.tail hold) fun ⟨hxp, b, hb, hby⟩ => ⟨hxp, b, hb, hby.tail hold⟩
    · exact .inr ⟨ih.elim (fun hxy => hxy.to_reflTransGen) fun ⟨hxp, _⟩ => hxp, _, ht, .refl⟩

/-- A request that would close no cycle closes none when it is queued (R33). -/
theorem LockUnit.noCycle_enqueue {u : LockUnit} {k : LockSlot} {r : Claim} (limit : Nat) (hu : u.lawful)
    (hfree : (u.entry k).state = .free) (hlease : r.leaseLeft ≤ r.leaseLen)
    (hnone : ∀ j : LockSlot, ∀ c ∈ (u.entry j).state.waiting?, c.owner ≠ r.owner) (hsafe : ¬ClosesCycle u r.owner r)
    (hc : u.noCycle) : (u.enqueue k r limit).noCycle := by
  obtain ⟨_, _, hmatch, hone⟩ := id hu
  rw [(u.lawful_enqueue limit hu hfree hlease hnone).oneWait.noCycle_iff]
  rw [hone.noCycle_iff] at hc
  intro q hq
  rcases transGen_new_source (fun a b hw => u.waits_enqueue hmatch hfree (a := a) (b := b) hw) hq with hold | ⟨hqp, b, ⟨j, d, hd, rfl, hne, hconf⟩, hbq⟩
  · exact hc q hold
  · refine hsafe ⟨j, d, hd, hne, hconf, ?_⟩
    exact Relation.ReflTransGen.mono (fun a b hw => (hone.waitsFor_iff a b).mpr hw) _ _ (hbq.trans hqp)

/-! ### LOCK -/

theorem LockUnit.freeSlot_eq_some_iff (u : LockUnit) (k : LockSlot) :
    u.freeSlot = some k ↔ (u.entry k).state = .free ∧ ∀ j, j < k → (u.entry j).state ≠ .free := by
  simp [LockUnit.freeSlot, find_allLockSlots_eq_some]

/-- Every outcome of Table 2.3 keeps the laws: a refusal changes nothing, a grant conflicts with nothing, and what is queued closes no
cycle. -/
theorem LockUnit.KeepsLaws.lock (u : LockUnit) {p : Port} {r : Claim} (howner : r.owner = p)
    (hlease : r.leaseLeft ≤ r.leaseLen) (wait : Bool) (limit quota waitDefault : Nat) :
    u.KeepsLaws (u.lock p r wait limit quota waitDefault).effect.unit := by
  unfold LockUnit.lock
  split
  · exact .refl u
  split
  · exact .refl u
  split
  · exact .refl u
  next k hk =>
  obtain ⟨hfree, _⟩ := (u.freeSlot_eq_some_iff k).mp hk
  split
  · exact .refl u
  next hown =>
  split
  · next hothers =>
    refine (LockUnit.Calms.placeHeld hfree hlease fun j c hc => ?_).keepsLaws
    by_cases hcp : c.owner = p
    · exact (u.conflicting_eq_nil_iff r _).mp hown j c hc (by simpa using hcp)
    · exact (u.conflicting_eq_nil_iff r _).mp hothers j c hc (by simpa using hcp)
  · unfold LockUnit.lockWaiting
    split
    · exact .refl u
    split
    · exact .refl u
    next hwait =>
    split
    · exact .refl u
    next hdead =>
    have hnone := (u.waitingOf_eq_none_iff p).mp hwait
    have hsafe : ¬ClosesCycle u p r := fun h => hdead ((u.wouldDeadlock_iff p r).mpr h)
    subst howner
    exact ⟨fun hu => u.lawful_enqueue _ hu hfree hlease hnone, fun hu => u.noCycle_enqueue _ hu hfree hlease hnone hsafe⟩

/-! ### RECLAIM -/

/-- A port that waits for nobody comes to own a standing entry: in a relation enlarged by steps to it alone no other path is new. -/
theorem transGen_new_sink {old new : Port → Port → Prop} {z : Port} (hnew : ∀ a b, new a b → old a b ∨ b = z)
    (hz : ∀ b, ¬new z b) {x y : Port} (h : Relation.TransGen new x y) (hy : y ≠ z) : Relation.TransGen old x y := by
  induction h with
  | single hstep => exact .single ((hnew _ _ hstep).resolve_right hy)
  | tail _ hstep ih => exact (ih fun hb => hz _ (hb ▸ hstep)).tail ((hnew _ _ hstep).resolve_right hy)

/-- A standing entry goes over to a port that waits for nobody, with its range and mode, under any generation. -/
theorem LockUnit.KeepsLaws.handOver {u : LockUnit} {k : LockSlot} {c c' : Claim} (gen : Byte)
    (hc : (u.entry k).state.standing? = some c) (hsame : ∀ d, c'.conflicts d = c.conflicts d)
    (hlease : c'.leaseLeft ≤ c'.leaseLen) (hnone : ∀ j : LockSlot, ∀ d ∈ (u.entry j).state.waiting?, d.owner ≠ c'.owner) :
    u.KeepsLaws (u.setEntry k ⟨gen, .held c'⟩) := by
  have hself := u.entry_setEntry_self k ⟨gen, .held c'⟩
  have hother : ∀ j, j ≠ k → (u.setEntry k ⟨gen, .held c'⟩).entry j = u.entry j := fun j hj => u.entry_setEntry_other _ hj
  have hwait : ∀ j, ((u.setEntry k ⟨gen, .held c'⟩).entry j).state.waiting? = (u.entry j).state.waiting? := fun j => by
    by_cases hj : j = k
    · rw [hj, hself, EntryState.waiting_of_standing (e := (u.entry k).state) (by rw [hc]; rfl)]
      rfl
    · rw [hother j hj]
  have hstand : ∀ {j d}, ((u.setEntry k ⟨gen, .held c'⟩).entry j).state.standing? = some d →
      ∃ e, (u.entry j).state.standing? = some e ∧ (∀ x, d.conflicts x = e.conflicts x) ∧ (d.owner = e.owner ∨ d.owner = c'.owner) := by
    intro j d hd
    by_cases hj : j = k
    · rw [hj, hself] at hd
      cases hd
      exact ⟨c, hj ▸ hc, hsame, .inr rfl⟩
    · exact ⟨d, hother j hj ▸ hd, fun _ => rfl, .inl rfl⟩
  have hlawful : u.lawful → (u.setEntry k ⟨gen, .held c'⟩).lawful := by
    refine fun ⟨hleases, hstanding, ⟨hnodup, hmem⟩, hone⟩ => ⟨fun j d hd => ?_, fun i j hij d hd e he => ?_,
      ⟨hnodup, fun j => ?_⟩, fun i j d hd e he => ?_⟩
    · by_cases hj : j = k
      · rw [hj, hself] at hd
        cases hd
        exact hlease
      · exact hleases j d (hother j hj ▸ hd)
    · obtain ⟨d', hd', hdd, _⟩ := hstand hd
      obtain ⟨e', he', hee, _⟩ := hstand he
      rw [hdd, Claim.conflicts_comm, hee, Claim.conflicts_comm]
      exact hstanding i j hij d' hd' e' he'
    · rw [hwait]
      exact hmem j
    · rw [hwait] at hd he
      exact hone i j d hd e he
  have hwaits : ∀ a b, (u.setEntry k ⟨gen, .held c'⟩).Waits a b → u.Waits a b ∨ b = c'.owner := by
    rintro a b ⟨hne, i, d, hd, howner, hagainst⟩
    rw [hwait] at hd
    rcases hagainst with ⟨j, e, he, hb, hconf⟩ | ⟨j, e, he, hb, hconf, hlt⟩
    · obtain ⟨e', he', hee, heq | heq⟩ := hstand he
      · exact .inl ⟨hne, i, d, hd, howner, .inl ⟨j, e', he', heq ▸ hb, hee d ▸ hconf⟩⟩
      · exact .inr (hb ▸ heq)
    · rw [hwait] at he
      exact .inl ⟨hne, i, d, hd, howner, .inr ⟨j, e, he, hb, hconf, hlt⟩⟩
  have hsink : ∀ b, ¬(u.setEntry k ⟨gen, .held c'⟩).Waits c'.owner b := by
    rintro b ⟨_, i, d, hd, howner, _⟩
    rw [hwait] at hd
    exact hnone i d hd howner
  refine ⟨hlawful, fun hu hcycle => ?_⟩
  rw [(hlawful hu).oneWait.noCycle_iff]
  rw [hu.oneWait.noCycle_iff] at hcycle
  intro q hq
  have hqz : q ≠ c'.owner := by
    rintro rfl
    obtain ⟨b, hb, _⟩ := Relation.TransGen.head'_iff.mp hq
    exact hsink b hb
  exact hcycle q (transGen_new_sink hwaits hsink hq hqz)

theorem LockUnit.KeepsLaws.reclaim (u : LockUnit) (sup : Port) (h : Handle) :
    u.KeepsLaws (u.reclaim sup h).effect.unit := by
  unfold LockUnit.reclaim
  split
  · exact .refl u
  · exact .refl u
  · exact .refl u
  · exact .refl u
  · next c _ _ hc =>
    split
    · exact .refl u
    · next hwait =>
      refine LockUnit.KeepsLaws.handOver (c := c) _ ?_ (fun _ => rfl) (Nat.le_refl _) ((u.waitingOf_eq_none_iff sup).mp hwait)
      rw [u.state_of_honoured hc]
      rfl

end Sys2Proof.Machine
end

section
/-! SUPPORT. O2 and O56: what every command leaves of the queue of commands, of the packets sent and of the laws of the Lock Table; first
the operations that the commands are made of. -/

namespace Sys2Proof.Machine

/-- A change that leaves the commands waiting, takes back no packet sent (log entry 15), and keeps the laws of the Lock Table. -/
structure Onward (s t : State) : Prop where
  pending : t.pending = s.pending
  sent : ∀ p : Port, s.sentTo p <+: t.sentTo p
  locks : s.locks.KeepsLaws t.locks

/-- A change that leaves the commands waiting and the packets sent, and keeps the laws of the Lock Table. -/
theorem Onward.of_locks {s t : State} (hpending : t.pending = s.pending) (htx : t.tx = s.tx)
    (hlocks : s.locks.KeepsLaws t.locks) : Onward s t := by
  refine ⟨hpending, fun p => ?_, hlocks⟩
  rw [State.sentTo, State.sentTo, htx]

theorem Onward.of_left {s t : State} (hpending : t.pending = s.pending) (htx : t.tx = s.tx) (hlocks : t.locks = s.locks) :
    Onward s t := .of_locks hpending htx (hlocks ▸ .refl _)

theorem Onward.refl (s : State) : Onward s s := .of_left rfl rfl rfl

theorem Onward.trans {s t u : State} (h : Onward s t) (h' : Onward t u) : Onward s u :=
  ⟨h'.pending.trans h.pending, fun p => (h.sent p).trans (h'.sent p), h.locks.trans h'.locks⟩

theorem Onward.ofEngine {s t : State} (h : EngineOnly s t) : Onward s t := by
  obtain ⟨hpending, _, _, _, _, _, _, _, hlocks, _, _, _, _, htx, _⟩ := h.kept
  exact .of_left hpending htx hlocks

theorem Onward.setLink (s : State) (p : Port) (lc : LinkController) : Onward s (s.setLink p lc) := .of_left rfl rfl rfl

theorem Onward.hand (s : State) (l : List Handed) : Onward s (s.hand l) := .of_left rfl rfl rfl

theorem Onward.setQueue (s : State) (p : Port) (q : List NoticeRecord) : Onward s (s.setQueue p q) := .of_left rfl rfl rfl

theorem Onward.setPortDown (s : State) (p : Port) (d : PortDownClaims) : Onward s (s.setPortDown p d) := .of_left rfl rfl rfl

theorem Onward.setSettings (s : State) (t : Settings) : Onward s (s.setSettings t) := .of_left rfl rfl rfl

theorem Onward.setArbiter (s : State) (a : Arbiter) : Onward s (s.setArbiter a) := .of_left rfl rfl rfl

/-- A packet sent joins those sent before it. -/
theorem Onward.send (s : State) (p : Port) (pkt : Packet) : Onward s (s.send p pkt) := by
  refine ⟨rfl, fun q => ?_, .refl _⟩
  by_cases hq : q = p
  · rw [hq, State.send_sentTo_self]
    exact List.prefix_append ..
  · rw [State.send_sentTo_other _ _ hq]

theorem Onward.answer (s : State) (p : Port) (st : Status) (d : Option Half) (w : List Word) :
    Onward s (s.answer p st d w) := by
  rw [State.answer_frame]
  exact .of_left rfl rfl rfl

theorem Onward.lockEffect {s : State} {e : LockEffect} (h : s.locks.KeepsLaws e.unit) : Onward s (s.lockEffect e) :=
  .of_locks rfl rfl h

theorem Onward.foldl {α : Type} {f : State → α → State} (hf : ∀ s a, Onward s (f s a)) (l : List α) (s : State) :
    Onward s (l.foldl f s) := by
  induction l generalizing s with
  | nil => exact .refl s
  | cons a rest ih => exact (hf s a).trans (ih _)

/-! ### A port goes down, and comes up -/

theorem Onward.portDownEvent (s : State) (p : Port) (dest : LinkState) (cause : DownCause) (loss : Loss) :
    Onward s (s.portDownEvent p dest cause loss) := by
  rw [State.portDownEvent_frame]
  exact .of_left rfl rfl rfl

theorem Onward.takeLockPortDown (s : State) (p : Port) : Onward s (s.takeLockPortDown p) := by
  unfold State.takeLockPortDown
  split
  · exact .refl s
  · exact (Onward.lockEffect (LockUnit.Calms.portDown ..).keepsLaws).trans (.setPortDown ..)

theorem Onward.takeArbiterPortDown (s : State) (p : Port) : Onward s (s.takeArbiterPortDown p) := by
  by_cases h : (s.portDown p).arbiter = true
  · rw [State.takeArbiterPortDown_eq h]
    exact .of_left rfl rfl rfl
  · rw [State.takeArbiterPortDown, if_neg h]
    exact .refl s

theorem Onward.takeNoticePortDown (s : State) (p : Port) : Onward s (s.takeNoticePortDown p) := by
  unfold State.takeNoticePortDown
  split
  · exact .refl s
  all_goals exact (Onward.setQueue ..).trans (.setPortDown ..)

theorem Onward.settlePort (s : State) (p : Port) : Onward s (s.settlePort p) :=
  (((Onward.takeLockPortDown s p).trans (.takeArbiterPortDown ..)).trans (.ofEngine (.takeClaims ..))).trans
    (.takeNoticePortDown ..)

theorem Onward.portUpEvent (s : State) (p : Port) : Onward s (s.portUpEvent p) :=
  (((Onward.settlePort s p).trans (.setLink ..)).trans (.hand ..)).trans (.ofEngine (.giveSlots ..))

/-! ### The links -/

theorem Onward.endRequest (s : State) (p : Port) (h : HubSlot) (r : HubRequest) (how : Ending) :
    Onward s (s.endRequest p h r how) := by
  refine Onward.trans (t := (s.setLink p ((s.link p).freeSlotOf h)).claim p (.ending r how)) ?_ (.ofEngine (.giveSlots ..))
  exact .of_left rfl rfl rfl

theorem Onward.linkFails (s : State) (p : Port) (cause : DownCause) : Onward s (s.linkFails p cause) := by
  unfold State.linkFails
  split
  · exact .portDownEvent ..
  · exact .setLink ..
  all_goals exact .refl s

theorem Onward.receiveHello (s : State) (p : Port) : Onward s (s.receiveHello p) := by
  unfold State.receiveHello
  split
  · split
    · exact (Onward.setLink ..).trans (.send ..)
    · exact .refl s
  · exact .send ..
  all_goals exact .refl s

theorem Onward.takeReady (s : State) (p : Port) (n : Nat) : Onward s (s.takeReady p n) := by
  have htaken := Onward.setLink s p { s.link p with slotsAllowed := n, readyTaken := some true }
  unfold State.takeReady
  dsimp only
  split
  · exact htaken.trans (.portUpEvent ..)
  · exact htaken

theorem Onward.receiveReady (s : State) (p : Port) (word : Word) : Onward s (s.receiveReady p word) := by
  unfold State.receiveReady
  split
  · split
    · exact .refl s
    · split
      · exact .setLink ..
      · exact .takeReady ..
  all_goals exact .refl s

theorem Onward.receiveRequest (s : State) (p : Port) (pkt : Packet) : Onward s (s.receiveRequest p pkt) := by
  unfold State.receiveRequest
  split
  · split
    · exact .portDownEvent ..
    · split
      · exact .portDownEvent ..
      · exact .setLink ..
  · exact .setLink ..
  all_goals exact .refl s

theorem Onward.receiveFetchReply (s : State) (p : Port) (tag : Byte) (payload : List Word) :
    Onward s (s.receiveFetchReply p tag payload) := by
  unfold State.receiveFetchReply
  split
  · split
    · exact .endRequest ..
    · exact .refl s
  · exact .setLink ..
  all_goals exact .refl s

theorem Onward.receiveStoreReply (s : State) (p : Port) (tag : Byte) (payload : List Word) :
    Onward s (s.receiveStoreReply p tag payload) := by
  unfold State.receiveStoreReply
  split
  · split
    · exact .endRequest ..
    · exact .refl s
  · exact .setLink ..
  all_goals exact .refl s

theorem Onward.receivePacket (s : State) (p : Port) (pkt : Packet) : Onward s (s.receivePacket p pkt) := by
  unfold State.receivePacket
  split
  · exact .receiveFetchReply ..
  · exact .receiveStoreReply ..
  · exact .receiveHello ..
  · exact .receiveReady ..
  · exact .receiveRequest ..

theorem Onward.sendResponse (s : State) (p : Port) : Onward s (s.sendResponse p) := by
  unfold State.sendResponse
  split
  · exact (Onward.setLink ..).trans (.send ..)
  · exact .refl s

theorem Onward.sendNotice (s : State) (p : Port) : Onward s (s.sendNotice p) := by
  unfold State.sendNotice
  split
  · exact ((Onward.setQueue ..).trans (.setLink ..)).trans (.send ..)
  · exact .refl s

theorem Onward.sendHubRequest (s : State) (p : Port) : Onward s (s.sendHubRequest p) := by
  unfold State.sendHubRequest
  split
  · split
    · exact (Onward.setLink ..).trans (.send ..)
    · exact .refl s
  · exact .refl s

theorem Onward.assertPrst (s : State) (p : Port) : Onward s (s.assertPrst p) := by
  have hpin := Onward.setLink s p { s.link p with prst := true }
  unfold State.assertPrst
  dsimp only
  split
  · exact hpin.trans (.portDownEvent ..)
  · exact hpin.trans (.setLink ..)
  · exact hpin.trans (.setLink ..)
  all_goals exact hpin

theorem Onward.releasePrst (s : State) (p : Port) : Onward s (s.releasePrst p) := by
  have hpin := Onward.setLink s p { s.link p with prst := false }
  unfold State.releasePrst
  dsimp only
  split
  · exact hpin.trans (.setLink ..)
  all_goals exact hpin

theorem Onward.fenceLink (s : State) (q : Port) : Onward s (s.fenceLink q) := by
  unfold State.fenceLink
  split
  · exact .portDownEvent ..
  · exact .setLink ..
  · exact .setLink ..
  · exact .setLink ..
  · exact .refl s

theorem Onward.unfenceLink (s : State) (q : Port) : Onward s (s.unfenceLink q) := by
  unfold State.unfenceLink
  split
  · exact .setLink ..
  all_goals exact .refl s

/-! ### Channel requests and settings -/

theorem Onward.channelStart (s : State) (p : Port) (chan : Byte) (list : Word) (guard : Option Handle) :
    Onward s (s.channelStart p chan list guard) := by
  unfold State.channelStart
  split
  · exact .answer ..
  split
  · exact .answer ..
  split
  · exact .answer ..
  split
  · exact .answer ..
  · exact (Onward.ofEngine (((EngineOnly.setChan ..).trans (.handHub ..)).trans (.giveSlots ..))).trans (.answer ..)

theorem Onward.channelStop (s : State) (p : Port) (chan : Byte) : Onward s (s.channelStop p chan) := by
  unfold State.channelStop
  split
  · exact .answer ..
  split
  · exact .answer ..
  split
  · exact (Onward.ofEngine (.enterAborting ..)).trans (.answer ..)
  split
  · exact .answer ..
  · exact .answer ..

theorem Onward.channelRelease (s : State) (p : Port) (chan : Byte) : Onward s (s.channelRelease p chan) := by
  unfold State.channelRelease
  split
  · exact .answer ..
  split
  · exact .answer ..
  split
  · exact (Onward.ofEngine (.setChan ..)).trans (.answer ..)
  · exact .answer ..

theorem Onward.channelQuery (s : State) (p : Port) (chan : Byte) : Onward s (s.channelQuery p chan) := by
  unfold State.channelQuery
  split
  · exact .answer ..
  · exact .answer ..

theorem Onward.asOneAction {s t : State} (h : Onward s t) : Onward s (s.asOneAction t) := ⟨h.pending, h.sent, h.locks⟩

theorem Onward.writeSupervisor (s : State) (p q : Port) : Onward s (s.writeSupervisor p q) := by
  unfold State.writeSupervisor
  split
  · exact .answer ..
  split
  · exact (Onward.setSettings ..).trans (.answer ..)
  · exact .answer ..

/-! ### Store accesses -/

theorem Onward.presentDirect (s : State) (p : Port) (addr : Word) (len : Option Word) :
    Onward s (s.presentDirect p addr len) := by
  unfold State.presentDirect
  split
  · exact .answer ..
  · exact .setLink ..

theorem Onward.endDiscarded (s : State) (p : Port) : Onward s (s.endDiscarded p) := by
  have hidle := Onward.setLink s p (s.link p).discardService
  unfold State.endDiscarded
  dsimp only
  split
  · exact hidle.trans (.portUpEvent ..)
  · exact hidle

theorem Onward.deliver (s : State) (p : Port) (m : Member) (a : ChannelAccess) (o : AccessOutcome) :
    Onward s (s.deliver p m a o) := by
  cases m with
  | dispatcher =>
    show Onward s (s.deliverDirect p o)
    unfold State.deliverDirect
    split
    · split
      · exact .endDiscarded ..
      · exact .answer ..
    · exact .refl s
  | chan c => exact .of_left rfl rfl rfl

theorem Onward.takeAccess (s : State) (p : Port) (m : Member) : Onward s (s.takeAccess p m) := by
  cases m with
  | dispatcher => exact .setLink ..
  | chan c => exact .of_left rfl rfl rfl

theorem Onward.startAccess (s : State) (p : Port) (m : Member) (a : ChannelAccess) : Onward s (s.startAccess p m a) := by
  have htake := Onward.takeAccess s p m
  unfold State.startAccess
  dsimp only
  split
  · exact htake.trans (.deliver ..)
  · exact htake.trans (.setArbiter ..)

theorem Onward.grantPort (s : State) (p : Port) (isPriority : Bool) : Onward s (s.grantPort p isPriority) := by
  unfold State.grantPort
  split
  · split
    · exact (Onward.setArbiter ..).trans (.startAccess ..)
    · exact .refl s
  · exact .refl s

theorem Onward.grantNext (s : State) : Onward s s.grantNext := by
  unfold State.grantNext
  split
  · exact .grantPort ..
  split
  · exact .grantPort ..
  · exact .refl s

theorem Onward.finishAccess (s : State) (g : Granted) : Onward s (s.finishAccess g) := by
  have hcarried : Onward s (s.carriedOut g) := by
    rw [State.carriedOut_frame]
    exact .of_left rfl rfl rfl
  exact hcarried.trans (.deliver ..)

/-! ### The Lock Unit and the Notice Unit -/

theorem Onward.lockAnswer {s : State} {a : LockAnswer} (h : s.locks.KeepsLaws a.effect.unit) (p : Port) :
    Onward s (s.lockAnswer p a) := (Onward.lockEffect h).trans (.answer ..)

theorem Onward.expire {s : State} {o : Option LockEffect} (h : ∀ e ∈ o, s.locks.Calms e.unit) : Onward s (s.expire o) := by
  cases o with
  | none => exact .refl s
  | some e => exact .lockEffect (h e rfl).keepsLaws

theorem Onward.takeEvent (s : State) (p : Port) (e : NoticeEvent) : Onward s (s.takeEvent p e) := by
  unfold State.takeEvent
  split
  · exact .setQueue ..
  · exact .refl s

/-! ### Reset -/

theorem Onward.coldReset (s : State) : Onward s s.coldReset := .of_locks rfl rfl (LockUnit.Calms.coldReset _).keepsLaws

theorem Onward.warmReset (s : State) : Onward s s.warmReset := .of_locks rfl rfl (LockUnit.Calms.warmReset _).keepsLaws

end Sys2Proof.Machine
end

section
/-! SUPPORT. O2 and O56: every command gives a next state, and what it leaves. -/

namespace Sys2Proof.Machine

/-- An outcome that is a next state with the property. -/
def Gives (P : State → Prop) (o : Host.Outcome State Fault Refusal) : Prop := ∃ t, o = .next t ∧ P t

theorem Gives.next {P : State → Prop} {t : State} (h : P t) : Gives P (.next t) := ⟨t, rfl, h⟩

theorem Gives.ite {P : State → Prop} {test : Prop} [Decidable test] {o o' : Host.Outcome State Fault Refusal} (h : Gives P o)
    (h' : Gives P o') : Gives P (if test then o else o') := by
  split
  · exact h
  · exact h'

/-! ### The requests of the dispatchers -/

theorem execRead_onward (s : State) (p : Port) : Gives (Onward s) (execRead p s) := by
  unfold execRead
  split
  · exact .next (.presentDirect ..)
  · exact .next (.refl s)

theorem execWrite_onward (s : State) (p : Port) : Gives (Onward s) (execWrite p s) := by
  unfold execWrite
  split
  · exact .next (.presentDirect ..)
  · exact .next (.refl s)

theorem execFetchAdd_onward (s : State) (p : Port) : Gives (Onward s) (execFetchAdd p s) := by
  unfold execFetchAdd
  split
  · exact .next (.presentDirect ..)
  · exact .next (.refl s)

theorem execSwap_onward (s : State) (p : Port) : Gives (Onward s) (execSwap p s) := by
  unfold execSwap
  split
  · exact .next (.presentDirect ..)
  · exact .next (.refl s)

theorem execCompareSwap_onward (s : State) (p : Port) : Gives (Onward s) (execCompareSwap p s) := by
  unfold execCompareSwap
  split
  · exact .next (.presentDirect ..)
  · exact .next (.refl s)

theorem execLock_onward (s : State) (p : Port) : Gives (Onward s) (execLock p s) := by
  unfold execLock
  split
  · exact .next (.lockAnswer (.lock _ rfl (Nat.le_refl _) ..) p)
  · exact .next (.refl s)

theorem execUnlock_onward (s : State) (p : Port) : Gives (Onward s) (execUnlock p s) := by
  unfold execUnlock
  split
  · exact .next (.lockAnswer (LockUnit.Calms.unlock ..).keepsLaws p)
  · exact .next (.refl s)

theorem execRenew_onward (s : State) (p : Port) : Gives (Onward s) (execRenew p s) := by
  unfold execRenew
  split
  · exact .next (.lockAnswer (LockUnit.Calms.renew ..).keepsLaws p)
  · exact .next (.refl s)

theorem execAdopt_onward (s : State) (p : Port) : Gives (Onward s) (execAdopt p s) := by
  unfold execAdopt
  split
  · exact .next (.lockAnswer (LockUnit.Calms.adopt ..).keepsLaws p)
  · exact .next (.refl s)

theorem execReclaim_onward (s : State) (p : Port) : Gives (Onward s) (execReclaim p s) := by
  unfold execReclaim
  split
  · exact .ite (.next (.lockAnswer (.reclaim ..) p)) (.next (.answer ..))
  · exact .next (.refl s)

theorem execForceRelease_onward (s : State) (p : Port) : Gives (Onward s) (execForceRelease p s) := by
  unfold execForceRelease
  split
  · exact .ite (.next (.lockAnswer (LockUnit.Calms.forceRelease ..).keepsLaws p)) (.next (.answer ..))
  · exact .next (.refl s)

theorem execLockQuery_onward (s : State) (p : Port) : Gives (Onward s) (execLockQuery p s) := by
  unfold execLockQuery
  split
  · exact .next (.answer ..)
  · exact .next (.refl s)

theorem execChannelStart_onward (s : State) (p : Port) : Gives (Onward s) (execChannelStart p s) := by
  unfold execChannelStart
  split
  · exact .next (.channelStart ..)
  · exact .next (.refl s)

theorem execChannelStop_onward (s : State) (p : Port) : Gives (Onward s) (execChannelStop p s) := by
  unfold execChannelStop
  split
  · exact .next (Onward.channelStop ..).asOneAction
  · exact .next (.refl s)

theorem execChannelRelease_onward (s : State) (p : Port) : Gives (Onward s) (execChannelRelease p s) := by
  unfold execChannelRelease
  split
  · exact .next (.channelRelease ..)
  · exact .next (.refl s)

theorem execChannelQuery_onward (s : State) (p : Port) : Gives (Onward s) (execChannelQuery p s) := by
  unfold execChannelQuery
  split
  · exact .next (.channelQuery ..)
  · exact .next (.refl s)

theorem execNoticeAck_onward (s : State) (p : Port) : Gives (Onward s) (execNoticeAck p s) := by
  unfold execNoticeAck
  split
  · split
    · exact .next ((Onward.setQueue ..).trans (.answer ..))
    · exact .next (.answer ..)
  · exact .next (.refl s)

theorem execConfigRead_onward (s : State) (p : Port) : Gives (Onward s) (execConfigRead p s) := by
  unfold execConfigRead
  split
  · split
    · exact .next (.answer ..)
    · exact .next (.answer ..)
  · exact .next (.refl s)

theorem execConfigWrite_onward (s : State) (p : Port) : Gives (Onward s) (execConfigWrite p s) := by
  unfold execConfigWrite
  split
  · refine .ite (.next (.refl s)) ?_
    split
    · exact .next (.answer ..)
    · exact .next ((Onward.setSettings ..).trans (.answer ..))
  · exact .next (.refl s)

theorem execConfigWriteSupervisor_onward (s : State) (p : Port) : Gives (Onward s) (execConfigWriteSupervisor p s) := by
  unfold execConfigWriteSupervisor
  split
  · refine .ite ?_ (.next (.refl s))
    split
    · exact .next (.answer ..)
    · exact .next (.writeSupervisor ..)
  · exact .next (.refl s)

theorem execConfigWriteTimebase_onward (s : State) (p : Port) : Gives (Onward s) (execConfigWriteTimebase p s) := by
  unfold execConfigWriteTimebase
  split
  · refine .ite ?_ (.next (.refl s))
    split
    · exact .next (.answer ..)
    · exact .next ((Onward.setSettings ..).trans (.answer ..))
  · exact .next (.refl s)

theorem execFence_onward (s : State) (p : Port) : Gives (Onward s) (execFence p s) := by
  unfold execFence
  split
  · exact .ite (.next (.answer ..)) (.ite (.next (.answer ..)) (.next ((Onward.fenceLink ..).trans (.answer ..))))
  · exact .next (.refl s)

theorem execUnfence_onward (s : State) (p : Port) : Gives (Onward s) (execUnfence p s) := by
  unfold execUnfence
  split
  · exact .ite (.next (.answer ..)) (.next ((Onward.unfenceLink ..).trans (.answer ..)))
  · exact .next (.refl s)

/-! ### The claims between blocks, and time -/

theorem execArbiterGrant_onward (s : State) : Gives (Onward s) (execArbiterGrant s) := by
  unfold execArbiterGrant
  split
  · exact .next (.refl s)
  · exact .next (.grantNext s)

theorem execAccessComplete_onward (s : State) : Gives (Onward s) (execAccessComplete s) := by
  unfold execAccessComplete
  split
  · exact .next (.finishAccess ..)
  · exact .next (.refl s)

theorem execLeaseRestartReport_onward (s : State) : Gives (Onward s) (execLeaseRestartReport s) := by
  unfold execLeaseRestartReport
  split
  · exact .next (.of_locks rfl rfl (LockUnit.Calms.restartLeases ..).keepsLaws)
  · exact .next (.refl s)

theorem execChannelAccessOutcome_onward (s : State) (c : Channel) : Gives (Onward s) (execChannelAccessOutcome c s) := by
  unfold execChannelAccessOutcome
  split
  · exact .next (.ofEngine (((EngineOnly.setOutcome ..).trans (.takeOutcome ..)).trans (.giveOwnerSlots ..)).asOneAction)
  · exact .next (.refl s)

theorem execReleaseAnnouncement_onward (s : State) : Gives (Onward s) (execReleaseAnnouncement s) := by
  unfold execReleaseAnnouncement
  split
  · next r rest _ =>
    have htaken : Onward s { s with announcements := rest } := .of_left rfl rfl rfl
    exact .next (htaken.trans (.ofEngine (.foldl (fun t c => .retryStalled t r c) ..)))
  · exact .next (.refl s)

theorem execStallExpiry_onward (s : State) (c : Channel) : Gives (Onward s) (execStallExpiry c s) := by
  unfold execStallExpiry
  split
  · exact .ite (.next (Onward.ofEngine (.faultRun ..)).asOneAction) (.next (.refl s))
  · exact .next (.refl s)

theorem execNoticeEvent_onward (s : State) (k : Nat) : Gives (Onward s) (execNoticeEvent k s) := by
  unfold execNoticeEvent
  split
  · next rest _ =>
    have htaken : Onward s { s with events := dropEvent k rest s.events } := .of_left rfl rfl rfl
    exact .next (htaken.trans (.takeEvent ..))
  · exact .next (.refl s)
  · exact .next (.refl s)

theorem execSlotTimeout_onward (s : State) (p : Port) (h : HubSlot) : Gives (Onward s) (execSlotTimeout p h s) := by
  unfold execSlotTimeout
  split
  · exact .next (.endRequest ..)
  · exact .next (.refl s)

theorem execTimebaseBoundary_onward (s : State) : Gives (Onward s) (execTimebaseBoundary s) := by
  unfold execTimebaseBoundary
  split
  · exact .next (.of_locks rfl rfl (LockUnit.Calms.tick _).keepsLaws)
  all_goals exact .next (.refl s)

/-! ### Reset sequencing -/

theorem execPwrokRise_onward (s : State) : Gives (Onward s) (execPwrokRise s) := by
  unfold execPwrokRise
  split
  · exact .next (.of_left rfl rfl rfl)
  all_goals exact .next (.refl s)

theorem execInitComplete_onward (s : State) : Gives (Onward s) (execInitComplete s) := by
  unfold execInitComplete
  split
  · exact .next (.of_left rfl rfl rfl)
  · exact .next (.of_left rfl rfl rfl)
  all_goals exact .next (.refl s)

theorem execHrstAssert_onward (s : State) : Gives (Onward s) (execHrstAssert s) := by
  unfold execHrstAssert
  split
  · exact .next ((Onward.warmReset s).trans (.of_left rfl rfl rfl))
  · exact .next (.warmReset s)
  all_goals exact .next (.of_left rfl rfl rfl)

theorem execHrstRelease_onward (s : State) : Gives (Onward s) (execHrstRelease s) := by
  unfold execHrstRelease
  split <;> exact .next (.of_left rfl rfl rfl)

theorem execSupselChange_onward (s : State) (straps : Port) : Gives (Onward s) (execSupselChange straps s) := by
  unfold execSupselChange
  split <;> exact .next (.of_left rfl rfl rfl)

/-! ### Every command -/

/-- Every command gives a next state, leaves the commands behind it waiting, takes back nothing sent and keeps the laws of the Lock
Table. -/
theorem exec_onward (c : Instr) (s : State) : Gives (Onward s) (exec c s) := by
  have hclaim : ∀ p, Onward s (s.takeClaim p) := fun p => .ofEngine (.takeClaim ..)
  cases c with
  | pwrokFall => exact .next (.coldReset s)
  | pwrokRise => exact execPwrokRise_onward s
  | initComplete => exact execInitComplete_onward s
  | hrstAssert => exact execHrstAssert_onward s
  | hrstRelease => exact execHrstRelease_onward s
  | supselChange straps => exact execSupselChange_onward s straps
  | prstnAssert p => exact .next (.assertPrst s p)
  | prstnRelease p => exact .next (.releasePrst s p)
  | bitDisturbance w d => exact .next (.of_left rfl rfl rfl)
  | timebaseBoundary => exact execTimebaseBoundary_onward s
  | leaseExpiry k => exact .next (.expire fun _ he => .leaseExpiry he)
  | waitExpiry k => exact .next (.expire fun _ he => .waitExpiry he)
  | orphanExpiry k => exact .next (.expire fun _ he => .orphanExpiry he)
  | stallExpiry c => exact execStallExpiry_onward s c
  | trainWindowExpiry p => exact .ite (.next (.setLink ..)) (.next (.refl s))
  | slotTimeout p h => exact execSlotTimeout_onward s p h
  | hello p => exact .next (.receiveHello s p)
  | ready p word => exact .next (.receiveReady s p word)
  | lossOfSignal p => exact .next (.linkFails ..)
  | badCheckPacket p => exact .next (.linkFails ..)
  | requestReceived p pkt => exact .next (.receivePacket s p pkt)
  | fetchReply p tag payload => exact .next (.receiveFetchReply s p tag payload)
  | storeReply p tag payload => exact .next (.receiveStoreReply s p tag payload)
  | responseSent p => exact .ite (.next (.sendResponse s p)) (.next (.refl s))
  | noticeSent p => exact .ite (.next (.sendNotice s p)) (.next (.refl s))
  | hubRequestSent p => exact .ite (.next (.sendHubRequest s p)) (.next (.refl s))
  | read p => exact execRead_onward s p
  | write p => exact execWrite_onward s p
  | fetchAdd p => exact execFetchAdd_onward s p
  | swap p => exact execSwap_onward s p
  | compareSwap p => exact execCompareSwap_onward s p
  | arbiterGrant => exact execArbiterGrant_onward s
  | accessComplete => exact execAccessComplete_onward s
  | leaseRestartReport => exact execLeaseRestartReport_onward s
  | lock p => exact execLock_onward s p
  | unlock p => exact execUnlock_onward s p
  | renew p => exact execRenew_onward s p
  | adopt p => exact execAdopt_onward s p
  | reclaim p => exact execReclaim_onward s p
  | forceRelease p => exact execForceRelease_onward s p
  | lockQuery p => exact execLockQuery_onward s p
  | lockPortDown p => exact .next (.takeLockPortDown s p)
  | arbiterPortDown p => exact .next (.takeArbiterPortDown s p)
  | channelStart p => exact execChannelStart_onward s p
  | channelStop p => exact execChannelStop_onward s p
  | channelRelease p => exact execChannelRelease_onward s p
  | channelQuery p => exact execChannelQuery_onward s p
  | descriptorReply p => exact .ite (.next (hclaim p)) (.next (.refl s))
  | lookaheadReply p => exact .ite (.next (hclaim p)) (.next (.refl s))
  | chunkFetchReply p => exact .ite (.next (hclaim p)) (.next (.refl s))
  | chunkStoreReply p => exact .ite (.next (hclaim p)) (.next (.refl s))
  | channelHubTimeout p => exact .ite (.next (hclaim p)) (.next (.refl s))
  | hubRequestDrop p => exact .ite (.next (hclaim p)) (.next (.refl s))
  | channelAccessOutcome c => exact execChannelAccessOutcome_onward s c
  | releaseAnnouncement => exact execReleaseAnnouncement_onward s
  | channelPortDown p => exact .ite (.next (hclaim p)) (.next (.refl s))
  | noticeEvent k => exact execNoticeEvent_onward s k
  | noticeAck p => exact execNoticeAck_onward s p
  | noticeRewind p => exact .ite (.next (.takeNoticePortDown s p)) (.next (.refl s))
  | noticeQueueEmpty p => exact .ite (.next (.takeNoticePortDown s p)) (.next (.refl s))
  | configRead p => exact execConfigRead_onward s p
  | configWrite p => exact execConfigWrite_onward s p
  | configWriteSupervisor p => exact execConfigWriteSupervisor_onward s p
  | configWriteTimebase p => exact execConfigWriteTimebase_onward s p
  | fence p => exact execFence_onward s p
  | unfence p => exact execUnfence_onward s p

/-! ### O2 and O56 -/

/-- Settles O2, command by command. -/
theorem everyCommandGivesANextState : Obligations.EveryCommandGivesANextState := by
  intro c s
  obtain ⟨t, ht, honward⟩ := exec_onward c s
  exact ⟨t, ht, honward.pending, honward.sent⟩

/-- The one next state of a command keeps the laws of the Lock Table. -/
theorem exec_keepsLaws {c : Instr} {s t : State} (ht : exec c s = .next t) : s.locks.KeepsLaws t.locks := by
  obtain ⟨u, hu, honward⟩ := exec_onward c s
  cases hu.symm.trans ht
  exact honward.locks

/-- Settles O56: each command keeps laws 1, 2 and 6 and the waiting order, and on a table that meets them law 4, carried to the step. -/
theorem everyStepKeepsTheLockLaws : Obligations.EveryStepKeepsTheLockLaws := by
  refine ⟨fun s t hs => ?_, fun s t hs hcycle hstep => ?_⟩
  · exact step_keeps (P := fun s => s.locks.lawful) (fun _ _ hs _ ht => (exec_keepsLaws ht).lawful hs) (fun _ => id)
      (fun _ _ => id) hs
  · exact (step_keeps (P := fun s => s.locks.lawful ∧ s.locks.noCycle)
      (fun _ _ ⟨hs, hc⟩ _ ht => ⟨(exec_keepsLaws ht).lawful hs, (exec_keepsLaws ht).noCycle hs hc⟩) (fun _ => id)
      (fun _ _ => id) ⟨hs, hcycle⟩ hstep).2

end Sys2Proof.Machine
end

section
/-! SUPPORT. O11, O12, O30, O33 and O34: the expiries, the lease restart report, UNLOCK and RENEW. -/

namespace Sys2Proof.Machine

/-! ### What a claim of the Lock Unit hands on and answers -/

/-- The events of one claim, when it handed some, are one list behind those waiting (R137). -/
theorem joined_cons (events : List (List Handed)) (e : Handed) (l : List Handed) :
    joined events (e :: l) = events ++ [e :: l] := if_neg (List.cons_ne_nil e l)

@[simp] theorem joined_nil (events : List (List Handed)) : joined events [] = events := if_pos rfl

theorem State.lockEffect_events (s : State) (e : LockEffect) : (s.lockEffect e).events = joined s.events e.events := rfl

@[simp] theorem State.lockAnswer_locks (s : State) (p : Port) (a : LockAnswer) : (s.lockAnswer p a).locks = a.effect.unit := by
  rw [State.lockAnswer, State.answer_frame]
  rfl

@[simp] theorem State.lockAnswer_events (s : State) (p : Port) (a : LockAnswer) :
    (s.lockAnswer p a).events = joined s.events a.effect.events := by
  rw [State.lockAnswer, State.answer_frame]
  rfl

@[simp] theorem State.lockAnswer_announcements (s : State) (p : Port) (a : LockAnswer) :
    (s.lockAnswer p a).announcements = s.announcements ++ a.effect.released := by
  rw [State.lockAnswer, State.answer_frame]
  rfl

/-- The answer to a request that the Lock Unit has taken. -/
theorem State.lockAnswer_lockAnswered {s : State} {p : Port} {req : Request} (h : s.request p = some req) (a : LockAnswer) :
    LockAnswered s (s.lockAnswer p a) p a.status a.detail := by
  obtain ⟨sv, hsv, _⟩ := State.request_eq_some h
  refine ⟨State.answer_answeredAs (u := s.lockEffect a.effect) hsv rfl .., State.answer_dispatcherOnly (fun _ => rfl) .., ?_⟩
  rw [State.lockAnswer, State.answer_frame]
  rfl

/-- A refusal changes nothing but the dispatcher. -/
theorem State.lockAnswer_unchanged {s : State} {p : Port} {req : Request} (h : s.request p = some req) (st : Status)
    (d : Option Half) : AnsweredOnly s (s.lockAnswer p (s.locks.unchanged st d)) p st d [] := by
  obtain ⟨sv, hsv, _⟩ := State.request_eq_some h
  have heq : s.lockAnswer p (s.locks.unchanged st d) = s.answer p st d [] := by
    rw [State.lockAnswer, LockUnit.unchanged, State.lockEffect_nothing]
  rw [heq]
  exact State.answer_answeredOnly hsv st d []

/-- A command of the Lock Unit that the unit refuses. -/
theorem exec_lockRefused {s : State} {p : Port} {req : Request} {c : Instr} {a : LockAnswer} {st : Status} {d : Option Half}
    (hreq : s.request p = some req) (hexec : exec c s = .next (s.lockAnswer p a)) (ha : a = s.locks.unchanged st d) :
    ∃ t, exec c s = .next t ∧ AnsweredOnly s t p st d [] :=
  ⟨_, hexec, ha ▸ State.lockAnswer_unchanged hreq st d⟩

/-- A slot released stands in the waiting order no more, after the sweep either (R31). -/
theorem LockUnit.not_mem_order_release_sweep (u : LockUnit) (k : LockSlot) : k ∉ (u.release k).sweep.1.order := fun h => by
  have hk := (u.release k).order_sweep_sublist.subset h
  simp at hk

/-! ### O11 and O12 -/

/-- A lease that is absent or has not run out does not expire (R41, R43). -/
theorem exec_leaseExpiry_of_not_due {s : State} {k : LockSlot}
    (h : ∀ c, (s.locks.entry k).state = .held c → c.leaseLen = 0 ∨ c.leaseLeft ≠ 0) : exec (.leaseExpiry k) s = .next s := by
  have hnone : s.locks.leaseExpiry k = none := by
    unfold LockUnit.leaseExpiry
    split
    · next c hc => exact if_neg fun ⟨hlen, hleft⟩ => (h c hc).elim hlen fun hne => hne hleft
    · rfl
  show Host.Outcome.next (s.expire (s.locks.leaseExpiry k)) = _
  rw [hnone]
  rfl

/-- Settles O11: the effect of the expiry is a release with its sweep. -/
theorem leaseExpiryReleasesTheEntry : Obligations.LeaseExpiryReleasesTheEntry := by
  refine ⟨fun s k c hheld hlen hleft => ?_, fun s k => exec_leaseExpiry_of_not_due⟩
  have heffect : s.locks.leaseExpiry k
      = some (s.locks.releaseAndSweep k [(c.owner, .lockBroken (s.locks.handleAt k) .lease)] [c.range]) := by
    simp [LockUnit.leaseExpiry, hheld, hlen, hleft]
  have hfree := s.locks.entry_release_sweep k
  refine ⟨_, rfl, ?_⟩
  rw [heffect]
  exact ⟨rfl, hfree, (LockUnit.honoured_eq_none ..).mpr (.inr (congrArg LockEntry.state hfree)), rfl, joined_cons ..⟩

/-- Settles O12: the effect of each expiry is a release with its sweep. -/
theorem waitAndOrphanExpiryEndTheEntry : Obligations.WaitAndOrphanExpiryEndTheEntry := by
  refine ⟨fun s k c hwaiting => ?_, fun s k c ad horphan => ?_⟩
  · have heffect : s.locks.waitExpiry k
        = some (s.locks.releaseAndSweep k [(c.owner, .lockWaitEnded (s.locks.handleAt k) .waitLimit)] []) := by
      simp [LockUnit.waitExpiry, hwaiting]
    refine ⟨_, rfl, ?_⟩
    rw [heffect]
    refine ⟨?_, s.locks.entry_release_sweep k, s.locks.not_mem_order_release_sweep k, rfl, joined_cons ..⟩
    rw [State.expire, State.lockEffect_eq, LockUnit.releaseAndSweep_released, List.append_nil]
  · have heffect : s.locks.orphanExpiry s.supervisor k
        = some (s.locks.releaseAndSweep k [(c.owner, .lockBroken (s.locks.handleAt k) .orphanExpired),
          (s.supervisor, .lockOrphanReleased (s.locks.handleAt k) c.owner .orphanExpired)] [c.range]) := by
      simp [LockUnit.orphanExpiry, horphan]
    refine ⟨_, rfl, ?_⟩
    rw [heffect]
    exact ⟨rfl, s.locks.entry_release_sweep k, rfl, joined_cons ..⟩

/-! ### O30 -/

/-- The lease of a leased HELD entry starts again (R42). -/
def EntryState.restart : EntryState → EntryState
  | .held c => if c.leaseLen = 0 then .held c else .held c.fullLease
  | .free => .free
  | .waiting c n => .waiting c n
  | .orphaned c n ad => .orphaned c n ad

theorem EntryState.restart_restart (e : EntryState) : e.restart.restart = e.restart := by
  cases e with
  | held c =>
    by_cases h : c.leaseLen = 0
    · simp [EntryState.restart, h]
    · simp [EntryState.restart, h, Claim.fullLease]
  | free => rfl
  | waiting c n => rfl
  | orphaned c n ad => rfl

@[simp] theorem LockUnit.order_restartLease (u : LockUnit) (h : Handle) : (u.restartLease h).order = u.order := by
  unfold LockUnit.restartLease
  split
  · split <;> rfl
  · rfl

/-- A name in a report restarts the lease of the entry that it names, and of no other. -/
theorem LockUnit.entry_restartLease (u : LockUnit) (h : Handle) (k : LockSlot) :
    (u.restartLease h).entry k
      = if u.handleAt k = h then ⟨(u.entry k).gen, (u.entry k).state.restart⟩ else u.entry k := by
  have hother : ∀ {e : EntryState}, k ≠ h.slot → (u.place h.slot e).entry k = u.entry k := fun hk => u.entry_setEntry_other _ hk
  by_cases hname : u.handleAt k = h
  · subst hname
    rw [if_pos rfl, LockUnit.restartLease]
    have hhon : ∀ {e}, (u.entry k).state = e → e ≠ .free → u.honoured (u.handleAt k) = some e := fun he hf =>
      (u.honoured_eq_some ..).mpr ⟨by rw [← he]; rfl, hf⟩
    have hslot : (u.handleAt k).slot = k := rfl
    cases he : (u.entry k).state with
    | free =>
      rw [(u.honoured_eq_none ..).mpr (.inr he)]
      exact congrArg (LockEntry.mk _) he
    | waiting c n =>
      rw [hhon he nofun]
      exact congrArg (LockEntry.mk _) he
    | orphaned c n ad =>
      rw [hhon he nofun]
      exact congrArg (LockEntry.mk _) he
    | held c =>
      rw [hhon he nofun]
      by_cases hlen : c.leaseLen = 0
      · simp only [hlen, if_pos, EntryState.restart]
        exact congrArg (LockEntry.mk _) he
      · simp only [hlen, if_false, EntryState.restart, hslot, u.place_eq, u.entry_setEntry_self]
  · rw [if_neg hname, LockUnit.restartLease]
    split
    · next c hc =>
      have hk : k ≠ h.slot := by
        rintro rfl
        obtain ⟨hentry, _⟩ := (u.honoured_eq_some h _).mp hc
        exact hname (by rw [LockUnit.handleAt, hentry])
      split
      · rfl
      · exact hother hk
    · rfl

/-- A report restarts the leases of the entries that it names, as often as it names them (R42). -/
theorem LockUnit.entry_restartLeases (u : LockUnit) (names : List Handle) (k : LockSlot) :
    (u.restartLeases names).entry k
      = if u.handleAt k ∈ names then ⟨(u.entry k).gen, (u.entry k).state.restart⟩ else u.entry k := by
  induction names generalizing u with
  | nil => rfl
  | cons h rest ih =>
    have hhandle : (u.restartLease h).handleAt k = u.handleAt k := by
      rw [LockUnit.handleAt, u.entry_restartLease]
      split <;> rfl
    have hstep : (u.restartLeases (h :: rest)).entry k = ((u.restartLease h).restartLeases rest).entry k := rfl
    rw [hstep, ih, hhandle, u.entry_restartLease]
    by_cases hname : u.handleAt k = h <;> by_cases hrest : u.handleAt k ∈ rest <;>
      simp [hname, hrest, EntryState.restart_restart]

theorem LockUnit.order_restartLeases (u : LockUnit) (names : List Handle) : (u.restartLeases names).order = u.order := by
  induction names generalizing u with
  | nil => rfl
  | cons h rest ih => exact (ih (u.restartLease h)).trans (u.order_restartLease h)

/-- Settles O30: the report entry by entry. -/
theorem reportRestartsLeases : Obligations.ReportRestartsLeases := by
  intro s names rest hreports
  have hexec : exec .leaseRestartReport s = .next { s with reports := rest, locks := s.locks.restartLeases names } := by
    show execLeaseRestartReport s = _
    rw [execLeaseRestartReport, hreports]
  refine ⟨_, hexec, rfl, s.locks.order_restartLeases names, fun k => ?_⟩
  dsimp only
  rw [s.locks.entry_restartLeases]
  refine ⟨?_, fun c hc hname hlen => ?_, fun hskip => ?_⟩
  · split <;> rfl
  · rw [if_pos (by exact hname), hc]
    exact if_neg hlen
  · split
    · next hname =>
      rcases hskip with hskip | hskip
      · exact absurd hname hskip
      · cases he : (s.locks.entry k).state with
        | held c => exact if_pos (hskip c (by rw [he]; rfl))
        | free => rfl
        | waiting c n => rfl
        | orphaned c n ad => rfl
    · rfl

/-! ### O33 and O34 -/

/-- An entry outside FREE with its handle's generation is honoured. -/
theorem LockUnit.honoured_of_entry {u : LockUnit} {h : Handle} {e : EntryState} (he : u.entry h.slot = ⟨h.gen, e⟩)
    (hf : e ≠ .free) : u.honoured h = some e := (u.honoured_eq_some h e).mpr ⟨he, hf⟩

theorem exec_unlock {s : State} {p : Port} {h : Handle} (hreq : s.request p = some (.unlock h)) :
    exec (.unlock p) s = .next (s.lockAnswer p (s.locks.unlock p h)) := by
  show execUnlock p s = _
  rw [execUnlock, hreq]

theorem exec_renew {s : State} {p : Port} {h : Handle} {lease : Nat} (hreq : s.request p = some (.renew h lease)) :
    exec (.renew p) s = .next (s.lockAnswer p (s.locks.renew p h lease)) := by
  show execRenew p s = _
  rw [execRenew, hreq]

/-- A handle that names an entry which the port does not own as HELD or WAITING: an orphan, or another port's (R38, R39). -/
theorem LockUnit.honoured_of_not_owned {u : LockUnit} {p : Port} {h : Handle} {c : Claim}
    (hgen : (u.entry h.slot).gen = h.gen) (hc : (u.entry h.slot).state.claim? = some c)
    (hnot : c.owner ≠ p ∨ ∃ n a, (u.entry h.slot).state = .orphaned c n a) :
    (∃ n a, u.honoured h = some (.orphaned c n a))
      ∨ c.owner ≠ p ∧ (u.honoured h = some (.held c) ∨ ∃ n, u.honoured h = some (.waiting c n)) := by
  have hhon : ∀ {e}, (u.entry h.slot).state = e → e ≠ .free → u.honoured h = some e := fun he hf =>
    LockUnit.honoured_of_entry (by rw [← hgen, ← he]) hf
  cases he : (u.entry h.slot).state with
  | free =>
    rw [he] at hc
    cases hc
  | orphaned d n a =>
    rw [he] at hc
    cases hc
    exact .inl ⟨n, a, hhon he nofun⟩
  | waiting d n =>
    rw [he] at hc hnot
    cases hc
    exact .inr ⟨hnot.resolve_right nofun, .inr ⟨n, hhon he nofun⟩⟩
  | held d =>
    rw [he] at hc hnot
    cases hc
    exact .inr ⟨hnot.resolve_right nofun, .inl (hhon he nofun)⟩

/-- Settles O33, row by row of Table 2.4. -/
theorem unlockReleases : Obligations.UnlockReleases := by
  intro s p h hreq
  have hexec := exec_unlock hreq
  refine ⟨fun c hc howner => ?_, fun c n hc howner => ?_, fun hstale => exec_lockRefused hreq hexec ?_,
    fun c hgen hc hnot => exec_lockRefused hreq hexec ?_⟩
  · have hrow : s.locks.unlock p h = ⟨s.locks.releaseAndSweep h.slot [] [c.range], .ok, none⟩ := by
      simp [LockUnit.unlock, LockUnit.honoured_of_entry hc, howner]
    have hfree := s.locks.entry_release_sweep h.slot
    rw [hc] at hfree
    rw [hrow] at hexec
    refine ⟨_, hexec, State.lockAnswer_lockAnswered hreq _, ?_⟩
    simp [hfree, Claim.range]
  · have hrow : s.locks.unlock p h = ⟨s.locks.releaseAndSweep h.slot [] [], .ok, none⟩ := by
      simp [LockUnit.unlock, LockUnit.honoured_of_entry hc, howner]
    have hfree := s.locks.entry_release_sweep h.slot
    rw [hc] at hfree
    rw [hrow] at hexec
    refine ⟨_, hexec, State.lockAnswer_lockAnswered hreq _, ?_⟩
    simp [hfree, s.locks.not_mem_order_release_sweep h.slot]
  · rw [LockUnit.unlock, (LockUnit.honoured_eq_none ..).mpr hstale]
  · rcases LockUnit.honoured_of_not_owned hgen hc hnot with ⟨n, a, hhon⟩ | ⟨hother, hhon | ⟨n, hhon⟩⟩
    · rw [LockUnit.unlock, hhon]
    · simp [LockUnit.unlock, hhon, hother]
    · simp [LockUnit.unlock, hhon, hother]

/-- Settles O34, row by row of Table 2.5. -/
theorem renewSetsTheLease : Obligations.RenewSetsTheLease := by
  intro s p h lease hreq
  have hexec := exec_renew hreq
  refine ⟨fun c hc howner => ?_, fun c n hc howner => exec_lockRefused hreq hexec ?_,
    fun hstale => exec_lockRefused hreq hexec ?_,
    fun c hgen hc hnot => exec_lockRefused hreq hexec ?_⟩
  · have hrow : s.locks.renew p h lease
        = ⟨⟨s.locks.setEntry h.slot ⟨h.gen, .held { c with leaseLen := lease, leaseLeft := lease }⟩, [], []⟩, .ok, none⟩ := by
      simp [LockUnit.renew, LockUnit.honoured_of_entry hc, howner, LockUnit.place_eq, hc]
    rw [hrow] at hexec
    refine ⟨_, hexec, State.lockAnswer_lockAnswered hreq _, by simp, by simp, by simp, fun hzero => exec_leaseExpiry_of_not_due fun d hd => ?_⟩
    rw [State.lockAnswer_locks, LockUnit.entry_setEntry_self] at hd
    cases hd
    exact .inl hzero
  · simp [LockUnit.renew, LockUnit.honoured_of_entry hc, howner]
  · rw [LockUnit.renew, (LockUnit.honoured_eq_none ..).mpr hstale]
  · rcases LockUnit.honoured_of_not_owned hgen hc hnot with ⟨n, a, hhon⟩ | ⟨hother, hhon | ⟨n, hhon⟩⟩
    · rw [LockUnit.renew, hhon]
    · simp [LockUnit.renew, hhon, hother]
    · simp [LockUnit.renew, hhon, hother]

end Sys2Proof.Machine
end

section
/-! SUPPORT. O31 and O32: LOCK by the rows of Table 2.3. -/

namespace Sys2Proof.Machine

/-- R27 as the statements write it. -/
theorem rangeValid_iff (first count : Nat) :
    rangeValid first count = true ↔ 1 ≤ count ∧ count ≤ 64 ∧ first + count ≤ 4096 := by
  simp only [rangeValid, Bool.and_eq_true, decide_eq_true_eq]
  omega

/-- A handle's 16 bits as the detail of a response (section 10.2). -/
theorem encode_eq_handleDetail (k : LockSlot) (gen : Byte) : some (Handle.encode ⟨k, gen⟩) = handleDetail k gen := by
  have hk := k.isLt
  have hg := BitVec.isLt gen
  refine congrArg some (BitVec.eq_of_toNat_eq ?_)
  rw [Handle.encode, BitVec.toNat_append, BitVec.toNat_ofNat, BitVec.toNat_ofNat, Nat.mod_eq_of_lt (by omega : k.val < 2 ^ 8),
    ← Nat.shiftLeft_add_eq_or_of_lt (by omega), Nat.shiftLeft_eq]
  dsimp only
  omega

theorem exec_lock {s : State} {p : Port} {first count : Nat} {m : LockMode} {wait : Bool} {limit lease : Nat}
    (hreq : s.request p = some (.lock first count m wait limit lease)) :
    exec (.lock p) s = .next (s.lockAnswer p (s.locks.lock p ⟨p, m, first, count, lease, lease⟩ wait limit
      (s.settings.quota[p]).toNat s.settings.waitDefault.toNat)) := by
  show execLock p s = _
  rw [execLock, hreq]

theorem LockUnit.freeSlot_eq_none_iff (u : LockUnit) : u.freeSlot = none ↔ ∀ k, (u.entry k).state ≠ .free := by
  simp [LockUnit.freeSlot, mem_allLockSlots]

theorem LockUnit.exists_freeSlot {u : LockUnit} (h : ∃ k, (u.entry k).state = .free) : ∃ k, u.freeSlot = some k := by
  obtain ⟨k, hk⟩ := h
  refine Option.isSome_iff_exists.mp (Option.isSome_iff_ne_none.mpr fun hnone => ?_)
  exact (u.freeSlot_eq_none_iff).mp hnone k hk

theorem LockUnit.not_conflictsAt {u : LockUnit} {r : Claim} {own : Port → Bool} {k : LockSlot}
    (h : ∀ c ∈ (u.entry k).state.claim?, own c.owner = true → c.conflicts r = false) : ¬u.ConflictsAt r own k := by
  rintro ⟨c, hc, ho, hconf⟩
  rw [h c hc ho] at hconf
  cases hconf

/-! ### The rows of Table 2.3 -/

/-- A request that passes the range and the quota comes to the slots (steps 1 to 3 of R28). -/
structure LockUnit.Admits (u : LockUnit) (p : Port) (r : Claim) (quota : Nat) (k : LockSlot) : Prop where
  range : rangeValid r.first r.count = true
  quota : (u.ownedBy p).length < quota
  free : u.freeSlot = some k

theorem LockUnit.lock_of_invalid {u : LockUnit} {p : Port} {r : Claim} (h : ¬rangeValid r.first r.count = true) (wait : Bool)
    (limit quota waitDefault : Nat) : u.lock p r wait limit quota waitDefault = u.unchanged .badRange none := by
  simp [LockUnit.lock, h]

theorem LockUnit.lock_of_quota {u : LockUnit} {p : Port} {r : Claim} {quota : Nat} (hrange : rangeValid r.first r.count = true)
    (h : quota ≤ (u.ownedBy p).length) (wait : Bool) (limit waitDefault : Nat) :
    u.lock p r wait limit quota waitDefault = u.unchanged .quota none := by
  simp [LockUnit.lock, hrange, h]

theorem LockUnit.lock_of_full {u : LockUnit} {p : Port} {r : Claim} {quota : Nat} (hrange : rangeValid r.first r.count = true)
    (hquota : (u.ownedBy p).length < quota) (h : u.freeSlot = none) (wait : Bool) (limit waitDefault : Nat) :
    u.lock p r wait limit quota waitDefault = u.unchanged .tableFull none := by
  simp [LockUnit.lock, hrange, hquota, h]

/-- Step 4 of R28: the lowest-numbered conflicting entry of the requester itself. -/
theorem LockUnit.lock_of_selfConflict {u : LockUnit} {p : Port} {r : Claim} {quota : Nat} {k j : LockSlot}
    {rest : List LockSlot} (h : u.Admits p r quota k) (hown : u.conflicting r (fun o => decide (o = p)) = j :: rest)
    (wait : Bool) (limit waitDefault : Nat) :
    u.lock p r wait limit quota waitDefault = u.unchanged .selfConflict (slotDetail j) := by
  simp [LockUnit.lock, h.range, h.quota, h.free, hown]

/-- Step 5 of R28: nothing conflicts. -/
theorem LockUnit.lock_of_clear {u : LockUnit} {p : Port} {r : Claim} {quota : Nat} {k : LockSlot} (h : u.Admits p r quota k)
    (hown : u.conflicting r (fun o => decide (o = p)) = []) (hothers : u.conflicting r (fun o => decide (o ≠ p)) = [])
    (wait : Bool) (limit waitDefault : Nat) :
    u.lock p r wait limit quota waitDefault = ⟨⟨u.place k (.held r), [], []⟩, .granted, some (u.handleAt k).encode⟩ := by
  simp only [LockUnit.lock, h.range, Nat.not_le.mpr h.quota, h.free, hown, hothers, Bool.not_true, Bool.false_eq_true, if_false]

/-- Steps 6 to 9 of R28: another port's entry conflicts. -/
theorem LockUnit.lock_of_conflict {u : LockUnit} {p : Port} {r : Claim} {quota : Nat} {k j : LockSlot}
    {rest : List LockSlot} (h : u.Admits p r quota k) (hown : u.conflicting r (fun o => decide (o = p)) = [])
    (hothers : u.conflicting r (fun o => decide (o ≠ p)) = j :: rest) (wait : Bool) (limit waitDefault : Nat) :
    u.lock p r wait limit quota waitDefault = u.lockWaiting p r wait limit waitDefault k j := by
  simp only [LockUnit.lock, h.range, Nat.not_le.mpr h.quota, h.free, hown, hothers, Bool.not_true, Bool.false_eq_true, if_false]

/-- Step 9 of R28: the request waits. -/
theorem LockUnit.lockWaiting_of_safe {u : LockUnit} {p : Port} {r : Claim} (hnone : u.waitingOf p = none)
    (hsafe : ¬ClosesCycle u p r) (limit waitDefault : Nat) (k j : LockSlot) :
    u.lockWaiting p r true limit waitDefault k j
      = ⟨⟨u.enqueue k r (if limit = 0 then waitDefault else limit), [], []⟩, .queued, some (u.handleAt k).encode⟩ := by
  have hfalse : u.wouldDeadlock p r = false := by
    rw [← Bool.not_eq_true, u.wouldDeadlock_iff]
    exact hsafe
  simp [LockUnit.lockWaiting, hnone, hfalse, LockUnit.enqueue]

/-! ### O31 -/

/-- Settles O31: step 5 of R28, and step 9 with the deadlock check passed. -/
theorem lockTakesTheLowestFreeSlot : Obligations.LockTakesTheLowestFreeSlot := by
  rintro s p first count m wait limit lease k r hreq rfl hmin hmax hlast hquota hfree hlow hown
  have hexec := exec_lock hreq
  have hadmits : s.locks.Admits p ⟨p, m, first, count, lease, lease⟩ (s.settings.quota[p]).toNat k :=
    ⟨(rangeValid_iff first count).mpr ⟨hmin, hmax, hlast⟩, hquota, (s.locks.freeSlot_eq_some_iff k).mpr ⟨hfree, hlow⟩⟩
  have hownNil := (s.locks.conflicting_eq_nil_iff ⟨p, m, first, count, lease, lease⟩ fun o => decide (o = p)).mpr
    fun j c hc ho => hown j c hc (by simpa using ho)
  refine ⟨fun hothers => ?_, fun ⟨j, c, hc, hne, hconf⟩ hwait hnone hsafe => ?_⟩
  · have hothersNil := (s.locks.conflicting_eq_nil_iff ⟨p, m, first, count, lease, lease⟩ fun o => decide (o ≠ p)).mpr
      fun j c hc ho => hothers j c hc (by simpa using ho)
    rw [LockUnit.lock_of_clear hadmits hownNil hothersNil] at hexec
    refine ⟨_, hexec, ?_, by simp [LockUnit.place_eq], by simp, by simp⟩
    rw [← encode_eq_handleDetail]
    exact State.lockAnswer_lockAnswered hreq _
  · obtain ⟨i, rest, hothers⟩ := List.exists_cons_of_ne_nil (List.ne_nil_of_mem
      ((s.locks.mem_conflicting ⟨p, m, first, count, lease, lease⟩ (fun o => decide (o ≠ p)) j).mpr
        ⟨c, hc, by simpa using hne, hconf⟩))
    have hrow := LockUnit.lock_of_conflict hadmits hownNil hothers wait limit s.settings.waitDefault.toNat
    rw [hwait, LockUnit.lockWaiting_of_safe ((s.locks.waitingOf_eq_none_iff p).mpr hnone) hsafe] at hrow
    rw [hwait, hrow] at hexec
    refine ⟨_, hexec, ?_, by simp [LockUnit.enqueue, LockUnit.place_eq], by simp, by simp, by simp⟩
    rw [← encode_eq_handleDetail]
    exact State.lockAnswer_lockAnswered hreq _

/-! ### O32 -/

/-- Settles O32, row by row of Table 2.3. -/
theorem lockIsRefused : Obligations.LockIsRefused := by
  rintro s p first count m wait limit lease r hreq rfl
  have hexec := exec_lock hreq
  refine ⟨fun hinvalid => exec_lockRefused hreq hexec ?_, fun hmin hmax hlast => ?_⟩
  · exact LockUnit.lock_of_invalid (fun h => hinvalid ((rangeValid_iff ..).mp h)) ..
  have hrange := (rangeValid_iff first count).mpr ⟨hmin, hmax, hlast⟩
  refine ⟨fun hquota => exec_lockRefused hreq hexec (LockUnit.lock_of_quota hrange hquota ..), fun hquota => ?_⟩
  refine ⟨fun hfull => exec_lockRefused hreq hexec ?_, fun hfree => ?_⟩
  · exact LockUnit.lock_of_full hrange hquota ((LockUnit.freeSlot_eq_none_iff _).mpr hfull) ..
  obtain ⟨f, hf⟩ := LockUnit.exists_freeSlot hfree
  have hadmits : s.locks.Admits p ⟨p, m, first, count, lease, lease⟩ (s.settings.quota[p]).toNat f := ⟨hrange, hquota, hf⟩
  refine ⟨fun k c hc howner hconf hlow => exec_lockRefused hreq hexec ?_, fun k c hown hc hne hconf hlow => ?_⟩
  · obtain ⟨rest, hself⟩ := LockUnit.conflicting_eq_cons (own := fun o => decide (o = p)) ⟨c, hc, by simpa using howner, hconf⟩
      fun j hj => LockUnit.not_conflictsAt fun d hd ho => hlow j hj d hd (by simpa using ho)
    exact LockUnit.lock_of_selfConflict hadmits hself ..
  have hownNil := (s.locks.conflicting_eq_nil_iff ⟨p, m, first, count, lease, lease⟩ fun o => decide (o = p)).mpr
    fun j c hc ho => hown j c hc (by simpa using ho)
  obtain ⟨rest, hothers⟩ := LockUnit.conflicting_eq_cons (own := fun o => decide (o ≠ p)) ⟨c, hc, by simpa using hne, hconf⟩
    fun j hj => LockUnit.not_conflictsAt fun d hd ho => hlow j hj d hd (by simpa using ho)
  rw [LockUnit.lock_of_conflict hadmits hownNil hothers] at hexec
  refine ⟨fun hwait => exec_lockRefused hreq hexec ?_, fun w d hwait hd howner hwlow => exec_lockRefused hreq hexec ?_,
    fun hwait hnone hcycle => exec_lockRefused hreq hexec ?_⟩
  · simp [LockUnit.lockWaiting, hwait]
    rfl
  · have hw := (s.locks.waitingOf_eq_some_iff p w).mpr ⟨⟨d, hd, howner⟩, hwlow⟩
    simp [LockUnit.lockWaiting, hwait, hw]
    rfl
  · have hw := (s.locks.waitingOf_eq_none_iff p).mpr hnone
    have hdead := (s.locks.wouldDeadlock_iff p _).mpr hcycle
    simp [LockUnit.lockWaiting, hwait, hw, hdead]
    rfl

end Sys2Proof.Machine
end

section
/-! SUPPORT. O38: the fields of the report words (Tables 9.2, 10.5), and the three queries. -/

namespace Sys2Proof.Machine

/-! ### The fields of a word put together with OR -/

theorem field_or (a b : Word) (lo n : Nat) : field (a ||| b) lo n = field a lo n ||| field b lo n := by
  rw [field, BitVec.extractLsb'_or, BitVec.toNat_or]
  rfl

theorem toNat_lay (l v : Nat) : (lay l v).toNat = v * 2 ^ l % 2 ^ 32 := by
  rw [lay, BitVec.toNat_shiftLeft, BitVec.toNat_ofNat, Nat.shiftLeft_eq, Nat.mod_mul_mod]

theorem field_lay (l v lo n : Nat) : field (lay l v) lo n = v * 2 ^ l % 2 ^ 32 / 2 ^ lo % 2 ^ n := by
  rw [field, BitVec.extractLsb'_toNat, toNat_lay, Nat.shiftRight_eq_div_pow]

/-- The field that a number is laid in holds it. -/
theorem field_lay_self {lo v n : Nat} (hv : v < 2 ^ n) (hn : lo + n ≤ 32) : field (lay lo v) lo n = v := by
  have hfits : v * 2 ^ lo < 2 ^ 32 :=
    calc v * 2 ^ lo < 2 ^ n * 2 ^ lo := Nat.mul_lt_mul_of_pos_right hv (Nat.two_pow_pos lo)
      _ = 2 ^ (lo + n) := by rw [← Nat.pow_add, Nat.add_comm]
      _ ≤ 2 ^ 32 := Nat.pow_le_pow_right (by decide) hn
  rw [field_lay, Nat.mod_eq_of_lt hfits, Nat.mul_div_cancel _ (Nat.two_pow_pos lo), Nat.mod_eq_of_lt hv]

/-- A field above the bits of a number laid below it is zero. -/
theorem field_lay_below {l v lo : Nat} (h : v * 2 ^ l < 2 ^ lo) (n : Nat) : field (lay l v) lo n = 0 := by
  rw [field_lay, Nat.div_eq_of_lt (Nat.lt_of_le_of_lt (Nat.mod_le _ _) h), Nat.zero_mod]

/-- A field below the place where a number is laid is zero. -/
theorem field_lay_above {l lo n : Nat} (v : Nat) (h : lo + n ≤ l) : field (lay l v) lo n = 0 := by
  have hzero : (lay l v).extractLsb' lo n = 0#n := by
    refine BitVec.eq_of_getLsbD_eq fun i hi => ?_
    have hlow : lo + i < l := by omega
    simp [lay, hlow]
  rw [field, hzero, BitVec.toNat_ofNat, Nat.zero_mod]

@[simp] theorem lay_zero (l : Nat) : lay l 0 = 0#32 := by simp [lay]

theorem toNat_lay_zero {v : Nat} (h : v < 2 ^ 32) : (lay 0 v).toNat = v := by
  rw [toNat_lay, Nat.pow_zero, Nat.mul_one, Nat.mod_eq_of_lt h]

/-- A word of two 16-bit numbers (Table 10.5). -/
theorem field_halves {a b : Nat} (ha : a < 65536) (hb : b < 65536) :
    field (lay 0 a ||| lay 16 b) 0 16 = a ∧ field (lay 0 a ||| lay 16 b) 16 16 = b := by
  constructor
  · rw [field_or, field_lay_self ha (by decide), field_lay_above b (by decide), Nat.or_zero]
  · rw [field_or, field_lay_below (by omega), field_lay_self hb (by decide), Nat.zero_or]

/-! ### The lock entry report -/

/-- Word 0 of the report of an entry outside FREE (Table 10.5). -/
def entryWord (e : LockEntry) (c : Claim) (code ad arrival flags : Nat) : Word :=
  lay 0 code ||| lay 2 c.owner.val ||| lay 4 c.mode.code ||| lay 6 ad ||| lay 8 e.gen.toNat ||| lay 16 arrival ||| lay 24 flags

theorem LockMode.code_lt (m : LockMode) : m.code < 4 := by cases m <;> decide

/-- The fields that the arrival number does not reach. -/
theorem entryWord_low (e : LockEntry) (c : Claim) {code ad : Nat} (arrival flags : Nat) (hcode : code < 4) (had : ad < 2) :
    field (entryWord e c code ad arrival flags) 0 2 = code
      ∧ field (entryWord e c code ad arrival flags) 2 2 = c.owner.val
      ∧ field (entryWord e c code ad arrival flags) 4 2 = c.mode.code
      ∧ field (entryWord e c code ad arrival flags) 6 1 = ad
      ∧ field (entryWord e c code ad arrival flags) 7 1 = 0
      ∧ field (entryWord e c code ad arrival flags) 8 8 = e.gen.toNat := by
  have howner := c.owner.isLt
  have hmode := c.mode.code_lt
  have hgen := e.gen.isLt
  refine ⟨?_, ?_, ?_, ?_, ?_, ?_⟩ <;>
    simp (disch := omega) only [entryWord, field_or, field_lay_self, field_lay_below, field_lay_above, Nat.zero_or, Nat.or_zero]

/-- The arrival number and the flags, where the number has the 8 bits that the report gives it. -/
theorem entryWord_high (e : LockEntry) (c : Claim) {code ad arrival flags : Nat} (hcode : code < 4) (had : ad < 2)
    (harrival : arrival < 256) (hflags : flags < 256) :
    field (entryWord e c code ad arrival flags) 16 8 = arrival ∧ field (entryWord e c code ad arrival flags) 24 8 = flags := by
  have howner := c.owner.isLt
  have hmode := c.mode.code_lt
  have hgen := e.gen.isLt
  constructor
  · simp (disch := omega) only [entryWord, field_or, field_lay_self, field_lay_below, field_lay_above, Nat.zero_or, Nat.or_zero]
  · rw [entryWord, field_or, field_or, field_or, field_or, field_or, field_or, field_lay_below, field_lay_below, field_lay_below,
      field_lay_below, field_lay_below, field_lay_below, field_lay_self hflags (by decide)]
    · simp only [Nat.zero_or]
    all_goals omega

theorem LockUnit.arrival_le (u : LockUnit) (k : LockSlot) : (u.arrival k).getD 0 ≤ u.order.length := by
  unfold LockUnit.arrival
  cases h : u.order.idxOf? k with
  | none => exact Nat.zero_le _
  | some i =>
    obtain ⟨hi, _⟩ := List.idxOf?_eq_some_iff.mp h
    exact hi

theorem LockUnit.arrival_of_getElem {u : LockUnit} {k : LockSlot} {i : Nat} (hnodup : u.order.Nodup)
    (h : u.order[i]? = some k) : u.arrival k = some (i + 1) := by
  obtain ⟨hi, hk⟩ := List.getElem?_eq_some_iff.mp h
  have hfirst : u.order.idxOf? k = some i := List.idxOf?_eq_some_iff.mpr ⟨hi, hk, fun j hj hjk =>
    absurd (hnodup.getElem_inj_iff.mp (hjk.trans hk.symm)) (Nat.ne_of_lt hj)⟩
  rw [LockUnit.arrival, hfirst]
  rfl

/-- Word 0 in the order in which the model puts it together: the fields of each state, then those of one. -/
theorem entryWord_eq (e : LockEntry) (c : Claim) (code ad arrival flags : Nat) :
    entryWord e c code ad arrival flags = lay 0 code ||| lay 2 c.owner.val ||| lay 4 c.mode.code ||| lay 8 e.gen.toNat
      ||| lay 24 flags ||| lay 16 arrival ||| lay 6 ad := by
  unfold entryWord
  generalize lay 0 _ = w₀, lay 2 _ = w₁, lay 4 _ = w₂, lay 6 _ = w₃, lay 8 _ = w₄, lay 16 _ = w₅, lay 24 _ = w₆
  ac_rfl

/-- The words of the report, by the entry's state. -/
theorem lockReport_waiting {e : LockEntry} {c : Claim} {n : Nat} (h : e.state = .waiting c n) (arrival : Option Nat) :
    lockReport e arrival = [entryWord e c 1 0 (arrival.getD 0) 7, lay 0 c.first ||| lay 16 c.count,
      lay 0 c.leaseLen ||| lay 16 c.leaseLeft, lay 0 n] := by
  rw [entryWord_eq, lay_zero 6, BitVec.or_zero, lockReport, h]

theorem lockReport_held {e : LockEntry} {c : Claim} (h : e.state = .held c) (arrival : Option Nat) :
    lockReport e arrival = [entryWord e c 2 0 0 1, lay 0 c.first ||| lay 16 c.count,
      lay 0 c.leaseLen ||| lay 16 c.leaseLeft, 0#32] := by
  rw [entryWord_eq, lay_zero 16, BitVec.or_zero, lay_zero 6, BitVec.or_zero, lockReport, h]

theorem lockReport_orphaned {e : LockEntry} {c : Claim} {n : Nat} {ad : Bool} (h : e.state = .orphaned c n ad)
    (arrival : Option Nat) : lockReport e arrival = [entryWord e c 3 ad.toNat 0 9, lay 0 c.first ||| lay 16 c.count,
      lay 0 c.leaseLen ||| lay 16 c.leaseLeft, lay 16 n] := by
  rw [entryWord_eq, lay_zero 16, BitVec.or_zero, lockReport, h]
  rfl

/-- A mode's code is the one that Table 10.3 lists. -/
theorem LockMode.code_of_mem {m : LockMode} {code : Nat}
    (h : (m, code) ∈ [(LockMode.shared, 0), (.exclusive, 1), (.priv, 2)]) : m.code = code := by
  cases m <;> simpa [LockMode.code, eq_comm] using h

/-- The report is that of Table 10.5. -/
theorem LockUnit.lockReport_reported (u : LockUnit) (k : LockSlot) :
    ∃ w0 w1 w2 w3, lockReport (u.entry k) (u.arrival k) = [w0, w1, w2, w3] ∧ LockReported u k w0 w1 w2 w3 := by
  have hgen := (u.entry k).gen.isLt
  cases he : (u.entry k).state with
  | free =>
    refine ⟨lay 8 (u.entry k).gen.toNat, 0#32, 0#32, 0#32, by simp only [lockReport, he],
      field_lay_self hgen (by decide), fun _ => ⟨field_lay_above _ (by decide), field_lay_below (by omega) _, rfl, rfl, rfl⟩, ?_⟩
    rw [he]
    exact nofun
  | waiting c n =>
    obtain ⟨hcode, howner, hmode, hfree, hseven, hgen'⟩ :=
      entryWord_low (u.entry k) c ((u.arrival k).getD 0) 7 (code := 1) (ad := 0) (by decide) (by decide)
    have hhigh := fun h => entryWord_high (u.entry k) c (code := 1) (ad := 0) (arrival := (u.arrival k).getD 0) (flags := 7)
      (by decide) (by decide) h (by decide)
    have harrival := u.arrival_le k
    refine ⟨_, _, _, _, lockReport_waiting he _, hgen', by rw [he]; exact nofun, ?_⟩
    rw [he]
    rintro _ ⟨⟩
    refine ⟨howner, fun code h => hmode.trans (LockMode.code_of_mem h), hseven, field_halves, field_halves, ?_, nofun, nofun⟩
    rintro _ ⟨⟩
    refine ⟨hcode, hfree, fun hn => toNat_lay_zero (by omega), fun hlen => (hhigh (by omega)).2, fun hnodup hlen i hi => ?_⟩
    rw [(hhigh (by omega)).1, u.arrival_of_getElem hnodup hi]
    rfl
  | held c =>
    obtain ⟨hcode, howner, hmode, hfree, hseven, hgen'⟩ :=
      entryWord_low (u.entry k) c 0 1 (code := 2) (ad := 0) (by decide) (by decide)
    obtain ⟨harrival, hflags⟩ := entryWord_high (u.entry k) c (code := 2) (ad := 0) (arrival := 0) (flags := 1)
      (by decide) (by decide) (by decide) (by decide)
    refine ⟨_, _, _, _, lockReport_held he _, hgen', by rw [he]; exact nofun, ?_⟩
    rw [he]
    rintro _ ⟨⟩
    exact ⟨howner, fun code h => hmode.trans (LockMode.code_of_mem h), hseven, field_halves, field_halves, nofun,
      fun _ => ⟨hcode, hfree, harrival, hflags, rfl⟩, nofun⟩
  | orphaned c n ad =>
    obtain ⟨hcode, howner, hmode, had, hseven, hgen'⟩ :=
      entryWord_low (u.entry k) c 0 9 (code := 3) (by decide) ad.toNat_lt
    obtain ⟨harrival, hflags⟩ := entryWord_high (u.entry k) c (code := 3) (arrival := 0) (flags := 9) (by decide) ad.toNat_lt
      (by decide) (by decide)
    refine ⟨_, _, _, _, lockReport_orphaned he _, hgen', by rw [he]; exact nofun, ?_⟩
    rw [he]
    rintro _ ⟨⟩
    refine ⟨howner, fun code h => hmode.trans (LockMode.code_of_mem h), hseven, field_halves, field_halves, nofun, nofun, ?_⟩
    rintro _ _ ⟨⟩
    exact ⟨hcode, had, harrival, hflags, field_lay_above n (by decide), fun hn => field_lay_self hn (by decide)⟩

/-! ### The channel report -/

/-- Word 0 of the channel report (Table 10.5), an absent field as zero (log entry 34). -/
def channelWord (code owner bound index faulted fault addressed : Nat) : Word :=
  lay 0 code ||| lay 4 owner ||| lay 6 bound ||| lay 7 faulted ||| lay 8 index ||| lay 16 fault ||| lay 24 addressed

/-- The fields below the index. -/
theorem channelWord_low {code owner bound faulted : Nat} (index fault addressed : Nat) (hcode : code < 8) (howner : owner < 4)
    (hbound : bound < 2) :
    field (channelWord code owner bound index faulted fault addressed) 0 4 = code
      ∧ field (channelWord code owner bound index faulted fault addressed) 4 2 = owner
      ∧ field (channelWord code owner bound index faulted fault addressed) 6 1 = bound := by
  refine ⟨?_, ?_, ?_⟩ <;>
    simp (disch := omega) only [channelWord, field_or, field_lay_self, field_lay_below, field_lay_above, Nat.zero_or, Nat.or_zero]

/-- The index and the fields above it, where the index has the 8 bits that the report gives it. -/
theorem channelWord_high {code owner bound index faulted fault addressed : Nat} (hcode : code < 8) (howner : owner < 4)
    (hbound : bound < 2) (hindex : index < 256) (hfaulted : faulted < 2) (hfault : fault < 16) (haddr : addressed < 2) :
    field (channelWord code owner bound index faulted fault addressed) 7 1 = faulted
      ∧ field (channelWord code owner bound index faulted fault addressed) 8 8 = index
      ∧ field (channelWord code owner bound index faulted fault addressed) 16 8 = fault
      ∧ field (channelWord code owner bound index faulted fault addressed) 24 1 = addressed
      ∧ field (channelWord code owner bound index faulted fault addressed) 25 7 = 0 := by
  refine ⟨?_, ?_, ?_, ?_, ?_⟩ <;>
    simp (disch := omega) only [channelWord, field_or, field_lay_self, field_lay_below, field_lay_above, Nat.zero_or, Nat.or_zero]

theorem ChanState.code_lt (st : ChanState) : st.code < 8 := by cases st <;> decide

theorem FaultCode.code_lt (code : FaultCode) : code.code < 16 := by cases code <;> decide

/-- A code of the channel report is the one that its list gives. -/
theorem ChanState.code_of_mem {st : ChanState} {code : Nat}
    (h : (st, code) ∈ [(ChanState.idle, 0), (.loading, 1), (.running, 2), (.stalled, 3), (.aborting, 4), (.complete, 5),
      (.faulted, 6), (.stopped, 7)]) : st.code = code := by
  cases st <;> simpa [ChanState.code, eq_comm] using h

theorem FaultCode.code_of_mem {f : FaultCode} {code : Nat}
    (h : (f, code) ∈ [(FaultCode.badDescriptor, 1), (.listTooLong, 2), (.masterError, 3), (.masterTimeout, 4),
      (.locked, 5), (.lockTimeout, 6), (.selfLocked, 7), (.guardLost, 8), (.dataError, 9), (.poisoned, 10),
      (.portDown, 11)]) : f.code = code := by
  cases f <;> simpa [FaultCode.code, eq_comm] using h

/-- The fields of word 0 that come of the owner: its number and whether there is one. -/
def ownerFields : Option Port → Nat × Nat
  | none => (0, 0)
  | some p => (p.val, 1)

/-- The fields of word 0 that come of the fault record: whether there is one, its code and whether it has an address. -/
def faultFields : Option FaultRecord → Nat × Nat × Nat
  | none => (0, 0, 0)
  | some f => (1, f.code.code, f.addr.isSome.toNat)

theorem ownerFields_lt (o : Option Port) : (ownerFields o).1 < 4 ∧ (ownerFields o).2 < 2 := by
  cases o with
  | none => decide
  | some p => exact ⟨p.isLt, Nat.one_lt_two⟩

theorem faultFields_lt (o : Option FaultRecord) :
    (faultFields o).1 < 2 ∧ (faultFields o).2.1 < 16 ∧ (faultFields o).2.2 < 2 := by
  cases o with
  | none => decide
  | some f => exact ⟨Nat.one_lt_two, f.code.code_lt, f.addr.isSome.toNat_lt⟩

/-- The bits that word 0 takes of the owner. -/
theorem ownerBits_eq (o : Option Port) :
    (match o with
      | none => 0#32
      | some p => lay 4 p.val ||| layBit 6 true) = lay 4 (ownerFields o).1 ||| lay 6 (ownerFields o).2 := by
  cases o with
  | none => decide
  | some p => rfl

/-- The bits that word 0 takes of the fault record. -/
theorem faultBits_eq (o : Option FaultRecord) :
    (match o with
      | none => 0#32
      | some f => layBit 7 true ||| lay 16 f.code.code ||| layBit 24 f.addr.isSome)
      = lay 7 (faultFields o).1 ||| lay 16 (faultFields o).2.1 ||| lay 24 (faultFields o).2.2 := by
  cases o with
  | none => decide
  | some f => rfl

/-- The words of the channel report. -/
theorem channelReport_eq (ctx : ChannelContext) :
    channelReport ctx = [channelWord ctx.state.code (ownerFields ctx.owner).1 (ownerFields ctx.owner).2 ctx.index
        (faultFields ctx.fault).1 (faultFields ctx.fault).2.1 (faultFields ctx.fault).2.2,
      lay 0 ctx.bytesMoved, lay 0 ((ctx.fault.bind FaultRecord.addr).getD 0)] := by
  have haddr : (match ctx.fault with
      | none => 0#32
      | some f => lay 0 (f.addr.getD 0)) = lay 0 ((ctx.fault.bind FaultRecord.addr).getD 0) := by
    cases ctx.fault with
    | none => exact (lay_zero 0).symm
    | some f => rfl
  have hword : channelWord ctx.state.code (ownerFields ctx.owner).1 (ownerFields ctx.owner).2 ctx.index
        (faultFields ctx.fault).1 (faultFields ctx.fault).2.1 (faultFields ctx.fault).2.2
      = lay 0 ctx.state.code ||| lay 8 ctx.index ||| (lay 4 (ownerFields ctx.owner).1 ||| lay 6 (ownerFields ctx.owner).2)
        ||| (lay 7 (faultFields ctx.fault).1 ||| lay 16 (faultFields ctx.fault).2.1 ||| lay 24 (faultFields ctx.fault).2.2) := by
    unfold channelWord
    generalize lay 0 _ = a, lay 4 _ = b, lay 6 _ = c, lay 7 _ = d, lay 8 _ = e, lay 16 _ = f, lay 24 _ = g
    ac_rfl
  rw [hword, ← ownerBits_eq, ← faultBits_eq, ← haddr]
  rfl

/-- The report is that of Table 10.5. -/
theorem channelReport_reported (ctx : ChannelContext) :
    ∃ w0 w1 w2, channelReport ctx = [w0, w1, w2] ∧ ChannelReported ctx w0 w1 w2 := by
  obtain ⟨howner, hbound⟩ := ownerFields_lt ctx.owner
  obtain ⟨hfaulted, hfault, haddr⟩ := faultFields_lt ctx.fault
  obtain ⟨hcode, hown, hbnd⟩ := channelWord_low ctx.index (faulted := (faultFields ctx.fault).1)
    (faultFields ctx.fault).2.1 (faultFields ctx.fault).2.2 ctx.state.code_lt howner hbound
  have hhigh := fun h : ctx.index < 256 => channelWord_high ctx.state.code_lt howner hbound h hfaulted hfault haddr
  refine ⟨_, _, _, channelReport_eq ctx, fun code h => hcode.trans (ChanState.code_of_mem h), fun hnone => ?_, fun p hp => ?_,
    fun hindex => ?_, toNat_lay_zero, fun hnone hindex => ?_, fun f hf hindex => ?_⟩
  · rw [hown, hbnd, hnone]
    exact ⟨rfl, rfl⟩
  · rw [hown, hbnd, hp]
    exact ⟨rfl, rfl⟩
  · obtain ⟨_, hidx, _, _, hrest⟩ := hhigh hindex
    exact ⟨hidx, hrest⟩
  · obtain ⟨hseven, _, hsixteen, hflag, _⟩ := hhigh hindex
    rw [hseven, hsixteen, hflag, hnone]
    exact ⟨rfl, rfl, rfl, lay_zero 0⟩
  · obtain ⟨hseven, _, hsixteen, hflag, _⟩ := hhigh hindex
    rw [hseven, hsixteen, hflag, hf]
    refine ⟨rfl, fun code h => FaultCode.code_of_mem h, fun hnone => ?_, fun a ha => ?_⟩
    · simp [faultFields, hnone]
    · simp only [faultFields, Option.bind_some, ha]
      exact ⟨rfl, toNat_lay_zero⟩

/-! ### The settings -/

theorem LinkState.code_of_mem {st : LinkState} {v : Nat}
    (h : (st, v) ∈ [(LinkState.off, 0), (.down, 1), (.training, 2), (.up, 3), (.fenced, 4)]) : st.code = v := by
  cases st <;> simpa [LinkState.code, eq_comm] using h

theorem DownCause.code_of_mem {d : DownCause} {v : Nat}
    (h : (d, v) ∈ [(DownCause.hubReset, 0), (.linkLoss, 1), (.linkError, 2), (.overrun, 3), (.tagReuse, 4), (.portReset, 5),
      (.fence, 6)]) : d.code = v := by
  cases d <;> simpa [DownCause.code, eq_comm] using h

theorem LinkState.exists_listed (st : LinkState) :
    ∃ v, (st, v) ∈ [(LinkState.off, 0), (.down, 1), (.training, 2), (.up, 3), (.fenced, 4)] := by
  cases st <;> simp

theorem DownCause.exists_listed (d : DownCause) :
    ∃ v, (d, v) ∈ [(DownCause.hubReset, 0), (.linkLoss, 1), (.linkError, 2), (.overrun, 3), (.tagReuse, 4), (.portReset, 5),
      (.fence, 6)] := by
  cases d <;> simp

/-- The entries in use are those outside FREE (R25). -/
theorem LockUnit.inUse_eq (u : LockUnit) : u.inUse = allLockSlots.filter fun k => decide ((u.entry k).state ≠ .free) := by
  refine List.filter_congr fun k _ => ?_
  rw [Bool.eq_iff_iff, EntryState.claim_isSome_iff, decide_eq_true_eq]

/-- A setting number that Table 9.2 lists has a value there. -/
theorem exists_settingHolds (s : State) {n : Nat} (h : n ≤ 0x0D ∨ 0x10 ≤ n ∧ n ≤ 0x19) : ∃ v, SettingHolds s n v := by
  by_cases hquota : 0x05 ≤ n ∧ n ≤ 0x08
  · exact ⟨_, .inr (.inl ⟨⟨n - 5, by omega⟩, by dsimp only; omega, rfl⟩)⟩
  by_cases hlink : 0x10 ≤ n ∧ n ≤ 0x13
  · obtain ⟨v, hv⟩ := LinkState.exists_listed (s.link ⟨n - 0x10, by omega⟩).link
    exact ⟨v, .inr (.inr (.inl ⟨⟨n - 0x10, by omega⟩, by dsimp only; omega, hv⟩))⟩
  by_cases hcause : 0x14 ≤ n ∧ n ≤ 0x17
  · obtain ⟨v, hv⟩ := DownCause.exists_listed (s.link ⟨n - 0x14, by omega⟩).downCause
    exact ⟨v, .inr (.inr (.inr ⟨⟨n - 0x14, by omega⟩, by dsimp only; omega, hv⟩))⟩
  have hlisted : n ∈ [0x00, 0x01, 0x02, 0x03, 0x04, 0x09, 0x0A, 0x0B, 0x0C, 0x0D, 0x18, 0x19] := by
    simp only [List.mem_cons, List.not_mem_nil, or_false]
    omega
  simp only [SettingHolds, exists_or]
  refine .inl ?_
  have hfst : ∀ {l : List (Nat × Nat)}, n ∈ l.map Prod.fst → ∃ v, (n, v) ∈ l := fun hmem => by
    obtain ⟨⟨_, v⟩, hv, rfl⟩ := List.mem_map.mp hmem
    exact ⟨v, hv⟩
  exact hfst hlisted

/-- A setting's value as CONFIG_READ returns it, in 16 bits (R175). -/
theorem settingValue_of_holds {s : State} {n v : Nat} (h : SettingHolds s n v) :
    ∃ x, settingValue s n = some x ∧ x.toNat = v % 65536 := by
  have hval : ∀ x : Half, x.toNat = x.toNat % 65536 := fun x => (Nat.mod_eq_of_lt x.isLt).symm
  rcases h with h | ⟨q, rfl, rfl⟩ | ⟨q, rfl, h⟩ | ⟨q, rfl, h⟩
  · simp only [List.mem_cons, Prod.mk.injEq, List.not_mem_nil, or_false] at h
    rcases h with ⟨rfl, rfl⟩ | ⟨rfl, rfl⟩ | ⟨rfl, rfl⟩ | ⟨rfl, rfl⟩ | ⟨rfl, rfl⟩ | ⟨rfl, rfl⟩ | ⟨rfl, rfl⟩ | ⟨rfl, rfl⟩ |
      ⟨rfl, rfl⟩ | ⟨rfl, rfl⟩ | ⟨rfl, rfl⟩ | ⟨rfl, rfl⟩
    · exact ⟨_, rfl, rfl⟩
    · exact ⟨_, rfl, rfl⟩
    · exact ⟨_, rfl, BitVec.toNat_ofNat ..⟩
    · exact ⟨_, rfl, hval _⟩
    · exact ⟨_, rfl, hval _⟩
    · exact ⟨_, rfl, hval _⟩
    · exact ⟨_, rfl, hval _⟩
    · exact ⟨_, rfl, hval _⟩
    · exact ⟨_, rfl, hval _⟩
    · exact ⟨_, rfl, hval _⟩
    · exact ⟨_, rfl, by rw [LockUnit.inUse_eq]; exact BitVec.toNat_ofNat ..⟩
    · exact ⟨_, rfl, BitVec.toNat_ofNat ..⟩
  · fin_cases q <;> exact ⟨_, rfl, hval _⟩
  · rw [← LinkState.code_of_mem h]
    fin_cases q <;> exact ⟨_, rfl, BitVec.toNat_ofNat ..⟩
  · rw [← DownCause.code_of_mem h]
    fin_cases q <;> exact ⟨_, rfl, BitVec.toNat_ofNat ..⟩

/-- A number that Table 9.2 does not list names no setting. -/
theorem settingValue_eq_none (s : State) {n : Nat} (h : n = 0x0E ∨ n = 0x0F ∨ 0x1A ≤ n) : settingValue s n = none := by
  unfold settingValue
  split
  case h_25 => rfl
  all_goals omega

/-! ### O38 -/

/-- Settles O38: each query answers with the report or the value as it stands. -/
theorem queriesReportAndChangeNothing : Obligations.QueriesReportAndChangeNothing := by
  refine ⟨fun s p k hreq => ?_, fun s p b hreq => ?_, fun s p n hreq => ?_⟩ <;>
    obtain ⟨sv, hsv, _⟩ := State.request_eq_some hreq
  · obtain ⟨w0, w1, w2, w3, hwords, hreported⟩ := s.locks.lockReport_reported k
    have hexec : exec (.lockQuery p) s = .next (s.answer p .ok none [w0, w1, w2, w3]) := by
      show execLockQuery p s = _
      rw [execLockQuery, hreq, ← hwords]
    exact ⟨_, hexec, w0, w1, w2, w3, State.answer_answeredOnly hsv .., hreported⟩
  · have hexec : exec (.channelQuery p) s = .next (s.channelQuery p b) := by
      show execChannelQuery p s = _
      rw [execChannelQuery, hreq]
    refine ⟨fun hb => ⟨_, hexec, ?_⟩, fun c hc => ?_⟩
    · rw [State.channelQuery, chanOf, if_neg (by omega)]
      exact State.answer_answeredOnly hsv ..
    · obtain ⟨w0, w1, w2, hwords, hreported⟩ := channelReport_reported (s.chan c)
      have hchan : chanOf b = some c := by
        rw [chanOf, if_pos (by omega), ← hc]
        simp
      rw [State.channelQuery, hchan] at hexec
      dsimp only at hexec
      rw [hwords] at hexec
      exact ⟨_, hexec, w0, w1, w2, State.answer_answeredOnly hsv .., hreported⟩
  · refine ⟨fun hn => ?_, exists_settingHolds s, fun v hv => ?_⟩
    · have hexec : exec (.configRead p) s = .next (s.answer p .badSetting none []) := by
        show execConfigRead p s = _
        simp only [execConfigRead, hreq, settingValue_eq_none s hn]
      exact ⟨_, hexec, State.answer_answeredOnly hsv ..⟩
    · obtain ⟨x, hx, hxv⟩ := settingValue_of_holds hv
      have hexec : exec (.configRead p) s = .next (s.answer p .ok none [lay 0 n.toNat ||| lay 16 x.toNat]) := by
        show execConfigRead p s = _
        simp only [execConfigRead, hreq, hx]
      have hn : n.toNat < 2 ^ 8 := n.isLt
      obtain ⟨_, hhigh⟩ := field_halves (a := n.toNat) (b := x.toNat) (by omega) x.isLt
      refine ⟨_, hexec, _, State.answer_answeredOnly hsv .., ?_, ?_, hxv ▸ hhigh⟩
      · rw [field_or, field_lay_self hn (by decide), field_lay_above _ (by decide), Nat.or_zero]
      · rw [field_or, field_lay_below (by omega), field_lay_above _ (by decide), Nat.or_zero]

end Sys2Proof.Machine
end

section
/-! SUPPORT. O35 and O36: ADOPT by its former owner, RECLAIM and FORCE_RELEASE by the supervisor. -/

namespace Sys2Proof.Machine

/-! ### Handles that name no orphan, and requests of other ports than the supervisor -/

/-- A handle that names an entry HELD or WAITING is honoured with that state (R23). -/
theorem LockUnit.honoured_of_not_orphaned {u : LockUnit} {h : Handle} {c : Claim} (hgen : (u.entry h.slot).gen = h.gen)
    (hstate : (u.entry h.slot).state = .held c ∨ ∃ n, (u.entry h.slot).state = .waiting c n) :
    u.honoured h = some (.held c) ∨ ∃ n, u.honoured h = some (.waiting c n) := by
  have hhon : ∀ {e}, (u.entry h.slot).state = e → e ≠ .free → u.honoured h = some e := fun he hf =>
    LockUnit.honoured_of_entry (by rw [← hgen, ← he]) hf
  exact hstate.imp (fun he => hhon he nofun) fun ⟨n, he⟩ => ⟨n, hhon he nofun⟩

/-- A request that is the supervisor's alone, from another port (R172). -/
theorem exec_notSupervisor {s : State} {p : Port} {req : Request} {c : Instr} (hreq : s.request p = some req)
    (hexec : exec c s = .next (s.answer p .notSupervisor none [])) :
    ∃ t, exec c s = .next t ∧ AnsweredOnly s t p .notSupervisor none [] := by
  obtain ⟨sv, hsv, _⟩ := State.request_eq_some hreq
  exact ⟨_, hexec, State.answer_answeredOnly hsv ..⟩

/-! ### O35 -/

theorem exec_adopt {s : State} {p : Port} {h : Handle} (hreq : s.request p = some (.adopt h)) :
    exec (.adopt p) s = .next (s.lockAnswer p (s.locks.adopt p h)) := by
  show execAdopt p s = _
  rw [execAdopt, hreq]

/-- The last row of Table 4.2: the port's own adoptable orphan is HELD again under its handle (R76). -/
theorem LockUnit.adopt_of_orphan {u : LockUnit} {p : Port} {h : Handle} {c : Claim} {n : Nat}
    (hc : u.entry h.slot = ⟨h.gen, .orphaned c n true⟩) (howner : c.owner = p) :
    u.adopt p h = ⟨⟨u.setEntry h.slot ⟨h.gen, .held c.fullLease⟩, [], [c.range]⟩, .ok, some h.encode⟩ := by
  simp [LockUnit.adopt, LockUnit.honoured_of_entry hc, howner, LockUnit.place_eq, hc]

/-- Settles O35, row by row of Table 4.2. -/
theorem adoptTakesTheOrphanBack : Obligations.AdoptTakesTheOrphanBack := by
  intro s p h hreq
  have hexec := exec_adopt hreq
  refine ⟨fun c n hc howner => ?_, fun hstale => exec_lockRefused hreq hexec ?_,
    fun c hgen hstate => exec_lockRefused hreq hexec ?_, fun c n a hc hother => exec_lockRefused hreq hexec ?_,
    fun c n hc howner => exec_lockRefused hreq hexec ?_⟩
  · rw [LockUnit.adopt_of_orphan hc howner] at hexec
    refine ⟨_, hexec, ?_, by simp, by simp [Claim.range], by simp [Claim.fullLease], c.fullLease, by simp, howner⟩
    rw [← encode_eq_handleDetail]
    exact State.lockAnswer_lockAnswered hreq _
  · rw [LockUnit.adopt, (LockUnit.honoured_eq_none ..).mpr hstale]
  · rcases LockUnit.honoured_of_not_orphaned hgen hstate with hhon | ⟨n, hhon⟩ <;> rw [LockUnit.adopt, hhon]
  · simp [LockUnit.adopt, LockUnit.honoured_of_entry hc, hother]
  · simp [LockUnit.adopt, LockUnit.honoured_of_entry hc, howner]

/-! ### O36: RECLAIM -/

theorem exec_reclaim {s : State} {h : Handle} (hreq : s.request s.supervisor = some (.reclaim h)) :
    exec (.reclaim s.supervisor) s = .next (s.lockAnswer s.supervisor (s.locks.reclaim s.supervisor h)) := by
  show execReclaim s.supervisor s = _
  rw [execReclaim, hreq]
  exact if_pos rfl

theorem exec_reclaim_of_other {s : State} {p : Port} {h : Handle} (hreq : s.request p = some (.reclaim h))
    (hp : p ≠ s.supervisor) : exec (.reclaim p) s = .next (s.answer p .notSupervisor none []) := by
  show execReclaim p s = _
  rw [execReclaim, hreq]
  exact if_neg hp

/-- Table 4.3: a supervisor with a WAITING entry of its own takes no orphan over. -/
theorem LockUnit.reclaim_of_waiting {u : LockUnit} {sup : Port} {h : Handle} {c : Claim} {n : Nat} {a : Bool} {w : LockSlot}
    (hc : u.entry h.slot = ⟨h.gen, .orphaned c n a⟩) (hw : u.waitingOf sup = some w) :
    u.reclaim sup h = u.unchanged .waitBusy (slotDetail w) := by
  simp only [LockUnit.reclaim, LockUnit.honoured_of_entry hc nofun, hw]

/-- The last row of Table 4.3: the orphan is the supervisor's, HELD under the next generation (R78). -/
theorem LockUnit.reclaim_of_orphan {u : LockUnit} {sup : Port} {h : Handle} {c : Claim} {n : Nat} {a : Bool}
    (hc : u.entry h.slot = ⟨h.gen, .orphaned c n a⟩) (hw : u.waitingOf sup = none) :
    u.reclaim sup h = ⟨⟨u.setEntry h.slot ⟨h.gen + 1, .held { c.fullLease with owner := sup }⟩, [], [c.range]⟩, .ok,
      some (Handle.encode ⟨h.slot, h.gen + 1⟩)⟩ := by
  simp only [LockUnit.reclaim, LockUnit.honoured_of_entry hc nofun, hw]

/-- RECLAIM by the supervisor refuses a handle that names no orphan (Table 4.3). -/
theorem reclaim_refusesOthers {s : State} {h : Handle} (hreq : s.request s.supervisor = some (.reclaim h)) :
    ((s.locks.entry h.slot).gen ≠ h.gen ∨ (s.locks.entry h.slot).state = .free →
        ∃ t, exec (.reclaim s.supervisor) s = .next t ∧ AnsweredOnly s t s.supervisor .staleHandle none [])
      ∧ ∀ c, (s.locks.entry h.slot).gen = h.gen →
        ((s.locks.entry h.slot).state = .held c ∨ ∃ n, (s.locks.entry h.slot).state = .waiting c n) →
        ∃ t, exec (.reclaim s.supervisor) s = .next t ∧ AnsweredOnly s t s.supervisor .notOrphaned none [] := by
  have hexec := exec_reclaim hreq
  refine ⟨fun hstale => exec_lockRefused hreq hexec ?_, fun c hgen hstate => exec_lockRefused hreq hexec ?_⟩
  · rw [LockUnit.reclaim, (LockUnit.honoured_eq_none ..).mpr hstale]
  · rcases LockUnit.honoured_of_not_orphaned hgen hstate with hhon | ⟨n, hhon⟩ <;> rw [LockUnit.reclaim, hhon]

/-- RECLAIM of an orphan by the supervisor (R77, R78). -/
theorem reclaim_takesTheOrphan {s : State} {h : Handle} {c : Claim} {n : Nat} {a : Bool}
    (hreq : s.request s.supervisor = some (.reclaim h)) (hc : s.locks.entry h.slot = ⟨h.gen, .orphaned c n a⟩)
    (hnone : ∀ j : LockSlot, ∀ d ∈ (s.locks.entry j).state.waiting?, d.owner ≠ s.supervisor) :
    ∃ t, exec (.reclaim s.supervisor) s = .next t
      ∧ LockAnswered s t s.supervisor .ok (handleDetail h.slot (h.gen + 1)) ∧ t.events = s.events
      ∧ t.announcements = s.announcements ++ [⟨c.first, c.count⟩]
      ∧ t.locks = s.locks.setEntry h.slot ⟨h.gen + 1, .held { c with owner := s.supervisor, leaseLeft := c.leaseLen }⟩ := by
  have hexec := exec_reclaim hreq
  rw [LockUnit.reclaim_of_orphan hc ((s.locks.waitingOf_eq_none_iff _).mpr hnone)] at hexec
  refine ⟨_, hexec, ?_, by simp, by simp [Claim.range], by simp [Claim.fullLease]⟩
  rw [← encode_eq_handleDetail]
  exact State.lockAnswer_lockAnswered hreq _

/-! ### O36: FORCE_RELEASE -/

theorem exec_forceRelease {s : State} {k : LockSlot} (hreq : s.request s.supervisor = some (.forceRelease k)) :
    exec (.forceRelease s.supervisor) s = .next (s.lockAnswer s.supervisor (s.locks.forceRelease s.supervisor k)) := by
  show execForceRelease s.supervisor s = _
  rw [execForceRelease, hreq]
  exact if_pos rfl

theorem exec_forceRelease_of_other {s : State} {p : Port} {k : LockSlot} (hreq : s.request p = some (.forceRelease k))
    (hp : p ≠ s.supervisor) : exec (.forceRelease p) s = .next (s.answer p .notSupervisor none []) := by
  show execForceRelease p s = _
  rw [execForceRelease, hreq]
  exact if_neg hp

/-- The notice of an entry that the supervisor ends, by the entry's state (Table 4.4, R79). -/
def forcedNotice (sup : Port) (h : Handle) : EntryState → List Handed
  | .free => []
  | .waiting c _ => [(c.owner, .lockWaitEnded h .forced)]
  | .held c => [(c.owner, .lockBroken h .forced)]
  | .orphaned c _ _ => [(sup, .lockOrphanReleased h c.owner .forced)]

/-- The range announced when an entry ends: that of a standing entry (R36). -/
def EntryState.rangeReleased (e : EntryState) : List GranuleRange := (e.standing?.map Claim.range).toList

/-- FORCE_RELEASE of an entry outside FREE, whatever its state, is a release with its sweep (R79). -/
theorem LockUnit.forceRelease_of_claim {u : LockUnit} {k : LockSlot} {c : Claim} (sup : Port)
    (hc : (u.entry k).state.claim? = some c) :
    u.forceRelease sup k = ⟨u.releaseAndSweep k (forcedNotice sup (u.handleAt k) (u.entry k).state)
      (u.entry k).state.rangeReleased, .ok, none⟩ := by
  unfold LockUnit.forceRelease
  cases he : (u.entry k).state with
  | free =>
    rw [he] at hc
    cases hc
  | waiting d n => rfl
  | held d => rfl
  | orphaned d n a => rfl

/-- FORCE_RELEASE by the supervisor of an entry outside FREE: its answer, the table, the notice before the sweep's, the range. -/
theorem forceRelease_endsTheEntry {s : State} {k : LockSlot} {c : Claim}
    (hreq : s.request s.supervisor = some (.forceRelease k)) (hc : (s.locks.entry k).state.claim? = some c) :
    ∃ t, exec (.forceRelease s.supervisor) s = .next t ∧ LockAnswered s t s.supervisor .ok none
      ∧ t.locks = (s.locks.release k).sweep.1
      ∧ t.announcements = s.announcements ++ (s.locks.entry k).state.rangeReleased
      ∧ t.events = joined s.events
        (forcedNotice s.supervisor (s.locks.handleAt k) (s.locks.entry k).state ++ (s.locks.release k).sweep.2) := by
  have hexec := exec_forceRelease hreq
  rw [LockUnit.forceRelease_of_claim _ hc] at hexec
  exact ⟨_, hexec, State.lockAnswer_lockAnswered hreq _, by simp, by simp, by simp⟩

/-- Settles O36, row by row of Tables 4.3 and 4.4. -/
theorem supervisorReclaimsAndForces : Obligations.SupervisorReclaimsAndForces := by
  refine ⟨fun s p h hreq => ⟨fun hp => exec_notSupervisor hreq (exec_reclaim_of_other hreq hp), ?_⟩,
    fun s p k hreq => ⟨fun hp => exec_notSupervisor hreq (exec_forceRelease_of_other hreq hp), ?_⟩⟩
  · rintro rfl
    obtain ⟨hstale, hstands⟩ := reclaim_refusesOthers hreq
    refine ⟨hstale, hstands, fun c n a hc => ⟨fun w hw => ?_, reclaim_takesTheOrphan hreq hc⟩⟩
    exact exec_lockRefused hreq (exec_reclaim hreq) (LockUnit.reclaim_of_waiting hc hw)
  · rintro rfl
    refine ⟨fun hfree => exec_lockRefused hreq (exec_forceRelease hreq) ?_, fun c hc => ?_⟩
    · simp only [LockUnit.forceRelease, hfree]
    · obtain ⟨t, hexec, hanswered, hlocks, hannounced, hevents⟩ := forceRelease_endsTheEntry hreq hc
      refine ⟨t, hexec, hanswered, by rw [hlocks, s.locks.entry_release_sweep], hlocks, fun n he => ?_, fun he => ?_,
        fun n a he => ?_⟩ <;> rw [he] at hannounced hevents
      · exact ⟨hannounced.trans (List.append_nil _), hevents.trans (joined_cons ..)⟩
      · exact ⟨hannounced, hevents.trans (joined_cons ..)⟩
      · exact ⟨hannounced, hevents.trans (joined_cons ..)⟩

end Sys2Proof.Machine
end

section
/-! SUPPORT. O39: the Lock Unit's port-down claim (R68 to R72): what the loss of a port makes of each entry, of the waiting order, and
which events and ranges it hands on, before the sweep. -/

namespace Sys2Proof.Machine

/-! ### Lists over the slots -/

/-- A map of a list in which one element alone gives something. -/
theorem filterMap_eq_singleton {α β : Type} {f : α → Option β} {l : List α} {x : α} {y : β} (hnodup : l.Nodup) (hx : x ∈ l)
    (hf : f x = some y) (hnone : ∀ z ∈ l, z ≠ x → f z = none) : l.filterMap f = [y] := by
  obtain ⟨before, after, rfl⟩ := List.append_of_mem hx
  obtain ⟨_, hafter, hdisjoint⟩ := List.nodup_append.mp hnodup
  have hnil : ∀ {m : List α}, (∀ z ∈ m, f z = none) → m.filterMap f = [] := List.filterMap_eq_nil_iff.mpr
  rw [List.filterMap_append, List.filterMap_cons, hf,
    hnil fun z hz => hnone z (by simp [hz]) (hdisjoint z hz x (by simp)),
    hnil fun z hz => hnone z (by simp [hz]) fun hzx => (List.nodup_cons.mp hafter).1 (hzx ▸ hz)]
  rfl

/-- A flat map over the elements that pass a test, when the others give nothing, is the flat map over all. -/
theorem flatMap_filter_of_nil {α β : Type} {P : α → Bool} {f : α → List β} {l : List α}
    (h : ∀ x ∈ l, x ∉ l.filter P → f x = []) : (l.filter P).flatMap f = l.flatMap f := by
  have hnil : ∀ x ∈ l, P x = false → f x = [] := fun x hx hP => h x hx fun hmem => by simp [hP] at hmem
  clear h
  induction l with
  | nil => rfl
  | cons x rest ih =>
    obtain ⟨hx, hrest⟩ := List.forall_mem_cons.mp hnil
    cases hP : P x with
    | true => simp [hP, ih hrest]
    | false => simp [hP, ih hrest, hx hP]

/-- The same of a partial map. -/
theorem filterMap_filter_of_none {α β : Type} {P : α → Bool} {f : α → Option β} {l : List α}
    (h : ∀ x ∈ l, x ∉ l.filter P → f x = none) : (l.filter P).filterMap f = l.filterMap f := by
  rw [List.filterMap_filter]
  refine List.filterMap_congr fun x hx => ?_
  split
  · rfl
  · next hP => exact (h x hx fun hmem => hP (List.mem_filter.mp hmem).2).symm

theorem allLockSlots_nodup : allLockSlots.Nodup := List.nodup_finRange 32

/-! ### What the loss of a port makes of one entry -/

/-- The event of a WAITING entry of the port (R69). -/
def waitEndedByLoss (p : Port) (k : LockSlot) (e : LockEntry) : Option Handed :=
  e.state.waiting?.bind fun c => if c.owner = p then some (p, .lockWaitEnded ⟨k, e.gen⟩ .portDown) else none

/-- The events of a HELD entry of the port (R70, R71). -/
def heldLossEvents (p : Port) (loss : Loss) (hold : Nat) (sup : Port) (k : LockSlot) (e : LockEntry) : List Handed :=
  match e.state.held? with
  | none => []
  | some c => if c.owner ≠ p then []
    else if hold = 0 then [(p, .lockBroken ⟨k, e.gen⟩ .orphanExpired), (sup, .lockOrphanReleased ⟨k, e.gen⟩ p .orphanExpired)]
    else [(sup, .lockOrphaned ⟨k, e.gen⟩ p (decide (loss = .soft)))]

/-- The range of a HELD entry of the port (R71). -/
def heldRange (p : Port) (e : LockEntry) : Option GranuleRange :=
  e.state.held?.bind fun c => if c.owner = p then some c.range else none

/-- The entry is WAITING for the port. -/
def LockEntry.WaitsFor (e : LockEntry) (p : Port) : Prop := ∃ c ∈ e.state.waiting?, c.owner = p

/-- The entry is HELD by the port. -/
def LockEntry.HeldBy (e : LockEntry) (p : Port) : Prop := ∃ c ∈ e.state.held?, c.owner = p

theorem LockEntry.waitsFor_iff (e : LockEntry) (p : Port) : e.WaitsFor p ↔ ∃ c n, e.state = .waiting c n ∧ c.owner = p := by
  cases h : e.state <;> simp [LockEntry.WaitsFor, EntryState.waiting?, h]

theorem LockEntry.heldBy_iff (e : LockEntry) (p : Port) : e.HeldBy p ↔ ∃ c, e.state = .held c ∧ c.owner = p := by
  cases h : e.state <;> simp [LockEntry.HeldBy, EntryState.held?, h]

theorem waitEndedByLoss_of_waitsFor {p : Port} {e : LockEntry} (k : LockSlot) (h : e.WaitsFor p) :
    waitEndedByLoss p k e = some (p, .lockWaitEnded ⟨k, e.gen⟩ .portDown) := by
  obtain ⟨c, hc, howner⟩ := h
  rw [waitEndedByLoss, hc]
  exact if_pos howner

theorem waitEndedByLoss_of_not {p : Port} {e : LockEntry} (k : LockSlot) (h : ¬e.WaitsFor p) : waitEndedByLoss p k e = none := by
  rw [waitEndedByLoss]
  cases hc : e.state.waiting? with
  | none => rfl
  | some c => exact if_neg fun howner => h ⟨c, hc, howner⟩

theorem heldLossEvents_of_not {p : Port} {e : LockEntry} (loss : Loss) (hold : Nat) (sup : Port) (k : LockSlot)
    (h : ¬e.HeldBy p) : heldLossEvents p loss hold sup k e = [] := by
  rw [heldLossEvents]
  cases hc : e.state.held? with
  | none => rfl
  | some c => exact if_pos fun howner => h ⟨c, hc, howner⟩

theorem heldRange_of_not {p : Port} {e : LockEntry} (h : ¬e.HeldBy p) : heldRange p e = none := by
  rw [heldRange]
  cases hc : e.state.held? with
  | none => rfl
  | some c => exact if_neg fun howner => h ⟨c, hc, howner⟩

/-- An entry of the port HELD or WAITING is changed; every other stays. -/
theorem entryAfterLoss_of_not {p : Port} {e : LockEntry} (loss : Loss) (hold : Nat) (hw : ¬e.WaitsFor p) (hh : ¬e.HeldBy p) :
    entryAfterLoss p loss hold e = e := by
  rw [LockEntry.waitsFor_iff] at hw
  rw [LockEntry.heldBy_iff] at hh
  unfold entryAfterLoss
  split
  · next c n hc => exact if_neg fun howner => hw ⟨c, n, hc, howner⟩
  · next c hc => exact if_neg fun howner => hh ⟨c, hc, howner⟩
  · rfl
  · rfl

theorem entryAfterLoss_of_waitsFor {p : Port} {e : LockEntry} (loss : Loss) (hold : Nat) (h : e.WaitsFor p) :
    entryAfterLoss p loss hold e = ⟨e.gen + 1, .free⟩ := by
  obtain ⟨c, n, hc, howner⟩ := (e.waitsFor_iff p).mp h
  simp [entryAfterLoss, hc, howner]

theorem entryAfterLoss_of_held {p : Port} {e : LockEntry} {c : Claim} (loss : Loss) (hold : Nat) (hc : e.state = .held c)
    (howner : c.owner = p) : entryAfterLoss p loss hold e
      = if hold = 0 then ⟨e.gen + 1, .free⟩ else ⟨e.gen, .orphaned c hold (decide (loss = .soft))⟩ := by
  simp [entryAfterLoss, hc, howner]

/-- The entries that the loss makes FREE: the WAITING one, and with ORPHAN_HOLD 0 the HELD ones (R69, R71). -/
theorem entryAfterLoss_freed_iff (p : Port) (loss : Loss) (hold : Nat) (e : LockEntry) :
    (entryAfterLoss p loss hold e).state = .free ∧ e.state ≠ .free ↔ e.WaitsFor p ∨ hold = 0 ∧ e.HeldBy p := by
  by_cases hw : e.WaitsFor p
  · rw [entryAfterLoss_of_waitsFor loss hold hw]
    obtain ⟨c, n, hc, _⟩ := (e.waitsFor_iff p).mp hw
    simp [hw, hc]
  by_cases hh : e.HeldBy p
  · obtain ⟨c, hc, howner⟩ := (e.heldBy_iff p).mp hh
    rw [entryAfterLoss_of_held loss hold hc howner]
    by_cases hz : hold = 0 <;> simp [hw, hh, hc, hz]
  · rw [entryAfterLoss_of_not loss hold hw hh]
    simp [hw, hh]

/-! ### The WAITING entry (R69) -/

/-- What a port's loss leaves of the table, and hands on, once its WAITING entry is removed. -/
structure WaitRemoved (p : Port) (u v : LockUnit) (events : List Handed) : Prop where
  removed : ∀ k, (u.entry k).WaitsFor p → v.entry k = ⟨(u.entry k).gen + 1, .free⟩
  kept : ∀ k, ¬(u.entry k).WaitsFor p → v.entry k = u.entry k
  order : v.order = u.order.filter fun k => (u.entry k).state.waiting?.all fun c => decide (c.owner ≠ p)
  events : events = allLockSlots.filterMap fun k => waitEndedByLoss p k (u.entry k)

/-- The test that the waiting order is cut by: the entry does not wait for the port. -/
theorem LockEntry.not_waitsFor_iff (e : LockEntry) (p : Port) :
    (e.state.waiting?.all fun c => decide (c.owner ≠ p)) = true ↔ ¬e.WaitsFor p := by
  cases h : e.state.waiting? <;> simp [LockEntry.WaitsFor, h]

/-- Where law 1 holds, a port's one WAITING entry is removed, or it has none. -/
theorem LockUnit.oneWaitEach.waitRemoved {u : LockUnit} (h : u.oneWaitEach) (p : Port) :
    WaitRemoved p u (u.removeWaiting p).1 (u.removeWaiting p).2 := by
  cases hw : u.waitingOf p with
  | none =>
    have hnot : ∀ k, ¬(u.entry k).WaitsFor p := fun k ⟨c, hc, howner⟩ => (u.waitingOf_eq_none_iff p).mp hw k c hc howner
    simp only [LockUnit.removeWaiting, hw]
    refine ⟨fun k hk => absurd hk (hnot k), fun _ _ => rfl, ?_, ?_⟩
    · exact (List.filter_eq_self.mpr fun k _ => ((u.entry k).not_waitsFor_iff p).mpr (hnot k)).symm
    · exact (List.filterMap_eq_nil_iff.mpr fun k _ => waitEndedByLoss_of_not k (hnot k)).symm
  | some k =>
    obtain ⟨hk, _⟩ := (u.waitingOf_eq_some_iff p k).mp hw
    have honly : ∀ j, (u.entry j).WaitsFor p → j = k := by
      rintro j ⟨c, hc, rfl⟩
      exact Option.some.inj ((h.waitingOf hc).symm.trans hw)
    simp only [LockUnit.removeWaiting, hw]
    refine ⟨fun j hj => ?_, fun j hj => u.entry_release_other fun hjk => hj (hjk ▸ hk), ?_, ?_⟩
    · rw [honly j hj, u.entry_release_self]
    · refine List.filter_congr fun j _ => Bool.eq_iff_iff.mpr ?_
      rw [(u.entry j).not_waitsFor_iff p, bne_iff_ne]
      exact not_congr ⟨fun hjk => hjk ▸ hk, honly j⟩
    · exact (filterMap_eq_singleton allLockSlots_nodup (mem_allLockSlots k) (waitEndedByLoss_of_waitsFor k hk)
        fun j _ hj => waitEndedByLoss_of_not j fun hw => hj (honly j hw)).symm

/-! ### The HELD entries (R70, R71) -/

/-- Step 2 of R68 on some HELD entries: orphaned, or released when ORPHAN_HOLD is 0. -/
def LockUnit.loseHeld (u : LockUnit) (loss : Loss) (hold : Nat) (sup : Port) (ks : List LockSlot) : LockEffect :=
  if hold = 0 then u.breakAll sup ks else ⟨(u.orphanAll loss hold sup ks).1, (u.orphanAll loss hold sup ks).2, []⟩

/-- Steps 1 and 2 of R68, one after the other. -/
theorem LockUnit.loseEntries_eq (u : LockUnit) (p : Port) (loss : Loss) (hold : Nat) (sup : Port) :
    u.loseEntries p loss hold sup
      = ⟨((u.removeWaiting p).1.loseHeld loss hold sup ((u.removeWaiting p).1.heldBy p)).unit,
        (u.removeWaiting p).2 ++ ((u.removeWaiting p).1.loseHeld loss hold sup ((u.removeWaiting p).1.heldBy p)).events,
        ((u.removeWaiting p).1.loseHeld loss hold sup ((u.removeWaiting p).1.heldBy p)).released⟩ := by
  unfold LockUnit.loseEntries LockUnit.loseHeld
  dsimp only
  split <;> rfl

theorem LockUnit.loseHeld_nil (u : LockUnit) (loss : Loss) (hold : Nat) (sup : Port) :
    u.loseHeld loss hold sup [] = ⟨u, [], []⟩ := by
  unfold LockUnit.loseHeld
  split <;> rfl

/-- The first of some HELD entries, in no waiting order, is lost, and the others after it. -/
theorem LockUnit.loseHeld_cons {u : LockUnit} {p : Port} {k : LockSlot} (loss : Loss) (hold : Nat) (sup : Port)
    (rest : List LockSlot) (hheld : (u.entry k).HeldBy p) (horder : k ∉ u.order) :
    u.loseHeld loss hold sup (k :: rest)
      = ⟨((u.setEntry k (entryAfterLoss p loss hold (u.entry k))).loseHeld loss hold sup rest).unit,
        heldLossEvents p loss hold sup k (u.entry k)
          ++ ((u.setEntry k (entryAfterLoss p loss hold (u.entry k))).loseHeld loss hold sup rest).events,
        (if hold = 0 then (heldRange p (u.entry k)).toList else [])
          ++ ((u.setEntry k (entryAfterLoss p loss hold (u.entry k))).loseHeld loss hold sup rest).released⟩ := by
  obtain ⟨c, hc, rfl⟩ := ((u.entry k).heldBy_iff p).mp hheld
  have hrelease : u.release k = u.setEntry k ⟨(u.entry k).gen + 1, .free⟩ := by
    have hfilter : u.order.filter (fun j => j != k) = u.order :=
      List.filter_eq_self.mpr fun j hj => bne_iff_ne.mpr fun hjk => horder (hjk ▸ hj)
    rw [LockUnit.release, hfilter]
    rfl
  rw [entryAfterLoss_of_held loss hold hc rfl]
  by_cases hz : hold = 0
  · simp [LockUnit.loseHeld, LockUnit.breakAll, LockUnit.breakHeld, heldLossEvents, heldRange, EntryState.held?,
      LockUnit.handleAt, hz, hc, hrelease]
  · simp [LockUnit.loseHeld, LockUnit.orphanAll, LockUnit.orphan, heldLossEvents, EntryState.held?, LockUnit.handleAt,
      LockUnit.place_eq, hz, hc]

/-- What the loss of some entries HELD by a port makes of a table, and hands on. -/
structure HeldLost (p : Port) (loss : Loss) (hold : Nat) (sup : Port) (ks : List LockSlot) (u : LockUnit) (e : LockEffect) :
    Prop where
  lost : ∀ k ∈ ks, e.unit.entry k = entryAfterLoss p loss hold (u.entry k)
  kept : ∀ k, k ∉ ks → e.unit.entry k = u.entry k
  order : e.unit.order = u.order
  events : e.events = ks.flatMap fun k => heldLossEvents p loss hold sup k (u.entry k)
  released : e.released = if hold = 0 then ks.filterMap fun k => heldRange p (u.entry k) else []

theorem LockUnit.heldLost {u : LockUnit} {p : Port} (loss : Loss) (hold : Nat) (sup : Port) {ks : List LockSlot}
    (hnodup : ks.Nodup) (hheld : ∀ k ∈ ks, (u.entry k).HeldBy p) (horder : ∀ k ∈ ks, k ∉ u.order) :
    HeldLost p loss hold sup ks u (u.loseHeld loss hold sup ks) := by
  induction ks generalizing u with
  | nil =>
    rw [LockUnit.loseHeld_nil]
    exact ⟨nofun, fun _ _ => rfl, rfl, rfl, by simp⟩
  | cons k rest ih =>
    obtain ⟨hk, hrest⟩ := List.nodup_cons.mp hnodup
    obtain ⟨hkheld, hrheld⟩ := List.forall_mem_cons.mp hheld
    obtain ⟨hkorder, hrorder⟩ := List.forall_mem_cons.mp horder
    rw [LockUnit.loseHeld_cons loss hold sup rest hkheld hkorder]
    generalize hv : u.setEntry k (entryAfterLoss p loss hold (u.entry k)) = v
    have hself : v.entry k = entryAfterLoss p loss hold (u.entry k) := hv ▸ u.entry_setEntry_self ..
    have hother : ∀ j, j ≠ k → v.entry j = u.entry j := fun j hj => hv ▸ u.entry_setEntry_other _ hj
    have hvrest : ∀ j ∈ rest, v.entry j = u.entry j := fun j hj => hother j fun hjk => hk (hjk ▸ hj)
    have hvorder : v.order = u.order := hv ▸ rfl
    obtain ⟨hlost, hkept, hord, hevents, hreleased⟩ :=
      ih hrest (fun j hj => hvrest j hj ▸ hrheld j hj) fun j hj => hvorder ▸ hrorder j hj
    refine ⟨fun j hj => ?_, fun j hj => ?_, hord.trans hvorder, ?_, ?_⟩
    · rcases List.mem_cons.mp hj with rfl | hj
      · exact (hkept _ hk).trans hself
      · exact (hlost j hj).trans (by rw [hvrest j hj])
    · obtain ⟨hjk, hjr⟩ := not_or.mp (List.mem_cons.not.mp hj)
      exact (hkept j hjr).trans (hother j hjk)
    · rw [hevents, List.flatMap_cons, List.flatMap_congr fun j hj => by rw [hvrest j hj]]
    · dsimp only
      rw [hreleased, List.filterMap_congr fun j hj => by rw [hvrest j hj]]
      by_cases hz : hold = 0
      · cases hr : heldRange p (u.entry k) <;> simp [hz, hr]
      · simp [hz]

/-- The slots taken are those of the port's HELD entries. -/
theorem LockUnit.mem_heldBy (u : LockUnit) (p : Port) (k : LockSlot) : k ∈ u.heldBy p ↔ (u.entry k).HeldBy p := by
  simp only [LockUnit.heldBy, List.mem_filter, mem_allLockSlots, true_and, LockEntry.HeldBy]
  cases (u.entry k).state.held? <;> simp

theorem LockUnit.heldBy_nodup (u : LockUnit) (p : Port) : (u.heldBy p).Nodup := allLockSlots_nodup.filter _

theorem LockUnit.not_heldBy_of_not_mem {u : LockUnit} {p : Port} {k : LockSlot} (h : k ∉ u.heldBy p) :
    ¬(u.entry k).HeldBy p := fun hk => h ((u.mem_heldBy p k).mpr hk)

/-- The events of the port's HELD entries, read over all slots: the others give none. -/
theorem LockUnit.flatMap_heldBy (u : LockUnit) (p : Port) (loss : Loss) (hold : Nat) (sup : Port) :
    ((u.heldBy p).flatMap fun k => heldLossEvents p loss hold sup k (u.entry k))
      = allLockSlots.flatMap fun k => heldLossEvents p loss hold sup k (u.entry k) :=
  flatMap_filter_of_nil fun _ _ hk => heldLossEvents_of_not _ _ _ _ (LockUnit.not_heldBy_of_not_mem hk)

/-- Their ranges, read over all slots. -/
theorem LockUnit.filterMap_heldBy (u : LockUnit) (p : Port) :
    ((u.heldBy p).filterMap fun k => heldRange p (u.entry k)) = allLockSlots.filterMap fun k => heldRange p (u.entry k) :=
  filterMap_filter_of_none fun _ _ hk => heldRange_of_not (LockUnit.not_heldBy_of_not_mem hk)

/-! ### Both, before the sweep (steps 1 and 2 of R68) -/

/-- What the loss of a port makes of a table before the sweep, and hands on, read entry by entry. -/
structure EntriesLost (p : Port) (loss : Loss) (hold : Nat) (sup : Port) (u : LockUnit) (e : LockEffect) : Prop where
  entry : ∀ k, e.unit.entry k = entryAfterLoss p loss hold (u.entry k)
  order : e.unit.order = u.order.filter fun k => (u.entry k).state.waiting?.all fun c => decide (c.owner ≠ p)
  events : e.events = (allLockSlots.filterMap fun k => waitEndedByLoss p k (u.entry k))
    ++ allLockSlots.flatMap fun k => heldLossEvents p loss hold sup k (u.entry k)
  released : e.released = if hold = 0 then allLockSlots.filterMap fun k => heldRange p (u.entry k) else []

theorem LockEntry.HeldBy.not_waitsFor {e : LockEntry} {p : Port} (h : e.HeldBy p) : ¬e.WaitsFor p := fun hw => by
  obtain ⟨c, hc, _⟩ := (e.heldBy_iff p).mp h
  obtain ⟨d, n, hd, _⟩ := (e.waitsFor_iff p).mp hw
  rw [hc] at hd
  cases hd

/-- An entry removed was not HELD, and is not. -/
theorem WaitRemoved.entry_or {p : Port} {u v : LockUnit} {l : List Handed} (h : WaitRemoved p u v l) (k : LockSlot) :
    v.entry k = u.entry k ∨ ¬(v.entry k).HeldBy p ∧ ¬(u.entry k).HeldBy p := by
  by_cases hw : (u.entry k).WaitsFor p
  · refine .inr ⟨fun hh => ?_, fun hh => hh.not_waitsFor hw⟩
    rw [h.removed k hw] at hh
    obtain ⟨c, hc, _⟩ := hh
    cases hc
  · exact .inl (h.kept k hw)

/-- The loss of a port's entries does to a lawful table what R69 to R71 say. -/
theorem LockUnit.lawful.entriesLost {u : LockUnit} (h : u.lawful) (p : Port) (loss : Loss) (hold : Nat) (sup : Port) :
    EntriesLost p loss hold sup u (u.loseEntries p loss hold sup) := by
  obtain ⟨_, _, ⟨_, hwaits⟩, hone⟩ := h
  have hw := hone.waitRemoved p
  rw [LockUnit.loseEntries_eq]
  generalize (u.removeWaiting p).1 = v at hw ⊢
  have hheld : ∀ k ∈ v.heldBy p, v.entry k = u.entry k ∧ (u.entry k).HeldBy p := fun k hk => by
    have hk := (v.mem_heldBy p k).mp hk
    have hkept := (hw.entry_or k).resolve_right fun hnot => hnot.1 hk
    exact ⟨hkept, hkept ▸ hk⟩
  have horder : ∀ k ∈ v.heldBy p, k ∉ v.order := fun k hk hkv => by
    obtain ⟨c, hc, _⟩ := ((u.entry k).heldBy_iff p).mp (hheld k hk).2
    rw [hw.order] at hkv
    have hwaiting := (hwaits k).mp (List.mem_filter.mp hkv).1
    rw [hc] at hwaiting
    cases hwaiting
  have hl := LockUnit.heldLost (u := v) loss hold sup (v.heldBy_nodup p) (fun k hk => (v.mem_heldBy p k).mp hk) horder
  refine ⟨fun k => ?_, hl.order.trans hw.order, ?_, ?_⟩
  · by_cases hk : k ∈ v.heldBy p
    · exact (hl.lost k hk).trans (by rw [(hheld k hk).1])
    · refine (hl.kept k hk).trans ?_
      by_cases hwk : (u.entry k).WaitsFor p
      · rw [hw.removed k hwk, entryAfterLoss_of_waitsFor loss hold hwk]
      · have hnot := LockUnit.not_heldBy_of_not_mem hk
        rw [hw.kept k hwk] at hnot ⊢
        rw [entryAfterLoss_of_not loss hold hwk hnot]
  · dsimp only
    rw [hl.events, hw.events, v.flatMap_heldBy]
    refine congrArg (_ ++ ·) (List.flatMap_congr fun k _ => ?_)
    rcases hw.entry_or k with heq | ⟨hv, hu⟩
    · rw [heq]
    · rw [heldLossEvents_of_not _ _ _ _ hv, heldLossEvents_of_not _ _ _ _ hu]
  · dsimp only
    rw [hl.released, v.filterMap_heldBy]
    refine congrArg (if hold = 0 then · else []) (List.filterMap_congr fun k _ => ?_)
    rcases hw.entry_or k with heq | ⟨hv, hu⟩
    · rw [heq]
    · rw [heldRange_of_not hv, heldRange_of_not hu]

/-! ### The sweep (step 3 of R68) -/

/-- An entry has gone FREE between two tables. -/
def LockUnit.Freed (u v : LockUnit) : Prop := ∃ k : LockSlot, (v.entry k).state = .free ∧ (u.entry k).state ≠ .free

/-- The test before the sweep finds exactly that an entry went FREE. -/
theorem EntriesLost.sweeps_iff {p : Port} {loss : Loss} {hold : Nat} {sup : Port} {u : LockUnit} {e : LockEffect}
    (h : EntriesLost p loss hold sup u e) : (u.waitingOf p).isSome = true ∨ e.released ≠ [] ↔ u.Freed e.unit := by
  have hfreed : u.Freed e.unit ↔ ∃ k, (u.entry k).WaitsFor p ∨ hold = 0 ∧ (u.entry k).HeldBy p :=
    exists_congr fun k => by rw [h.entry, entryAfterLoss_freed_iff]
  have hwait : (u.waitingOf p).isSome = true ↔ ∃ k, (u.entry k).WaitsFor p := by
    rw [← Option.ne_none_iff_isSome, Ne, u.waitingOf_eq_none_iff]
    simp [LockEntry.WaitsFor]
  have hheld : e.released ≠ [] ↔ ∃ k, hold = 0 ∧ (u.entry k).HeldBy p := by
    rw [h.released]
    by_cases hz : hold = 0
    · simp only [hz, if_true, Ne, List.filterMap_eq_nil_iff, mem_allLockSlots, true_implies, true_and, not_forall]
      refine exists_congr fun k => ⟨not_imp_comm.mp heldRange_of_not, fun ⟨c, hc, howner⟩ hnone => ?_⟩
      rw [heldRange, hc, Option.bind_some, if_pos howner] at hnone
      cases hnone
    · simp [hz]
  rw [hfreed, hwait, hheld, exists_or]

/-- Step 3 of R68, after what steps 1 and 2 made of a table u: one sweep exactly when an entry went FREE in them. -/
structure SweptIfFreed (u : LockUnit) (e e' : LockEffect) (grants : List Handed) : Prop where
  granted : ∀ g ∈ grants, ∃ x, g.2 = .lockGranted x
  swept : u.Freed e.unit → (e'.unit, grants) = e.unit.sweep
  unswept : ¬u.Freed e.unit → e'.unit = e.unit ∧ grants = []
  events : e'.events = e.events ++ grants
  released : e'.released = e.released

/-- The port-down claim is steps 1 and 2 of R68, and the sweep of step 3. -/
theorem EntriesLost.portDown {p : Port} {loss : Loss} {hold : Nat} {sup : Port} {u : LockUnit}
    (h : EntriesLost p loss hold sup u (u.loseEntries p loss hold sup)) :
    ∃ grants, SweptIfFreed u (u.loseEntries p loss hold sup) (u.portDown p loss hold sup) grants := by
  have hiff := h.sweeps_iff
  unfold LockUnit.portDown
  dsimp only
  split
  · next hsweep =>
    exact ⟨_, sweepFrom_events _ _ _, fun _ => rfl, fun hnot => absurd (hiff.mp hsweep) hnot, rfl, rfl⟩
  · next hsweep =>
    exact ⟨[], nofun, fun hfreed => absurd (hiff.mpr hfreed) hsweep, fun _ => ⟨rfl, rfl⟩, (List.append_nil _).symm, rfl⟩

theorem SweptIfFreed.unit_or {u : LockUnit} {e e' : LockEffect} {grants : List Handed} (h : SweptIfFreed u e e' grants) :
    e'.unit = e.unit.sweep.1 ∨ e'.unit = e.unit := by
  by_cases hfreed : u.Freed e.unit
  · exact .inl (congrArg Prod.fst (h.swept hfreed))
  · exact .inr (h.unswept hfreed).1

theorem SweptIfFreed.entry_of_not_waiting {u : LockUnit} {e e' : LockEffect} {grants : List Handed}
    (h : SweptIfFreed u e e' grants) {k : LockSlot} (hk : (e.unit.entry k).state.waiting? = none) :
    e'.unit.entry k = e.unit.entry k := by
  rcases h.unit_or with heq | heq <;> rw [heq]
  exact e.unit.entry_sweep_of_not_waiting k hk

theorem SweptIfFreed.order_subset {u : LockUnit} {e e' : LockEffect} {grants : List Handed}
    (h : SweptIfFreed u e e' grants) : e'.unit.order ⊆ e.unit.order := by
  rcases h.unit_or with heq | heq <;> rw [heq]
  · exact e.unit.order_sweep_sublist.subset
  · exact List.Subset.refl _

/-! ### O39 -/

theorem exec_lockPortDown {s : State} {p : Port} {loss : Loss} (h : (s.portDown p).lock = some loss) :
    exec (.lockPortDown p) s
      = .next ((s.lockEffect (s.locks.portDown p loss s.settings.orphanHold.toNat s.supervisor)).setPortDown p
        { s.portDown p with lock := none }) := by
  show execLockPortDown p s = _
  rw [execLockPortDown, State.takeLockPortDown, h]

/-- Settles O39: the table before the sweep entry by entry, and the sweep, which changes WAITING entries alone. -/
theorem lockPortDownOrphans : Obligations.LockPortDownOrphans := by
  rintro s p loss hold hlawful hloss rfl
  have hl := hlawful.entriesLost p loss s.settings.orphanHold.toNat s.supervisor
  obtain ⟨grants, hs⟩ := hl.portDown
  refine ⟨_, exec_lockPortDown hloss, ?_⟩
  generalize s.settings.orphanHold.toNat = hold at hl hs ⊢
  generalize s.locks.loseEntries p loss hold s.supervisor = e at hl hs
  generalize s.locks.portDown p loss hold s.supervisor = e' at hs ⊢
  have hentry : ∀ k x, entryAfterLoss p loss hold (s.locks.entry k) = x → x.state.waiting? = none → e'.unit.entry k = x := by
    rintro k _ rfl hk
    rw [← hl.entry] at hk ⊢
    exact hs.entry_of_not_waiting hk
  refine ⟨rfl, State.setPortDown_portDown_self .., fun q hq => State.setPortDown_portDown_other _ _ hq,
    fun k c hc howner hz => hentry k _ ?_ rfl, fun k c hc howner hz => hentry k _ ?_ rfl,
    fun k c n hc howner => ⟨hentry k _ ?_ rfl, fun hk => ?_⟩, fun k c n a hc => hentry k _ ?_ ?_,
    fun k c hc hother => hentry k _ ?_ ?_, ?_,
    e.unit, grants, hs.granted, hl.entry, hl.order, hs.swept, fun hnot => hs.unswept ?_, ?_⟩
  · rw [entryAfterLoss_of_held loss hold hc howner, if_neg hz]
  · rw [entryAfterLoss_of_held loss hold hc howner, if_pos hz]
  · exact entryAfterLoss_of_waitsFor loss hold ((LockEntry.waitsFor_iff ..).mpr ⟨c, n, hc, howner⟩)
  · have hkept := hs.order_subset hk
    rw [hl.order, List.mem_filter, LockEntry.not_waitsFor_iff, LockEntry.waitsFor_iff] at hkept
    exact hkept.2 ⟨c, n, hc, howner⟩
  · simp [entryAfterLoss, hc]
  · rw [hc]; rfl
  · simp [entryAfterLoss, hc, hother]
  · rw [hc]; rfl
  · exact congrArg (s.announcements ++ ·) (hs.released.trans hl.released)
  · rintro ⟨k, hfree, hne⟩
    exact hne (hnot k hfree)
  · exact congrArg (joined s.events) (hs.events.trans (congrArg (· ++ grants) hl.events))

end Sys2Proof.Machine
end

section
/-! SUPPORT. What an action on one channel's run may touch, and what it leaves of the other channels. -/

namespace Sys2Proof.Machine

/-! ### A change of one channel's run -/

/-- A change of channel c's run: it touches the channel's context, its hub requests that wait for a slot, its waiting access, and the
notice events handed. -/
structure RunOnly (c : Channel) (s t : State) : Prop where
  chan : ∀ d, d ≠ c → t.chan d = s.chan d
  link : ∀ p, t.link p = { s.link p with waiting := (s.link p).waiting.set c ((t.link p).waiting[c]) }
  claims : t.claims = s.claims
  arbiter : t.arbiter = { s.arbiter with waiting := s.arbiter.waiting.set c (t.waitingAccess c) }

theorem LinkController.setWaiting_same (lc : LinkController) (c : Channel) :
    lc = { lc with waiting := lc.waiting.set c lc.waiting[c] } := by simp

theorem State.arbiter_waiting_same (s : State) (c : Channel) :
    s.arbiter = { s.arbiter with waiting := s.arbiter.waiting.set c (s.waitingAccess c) } := by
  simp [State.waitingAccess]

theorem RunOnly.refl (c : Channel) (s : State) : RunOnly c s s :=
  ⟨fun _ _ => rfl, fun _ => LinkController.setWaiting_same _ c, rfl, s.arbiter_waiting_same c⟩

theorem RunOnly.trans {c : Channel} {s t u : State} (h : RunOnly c s t) (h' : RunOnly c t u) : RunOnly c s u := by
  refine ⟨fun d hd => (h'.chan d hd).trans (h.chan d hd), fun p => ?_, h'.claims.trans h.claims, ?_⟩
  · have hu := h'.link p
    rw [h.link p] at hu
    rw [Vector.set_set] at hu
    exact hu
  · have hu := h'.arbiter
    rw [h.arbiter] at hu
    rw [Vector.set_set] at hu
    exact hu

theorem RunOnly.setChan (s : State) (c : Channel) (ctx : ChannelContext) : RunOnly c s (s.setChan c ctx) :=
  ⟨fun _ hd => State.setChan_chan_other _ _ hd, fun _ => LinkController.setWaiting_same _ c, rfl, s.arbiter_waiting_same c⟩

theorem RunOnly.setWaiting (s : State) (c : Channel) (a : Option ChannelAccess) : RunOnly c s (s.setWaiting c a) := by
  refine ⟨fun _ _ => rfl, fun _ => LinkController.setWaiting_same _ c, rfl, ?_⟩
  rw [State.setWaiting_waitingAccess_self]
  rfl

theorem RunOnly.hand (s : State) (c : Channel) (l : List Handed) : RunOnly c s (s.hand l) :=
  ⟨fun _ _ => rfl, fun _ => LinkController.setWaiting_same _ c, rfl, s.arbiter_waiting_same c⟩

/-- The channel's slot waiting list at one port is replaced. -/
theorem RunOnly.setLink (s : State) (c : Channel) (p : Port) (l : List HubRequest) :
    RunOnly c s (s.setLink p { s.link p with waiting := (s.link p).waiting.set c l }) := by
  refine ⟨fun _ _ => rfl, fun q => ?_, rfl, s.arbiter_waiting_same c⟩
  by_cases hq : q = p
  · subst hq
    simp
  · rw [State.setLink_link_other _ _ hq]
    exact LinkController.setWaiting_same _ c

theorem RunOnly.handOwner (s : State) (c d : Channel) (e : NoticeEvent) : RunOnly c s (s.handOwner d e) := by
  unfold State.handOwner
  split
  · exact .hand ..
  · exact .refl c s

theorem RunOnly.handHub (s : State) (r : HubRequest) : RunOnly r.chan s (s.handHub r) := by
  unfold State.handHub
  split
  · exact .setLink ..
  · exact .refl _ s

theorem RunOnly.withdrawHub (s : State) (c : Channel) : RunOnly c s (s.withdrawHub c) := by
  unfold State.withdrawHub
  split
  · exact .setLink ..
  · exact .refl c s

theorem RunOnly.finishAborting (s : State) (c : Channel) : RunOnly c s (s.finishAborting c) := by
  unfold State.finishAborting
  split
  · split
    · exact .setChan ..
    · exact (RunOnly.setChan ..).trans (.handOwner ..)
  · exact .refl c s

theorem RunOnly.enterAborting (s : State) (c : Channel) (m : EndMode) : RunOnly c s (s.enterAborting c m) :=
  (((RunOnly.setChan ..).trans (.setWaiting ..)).trans (.withdrawHub ..)).trans (.finishAborting ..)

theorem RunOnly.faultWith (s : State) (c : Channel) (m : EndMode) (code : FaultCode) (i : Nat) (a : Option Nat) :
    RunOnly c s (s.faultWith c m code i a) := (RunOnly.setChan ..).trans (.enterAborting ..)

theorem RunOnly.faultRun (s : State) (c : Channel) (code : FaultCode) (i : Nat) (a : Option Nat) :
    RunOnly c s (s.faultRun c code i a) := .faultWith ..

theorem RunOnly.completeRun (s : State) (c : Channel) : RunOnly c s (s.completeRun c) :=
  (RunOnly.setChan ..).trans (.handOwner ..)

/-! ### Moving data -/

theorem RunOnly.createFetch (s : State) (c : Channel) (d : Descriptor) : RunOnly c s (s.createFetch c d) :=
  (RunOnly.setChan ..).trans (.handHub _ ⟨c, _, _⟩)

theorem RunOnly.createFetches (s : State) (c : Channel) (d : Descriptor) (n : Nat) :
    RunOnly c s (s.createFetches c d n) := by
  induction n generalizing s with
  | zero => exact .refl c s
  | succ n ih =>
    unfold State.createFetches
    split
    · exact (RunOnly.createFetch ..).trans (ih _)
    · exact .refl c s

theorem RunOnly.presentFirst (s : State) (c : Channel) : RunOnly c s (s.presentFirst c) := by
  unfold State.presentFirst
  split
  · split
    · exact (RunOnly.setChan ..).trans (.setWaiting ..)
    · exact .refl c s
  · exact .refl c s

theorem RunOnly.createRead (s : State) (c : Channel) (d : Descriptor) (f : Option Handle → Chunk → ChannelAccess) :
    RunOnly c s (s.createRead c d f) := (RunOnly.setChan ..).trans (.setWaiting ..)

theorem RunOnly.presentNext (s : State) (c : Channel) (d : Descriptor) : RunOnly c s (s.presentNext c d) := by
  unfold State.presentNext
  split
  · exact .presentFirst ..
  · split
    · exact .createRead ..
    · exact .refl c s
  · split
    · exact .createRead ..
    · exact .presentFirst ..
  · split
    · exact (RunOnly.setChan ..).trans (.presentFirst ..)
    · exact .presentFirst ..

theorem RunOnly.createChunks (s : State) (c : Channel) (d : Descriptor) : RunOnly c s (s.createChunks c d) := by
  unfold State.createChunks
  split
  · split
    · exact .createFetches ..
    · exact .refl c s
  all_goals exact .refl c s

theorem RunOnly.work (s : State) (c : Channel) : RunOnly c s (s.work c) := by
  unfold State.work
  split
  · exact .refl c s
  · dsimp only
    split
    · exact (RunOnly.createChunks ..).trans (.presentNext ..)
    · exact .createChunks ..

/-! ### Advancing through the list -/

theorem RunOnly.handLookahead (s : State) (c : Channel) : RunOnly c s (s.handLookahead c) :=
  (RunOnly.setChan ..).trans (.handHub _ ⟨c, _, _⟩)

theorem RunOnly.becomeCurrent (s : State) (c : Channel) (d : Descriptor) (i : Nat) :
    RunOnly c s (s.becomeCurrent c d i) := by
  unfold State.becomeCurrent
  dsimp only
  split
  · exact (RunOnly.setChan ..).trans (.work ..)
  split
  · exact (RunOnly.setChan ..).trans (.faultRun ..)
  split
  · exact ((RunOnly.setChan ..).trans (.handLookahead ..)).trans (.work ..)
  · exact ((RunOnly.setChan ..).trans (.work ..)).trans (.handLookahead ..)

theorem RunOnly.advance (s : State) (c : Channel) : RunOnly c s (s.advance c) := by
  unfold State.advance
  split
  · exact .becomeCurrent ..
  · exact .faultRun ..
  all_goals exact .refl c s

theorem RunOnly.descriptorDone (s : State) (c : Channel) (d : Descriptor) : RunOnly c s (s.descriptorDone c d) := by
  have hmark : RunOnly c s (if d.notify then s.handOwner c (.channelMark c (s.chan c).index) else s) := by
    split
    · exact .handOwner ..
    · exact .refl c s
  unfold State.descriptorDone
  dsimp only
  split
  · exact hmark.trans (.completeRun ..)
  · exact hmark.trans (.advance ..)

theorem RunOnly.progress (s : State) (c : Channel) : RunOnly c s (s.progress c) := by
  unfold State.progress
  split
  · split
    · exact .descriptorDone ..
    · exact .work ..
  · exact .refl c s

/-! ### Endings, outcomes and announcements -/

theorem RunOnly.endingInAbort (s : State) (c : Channel) (r : HubRequest) (how : Ending) :
    RunOnly c s (s.endingInAbort c r how) := by
  unfold State.endingInAbort
  split
  · exact (RunOnly.setChan ..).trans (.finishAborting ..)
  · exact .finishAborting ..

theorem RunOnly.firstEnding (s : State) (c : Channel) (how : Ending) : RunOnly c s (s.firstEnding c how) := by
  unfold State.firstEnding
  split
  · split
    · exact .becomeCurrent ..
    · exact .faultRun ..
  · exact .faultRun ..
  · exact .faultRun ..
  · exact .refl c s

theorem RunOnly.lookaheadEnding (s : State) (c : Channel) (how : Ending) : RunOnly c s (s.lookaheadEnding c how) := by
  unfold State.lookaheadEnding
  dsimp only
  split
  · exact (RunOnly.setChan ..).trans (.advance ..)
  · exact .setChan ..

theorem RunOnly.chunkFetchEnding (s : State) (c : Channel) (st : Nat) (how : Ending) :
    RunOnly c s (s.chunkFetchEnding c st how) := by
  unfold State.chunkFetchEnding
  split
  · exact (RunOnly.setChan ..).trans (.work ..)
  · exact .faultRun ..
  · exact .faultRun ..
  · exact .refl c s

theorem RunOnly.chunkStoreEnding (s : State) (c : Channel) (st : Nat) (how : Ending) :
    RunOnly c s (s.chunkStoreEnding c st how) := by
  unfold State.chunkStoreEnding
  split
  · exact (RunOnly.setChan ..).trans (.progress ..)
  · exact .faultRun ..
  · exact .faultRun ..
  · exact .refl c s

theorem RunOnly.activeEnding (s : State) (c : Channel) (r : HubRequest) (how : Ending) :
    RunOnly c s (s.activeEnding c r how) := by
  unfold State.activeEnding
  split
  · split
    · exact .firstEnding ..
    · exact .refl c s
  · split
    · exact .lookaheadEnding ..
    · exact .refl c s
  · exact .chunkFetchEnding ..
  · exact .chunkStoreEnding ..

theorem RunOnly.takeEnding (s : State) (r : HubRequest) (how : Ending) : RunOnly r.chan s (s.takeEnding r how) := by
  unfold State.takeEnding
  split
  · exact .endingInAbort ..
  split
  · exact .activeEnding ..
  · exact .refl _ s

theorem RunOnly.chanPortDown (s : State) (loss : Loss) (c : Channel) : RunOnly c s (s.chanPortDown loss c) := by
  unfold State.chanPortDown
  split
  case h_7 => exact (RunOnly.setChan ..).trans (.finishAborting ..)
  case h_8 | h_9 | h_10 => exact .setChan ..
  case h_1 | h_2 | h_3 | h_4 | h_5 | h_6 => exact .faultWith ..
  all_goals exact .refl c s

theorem RunOnly.lockRefusedChannel (s : State) (c : Channel) (a : ChannelAccess) (cls : RefusalClass) :
    RunOnly c s (s.lockRefusedChannel c a cls) := by
  unfold State.lockRefusedChannel
  split
  · exact .faultRun ..
  split
  · split
    · exact .faultRun ..
    · exact .setChan ..
  · exact .refl c s

theorem RunOnly.chunkCarriedOut (s : State) (c : Channel) (a : ChannelAccess) (data : List Word) :
    RunOnly c s (s.chunkCarriedOut c a data) := by
  unfold State.chunkCarriedOut
  split
  · exact (RunOnly.setChan ..).trans (.progress ..)
  split
  · split
    · exact ((RunOnly.setChan ..).trans (.handHub _ ⟨c, _, _⟩)).trans (.work ..)
    · exact (RunOnly.setChan ..).trans (.work ..)
  · exact .refl c s

theorem RunOnly.activeOutcome (s : State) (c : Channel) (a : ChannelAccess) (o : AccessOutcome) :
    RunOnly c s (s.activeOutcome c a o) := by
  unfold State.activeOutcome
  split
  · exact (RunOnly.setChan ..).trans (.chunkCarriedOut ..)
  · exact .faultRun ..
  · exact .lockRefusedChannel ..
  · exact .faultRun ..
  · exact .faultRun ..

theorem RunOnly.outcomeInAbort (s : State) (c : Channel) (a : ChannelAccess) (o : AccessOutcome) :
    RunOnly c s (s.outcomeInAbort c a o) := by
  unfold State.outcomeInAbort
  split
  · split
    · exact (RunOnly.setChan ..).trans (.finishAborting ..)
    · exact .finishAborting ..
  · exact .finishAborting ..

theorem RunOnly.takeOutcome (s : State) (c : Channel) (a : ChannelAccess) (o : AccessOutcome) :
    RunOnly c s (s.takeOutcome c a o) := by
  unfold State.takeOutcome
  split
  · exact .activeOutcome ..
  · exact .activeOutcome ..
  · exact .outcomeInAbort ..
  all_goals exact .refl c s

theorem RunOnly.retryStalled (s : State) (r : GranuleRange) (c : Channel) : RunOnly c s (s.retryStalled r c) := by
  unfold State.retryStalled
  split
  · split
    · refine RunOnly.trans ?_ (.setWaiting ..)
      split
      · exact .setChan ..
      · exact .refl c s
    · exact .refl c s
  · exact .refl c s

/-! ### What is in flight -/

/-- Channel c's hub requests at port p that wait for no slot any more: in a slot, or with the ending handed. -/
def State.issuedAt (s : State) (p : Port) (c : Channel) : List HubRequest :=
  (allHubSlots.filterMap fun h => ((s.link p).outstanding h).map fun o => o.req).filter (fun r => r.chan == c)
    ++ ((s.claimsOf p).filterMap ChannelClaim.request?).filter (fun r => r.chan == c)

theorem State.requestsAt_eq (s : State) (p : Port) (c : Channel) :
    s.requestsAt p c = (s.link p).waiting[c] ++ s.issuedAt p c := List.append_assoc ..

/-- Channel c's store access in progress, if it is the one granted. -/
def State.grantedAccess (s : State) (c : Channel) : Option ChannelAccess :=
  (s.arbiter.inProgress.filter fun g => g.member = .chan c).map fun g => ⟨g.chunk, g.access⟩

theorem State.grantedTo_eq_false_iff (s : State) (c : Channel) : s.grantedTo c = false ↔ s.grantedAccess c = none := by
  unfold State.grantedTo State.grantedAccess
  cases s.arbiter.inProgress <;> simp

/-- Channel c's store accesses that wait at the arbiter no more: granted, or with the outcome handed. -/
def State.takenAccesses (s : State) (c : Channel) : List ChannelAccess :=
  (s.grantedAccess c).toList ++ (s.outcomeOf c).toList.map fun o => o.1

theorem State.accessesOf_eq (s : State) (c : Channel) :
    s.accessesOf c = (s.waitingAccess c).toList ++ s.takenAccesses c := by
  unfold State.accessesOf State.takenAccesses State.grantedTo State.grantedAccess
  rw [List.append_assoc]
  cases h : s.arbiter.inProgress with
  | none => rfl
  | some g => by_cases hg : g.member = .chan c <;> simp [hg, Option.filter]

/-- What has left the waiting lists does not depend on the contexts. -/
theorem State.issuedAt_congr {s t : State} {p : Port} (hs : (t.link p).slots = (s.link p).slots)
    (hc : t.claimsOf p = s.claimsOf p) (c : Channel) : t.issuedAt p c = s.issuedAt p c := by
  simp only [State.issuedAt, LinkController.outstanding, hs, hc]

theorem State.takenAccesses_congr {s t : State} {c : Channel} (hp : t.arbiter.inProgress = s.arbiter.inProgress)
    (ho : t.outcomeOf c = s.outcomeOf c) : t.takenAccesses c = s.takenAccesses c := by
  simp only [State.takenAccesses, State.grantedAccess, hp, ho]

/-- No store access is granted, and none waits for its outcome to be taken. -/
theorem State.accessGranted_eq_false_iff (s : State) (c : Channel) :
    s.accessGranted c = false ↔ s.takenAccesses c = [] := by
  simp [State.accessGranted, State.takenAccesses, State.grantedTo_eq_false_iff]

theorem State.accessPresented_eq_false_iff (s : State) (c : Channel) :
    s.accessPresented c = false ↔ s.accessesOf c = [] := by
  rw [State.accessPresented, Bool.or_eq_false_iff, State.accessGranted_eq_false_iff, State.accessesOf_eq]
  simp

theorem RunOnly.slots {c : Channel} {s t : State} (h : RunOnly c s t) (p : Port) : (t.link p).slots = (s.link p).slots := by
  rw [h.link p]

theorem RunOnly.claimsOf {c : Channel} {s t : State} (h : RunOnly c s t) (p : Port) : t.claimsOf p = s.claimsOf p := by
  rw [State.claimsOf, h.claims, State.claimsOf]

theorem RunOnly.issuedAt {c : Channel} {s t : State} (h : RunOnly c s t) (p : Port) (d : Channel) :
    t.issuedAt p d = s.issuedAt p d := State.issuedAt_congr (h.slots p) (h.claimsOf p) d

theorem RunOnly.inProgress {c : Channel} {s t : State} (h : RunOnly c s t) : t.arbiter.inProgress = s.arbiter.inProgress := by
  rw [h.arbiter]

theorem RunOnly.outcomeOf {c : Channel} {s t : State} (h : RunOnly c s t) (d : Channel) : t.outcomeOf d = s.outcomeOf d := by
  rw [State.outcomeOf, h.arbiter, State.outcomeOf]

theorem RunOnly.takenAccesses {c : Channel} {s t : State} (h : RunOnly c s t) (d : Channel) :
    t.takenAccesses d = s.takenAccesses d := State.takenAccesses_congr h.inProgress (h.outcomeOf d)

theorem RunOnly.waiting_other {c d : Channel} {s t : State} (h : RunOnly c s t) (hd : d ≠ c) (p : Port) :
    (t.link p).waiting[d] = (s.link p).waiting[d] := by
  rw [h.link p]
  simp [Vector.getElem_set_ne, Fin.val_ne_of_ne hd.symm]

theorem RunOnly.waitingAccess_other {c d : Channel} {s t : State} (h : RunOnly c s t) (hd : d ≠ c) :
    t.waitingAccess d = s.waitingAccess d := by
  rw [State.waitingAccess, h.arbiter]
  simp [State.waitingAccess, Vector.getElem_set_ne, Fin.val_ne_of_ne hd.symm]

end Sys2Proof.Machine
end

section
/-! SUPPORT. What the Channel Engine's actions keep of a channel's context (Table 5.1, R90, R98, R112, law 9's bound of four chunks). -/

namespace Sys2Proof.Machine

/-! ### Lawful contexts, by their state -/

theorem ChannelContext.lawful.chunks_le {ctx : ChannelContext} (h : ctx.lawful) : ctx.chunks.length ≤ 4 := h.1

theorem ChannelContext.lawful.owned {ctx : ChannelContext} (h : ctx.lawful) (hi : ctx.state ≠ .idle) :
    ∃ p, ctx.owner = some p := by
  obtain ⟨_, _, howner, _⟩ := h
  exact Option.isSome_iff_exists.mp (howner hi)

theorem ChannelContext.lawful.stall_none {ctx : ChannelContext} (h : ctx.lawful) (hs : ctx.state ≠ .stalled) :
    ctx.stall = none := by
  obtain ⟨_, _, _, _, _, hstall⟩ := h
  exact hstall hs

theorem ChannelContext.lawful.fault_none {ctx : ChannelContext} (h : ctx.lawful) (ha : ctx.state.active = true) :
    ctx.fault = none := by
  obtain ⟨_, _, _, _, hfault, _⟩ := h
  exact hfault ha

theorem ChannelContext.lawful.empty {ctx : ChannelContext} (h : ctx.lawful)
    (he : ctx.state = .loading ∨ ctx.state.ended = true) : ctx.chunks = [] ∧ ctx.current = none := by
  obtain ⟨_, _, _, hempty, _⟩ := h
  exact hempty he

/-- An active channel with a current descriptor is RUNNING or STALLED. -/
theorem ChannelContext.lawful.moving {ctx : ChannelContext} (h : ctx.lawful) (ha : ctx.state.active = true)
    {d : Descriptor} (hd : ctx.current = some d) : ctx.state = .running ∨ ctx.state = .stalled := by
  cases hs : ctx.state with
  | running => exact .inl rfl
  | stalled => exact .inr rfl
  | loading => exact absurd ((h.empty (.inl hs)).2.symm.trans hd) nofun
  | idle | aborting | complete | faulted | stopped => rw [hs] at ha; cases ha

theorem ChanState.active_of_moving {st : ChanState} (h : st = .running ∨ st = .stalled) : st.active = true := by
  rcases h with rfl | rfl <;> rfl

theorem ChanState.ne_idle_of_active {st : ChanState} (h : st.active = true) : st ≠ .idle := by
  rintro rfl
  cases h

theorem ChanState.not_active_of_ended {st : ChanState} (h : st.ended = true) : st.active = false := by
  revert h
  cases st <;> decide

/-- A RUNNING or STALLED context. -/
theorem ChannelContext.lawful.of_moving {ctx : ChannelContext} (hs : ctx.state = .running ∨ ctx.state = .stalled)
    (hk : ctx.chunks.length ≤ 4) (ho : ctx.owner.isSome = true) (hf : ctx.fault = none)
    (ht : ctx.state ≠ .stalled → ctx.stall = none) : ctx.lawful := by
  refine ⟨hk, fun h => ?_, fun _ => ho, fun h => ?_, fun _ => hf, ht⟩ <;> rcases hs with hs | hs <;> rw [hs] at h
  · cases h
  · cases h
  · rcases h with h | h <;> cases h
  · rcases h with h | h <;> cases h

/-- An ABORTING context. -/
theorem ChannelContext.lawful.of_aborting {ctx : ChannelContext} (hs : ctx.state = .aborting)
    (hk : ctx.chunks.length ≤ 4) (ho : ctx.owner.isSome = true) (ht : ctx.stall = none) : ctx.lawful := by
  refine ⟨hk, fun h => ?_, fun _ => ho, fun h => ?_, fun h => ?_, fun _ => ht⟩ <;> rw [hs] at h
  · cases h
  · rcases h with h | h <;> cases h
  · cases h

/-- An ended context. -/
theorem ChannelContext.lawful.of_ended {ctx : ChannelContext} (hs : ctx.state.ended = true) (hk : ctx.chunks = [])
    (hc : ctx.current = none) (ho : ctx.owner.isSome = true) (ht : ctx.stall = none) : ctx.lawful := by
  refine ⟨by rw [hk]; exact Nat.zero_le 4, fun h => ?_, fun _ => ho, fun _ => ⟨hk, hc⟩, fun h => ?_, fun _ => ht⟩
  · rw [h] at hs
    cases hs
  · rw [ChanState.not_active_of_ended hs] at h
    cases h

/-- Chunk records changed in place. -/
theorem ChannelContext.lawful.mapChunks {ctx : ChannelContext} (h : ctx.lawful) (f : Chunk → Chunk) :
    ({ ctx with chunks := ctx.chunks.map f } : ChannelContext).lawful := by
  obtain ⟨hlen, hidle, howner, hempty, hfault, hstall⟩ := h
  refine ⟨by simpa using hlen, fun hi => ?_, howner, fun he => ?_, hfault, hstall⟩
  · rw [hidle hi]
    rfl
  · obtain ⟨hk, hc⟩ := hempty he
    exact ⟨by simp [hk], hc⟩

theorem ChannelContext.lawful.setChunkState {ctx : ChannelContext} (h : ctx.lawful) (store : Nat) (st : ChunkState) :
    (ctx.setChunkState store st).lawful := h.mapChunks _

theorem ChannelContext.lawful.fillChunk {ctx : ChannelContext} (h : ctx.lawful) (store : Nat) (data : List Word)
    (st : ChunkState) : (ctx.fillChunk store data st).lawful := h.mapChunks _

theorem ChannelContext.lawful.retire {ctx : ChannelContext} (h : ctx.lawful) (store : Nat) : (ctx.retire store).lawful := by
  unfold ChannelContext.retire
  split
  · next k hk =>
    have hne : ctx.chunks ≠ [] := fun he => by simp [ChannelContext.chunkAt, he] at hk
    obtain ⟨hlen, hidle, howner, hempty, hfault, hstall⟩ := h
    refine ⟨(List.length_filter_le ..).trans hlen, fun hi => ?_, howner, fun he => ?_, hfault, hstall⟩
    · exact absurd (by rw [hidle hi]; rfl) hne
    · exact absurd (hempty he).1 hne
  · exact h

/-- What retiring a chunk leaves of a context. -/
theorem ChannelContext.retire_eq (ctx : ChannelContext) (store : Nat) :
    ctx.retire store = { ctx with chunks := ctx.chunks.filter fun j => j.store != store
                                  bytesMoved := (ctx.retire store).bytesMoved } := by
  unfold ChannelContext.retire
  split
  · rfl
  · next hk =>
    have hall : ctx.chunks.filter (fun j => j.store != store) = ctx.chunks := by
      rw [List.filter_eq_self]
      simpa [ChannelContext.chunkAt] using hk
    rw [hall]

/-! ### The end of a run -/

@[simp] theorem State.handOwner_chan (s : State) (c d : Channel) (e : NoticeEvent) : (s.handOwner d e).chan c = s.chan c := by
  unfold State.handOwner
  split <;> rfl

@[simp] theorem State.withdrawHub_chan (s : State) (c d : Channel) : (s.withdrawHub d).chan c = s.chan c := by
  unfold State.withdrawHub
  split <;> rfl

/-- What ABORTING_END makes of a context (R101): its run's outcome, or IDLE. -/
def ChannelContext.ended (ctx : ChannelContext) : ChannelContext :=
  if ctx.endMode = some .unbind then ChannelContext.reset
  else { ctx with state := ctx.abortState, current := none, position := 0, chunks := [], endMode := none }

theorem ChannelContext.abortState_ended (ctx : ChannelContext) : ctx.abortState.ended = true := by
  unfold ChannelContext.abortState
  split <;> rfl

theorem State.finishAborting_chan (s : State) (c : Channel) :
    (s.finishAborting c).chan c = if (s.chan c).state = .aborting ∧ s.drained c = true then (s.chan c).ended else s.chan c := by
  unfold State.finishAborting ChannelContext.ended
  split
  · split
    · next hm => simp [hm]
    · next hm =>
      rw [if_neg hm]
      simp
  · rfl

theorem ChannelContext.lawful.ended {ctx : ChannelContext} (h : ctx.lawful) (hs : ctx.state = .aborting) :
    ctx.ended.lawful := by
  unfold ChannelContext.ended
  split
  · exact ChannelContext.lawful_reset
  · obtain ⟨p, hp⟩ := h.owned (by rw [hs]; exact nofun)
    exact .of_ended ctx.abortState_ended rfl rfl (by simp [hp]) (h.stall_none (by rw [hs]; exact nofun))

theorem State.lawful_finishAborting {s : State} {c : Channel} (h : (s.chan c).lawful) :
    ((s.finishAborting c).chan c).lawful := by
  rw [State.finishAborting_chan]
  split
  · next ha => exact h.ended ha.1
  · exact h

/-- A run that enters ABORTING: the context it drains with (R100). -/
def ChannelContext.drain (ctx : ChannelContext) (mode : EndMode) : ChannelContext :=
  { ctx with state := .aborting, next := none, stall := none, endMode := some mode }

/-- The state in which ENTER_ABORTING asks whether anything is in flight (R100). -/
def State.withdrawn (s : State) (c : Channel) (mode : EndMode) : State :=
  ((s.setChan c ((s.chan c).drain mode)).setWaiting c none).withdrawHub c

theorem State.enterAborting_eq (s : State) (c : Channel) (mode : EndMode) :
    s.enterAborting c mode = (s.withdrawn c mode).finishAborting c := rfl

theorem State.withdrawn_chan (s : State) (c : Channel) (mode : EndMode) :
    (s.withdrawn c mode).chan c = (s.chan c).drain mode := by
  rw [State.withdrawn, State.withdrawHub_chan]
  exact State.setChan_chan_self ..

theorem State.lawful_enterAborting {s : State} {c : Channel} (h : (s.chan c).lawful) (hi : (s.chan c).state ≠ .idle)
    (mode : EndMode) : ((s.enterAborting c mode).chan c).lawful := by
  obtain ⟨p, hp⟩ := h.owned hi
  rw [State.enterAborting_eq]
  refine State.lawful_finishAborting ?_
  rw [State.withdrawn_chan]
  exact .of_aborting rfl h.chunks_le (by simp [ChannelContext.drain, hp]) rfl

theorem State.lawful_faultWith {s : State} {c : Channel} (h : (s.chan c).lawful) (hi : (s.chan c).state ≠ .idle)
    (mode : EndMode) (code : FaultCode) (i : Nat) (a : Option Nat) : ((s.faultWith c mode code i a).chan c).lawful := by
  obtain ⟨p, hp⟩ := h.owned hi
  rw [State.faultWith, State.enterAborting_eq]
  refine State.lawful_finishAborting ?_
  rw [State.withdrawn_chan, State.setChan_chan_self]
  exact .of_aborting rfl h.chunks_le (by simp [ChannelContext.drain, hp]) rfl

theorem State.lawful_faultRun {s : State} {c : Channel} (h : (s.chan c).lawful) (ha : (s.chan c).state.active = true)
    (code : FaultCode) (i : Nat) (a : Option Nat) : ((s.faultRun c code i a).chan c).lawful :=
  State.lawful_faultWith h (ChanState.ne_idle_of_active ha) .keep code i a

theorem State.completeRun_chan (s : State) (c : Channel) : (s.completeRun c).chan c
    = { s.chan c with state := .complete, current := none, next := none, position := 0, stall := none } := by
  simp [State.completeRun]

theorem State.lawful_completeRun {s : State} {c : Channel} (h : (s.chan c).lawful) (hi : (s.chan c).state ≠ .idle)
    (hk : (s.chan c).chunks = []) : ((s.completeRun c).chan c).lawful := by
  obtain ⟨p, hp⟩ := h.owned hi
  rw [State.completeRun_chan]
  exact .of_ended rfl hk rfl (by simp [hp]) rfl

/-! ### Moving data -/

/-- A chunk more in a list with room for it. -/
theorem ChannelContext.lawful.addChunk {ctx : ChannelContext} (h : ctx.lawful)
    (hs : ctx.state = .running ∨ ctx.state = .stalled) (hk : ctx.chunks.length < 4) (k : Chunk) : (ctx.addChunk k).lawful := by
  have ha := ChanState.active_of_moving hs
  obtain ⟨p, hp⟩ := h.owned (ChanState.ne_idle_of_active ha)
  refine .of_moving hs ?_ (by simp [ChannelContext.addChunk, hp]) (h.fault_none ha) h.stall_none
  simp [ChannelContext.addChunk]
  omega

theorem State.createFetch_chan (s : State) (c : Channel) (d : Descriptor) :
    (s.createFetch c d).chan c = (s.chan c).addChunk (nextChunk d (s.chan c).position) := by
  simp [State.createFetch]

/-- Creating chunks and their FETCHes keeps a RUNNING or STALLED channel's state and its context lawful. -/
theorem State.lawful_createFetches {s : State} {c : Channel} (d : Descriptor) (n : Nat) (h : (s.chan c).lawful)
    (hs : (s.chan c).state = .running ∨ (s.chan c).state = .stalled) : ((s.createFetches c d n).chan c).lawful := by
  induction n generalizing s with
  | zero => exact h
  | succ n ih =>
    unfold State.createFetches
    split
    · next hroom =>
      refine ih ?_ ?_ <;> rw [State.createFetch_chan]
      · exact h.addChunk hs hroom.1 _
      · exact hs
    · exact h

theorem State.lawful_createChunks {s : State} {c : Channel} (d : Descriptor) (h : (s.chan c).lawful) :
    ((s.createChunks c d).chan c).lawful := by
  unfold State.createChunks
  split
  · split
    · next hs => exact State.lawful_createFetches d 4 h hs
    · exact h
  all_goals exact h

theorem State.lawful_presentFirst {s : State} {c : Channel} (h : (s.chan c).lawful) : ((s.presentFirst c).chan c).lawful := by
  unfold State.presentFirst
  split
  · split
    · exact (State.setChan_chan_self s c _).symm ▸ h.setChunkState ..
    · exact h
  · exact h

theorem State.lawful_presentNext {s : State} {c : Channel} (d : Descriptor) (h : (s.chan c).lawful)
    (hs : (s.chan c).state = .running) : ((s.presentNext c d).chan c).lawful := by
  have hadd : ∀ k, (s.chan c).chunks.length < 4 → ((s.setChan c ((s.chan c).addChunk k)).chan c).lawful := fun k hk => by
    rw [State.setChan_chan_self]
    exact h.addChunk (.inl hs) hk k
  have hnil : (s.chan c).chunks = [] → (s.chan c).chunks.length < 4 := fun he => by rw [he]; exact Nat.zero_lt_succ 3
  unfold State.presentNext
  split
  · exact State.lawful_presentFirst h
  · split
    · next hroom => exact hadd _ hroom.1
    · exact h
  · split
    · next hroom => exact hadd _ (hnil hroom.1)
    · exact State.lawful_presentFirst h
  · split
    · next hroom => exact State.lawful_presentFirst (hadd _ (hnil hroom.1))
    · exact State.lawful_presentFirst h

theorem State.lawful_work {s : State} {c : Channel} (h : (s.chan c).lawful) : ((s.work c).chan c).lawful := by
  unfold State.work
  split
  · exact h
  · next d _ =>
    have hcreated := State.lawful_createChunks d h
    dsimp only
    split
    · next hrun => exact State.lawful_presentNext d hcreated hrun.1
    · exact hcreated

/-! ### Advancing through the list -/

theorem State.handLookahead_chan (s : State) (c : Channel) :
    (s.handLookahead c).chan c = { s.chan c with next := some .fetching } := by
  simp [State.handLookahead]

/-- The next-descriptor field of a channel that is not IDLE. -/
theorem ChannelContext.lawful.setNext {ctx : ChannelContext} (h : ctx.lawful) (hi : ctx.state ≠ .idle)
    (n : Option Lookahead) : ({ ctx with next := n } : ChannelContext).lawful := by
  obtain ⟨hlen, _, howner, hempty, hfault, hstall⟩ := h
  exact ⟨hlen, fun hs => absurd hs hi, howner, hempty, hfault, hstall⟩

theorem State.lawful_handLookahead {s : State} {c : Channel} (h : (s.chan c).lawful) (hi : (s.chan c).state ≠ .idle) :
    ((s.handLookahead c).chan c).lawful := by
  rw [State.handLookahead_chan]
  exact h.setNext hi _

/-- A context that differs from another in its chunk list and its position alone. -/
def ChannelContext.DataOnly (ctx ctx' : ChannelContext) : Prop :=
  ctx' = { ctx with chunks := ctx'.chunks, position := ctx'.position }

theorem ChannelContext.DataOnly.refl (ctx : ChannelContext) : ctx.DataOnly ctx := rfl

theorem ChannelContext.DataOnly.trans {a b c : ChannelContext} (h : a.DataOnly b) (h' : b.DataOnly c) : a.DataOnly c := by
  unfold ChannelContext.DataOnly at *
  rw [h] at h'
  exact h'

theorem ChannelContext.DataOnly.state {a b : ChannelContext} (h : a.DataOnly b) : b.state = a.state := by rw [h]

theorem ChannelContext.DataOnly.next {a b : ChannelContext} (h : a.DataOnly b) : b.next = a.next := by rw [h]

/-- A context put in place of channel c's that differs in its data alone. -/
theorem State.setChan_dataOnly {s : State} {c : Channel} {ctx : ChannelContext} (h : (s.chan c).DataOnly ctx) :
    (s.chan c).DataOnly ((s.setChan c ctx).chan c) := by
  rw [State.setChan_chan_self]
  exact h

theorem State.createFetches_dataOnly (s : State) (c : Channel) (d : Descriptor) (n : Nat) :
    (s.chan c).DataOnly ((s.createFetches c d n).chan c) := by
  induction n generalizing s with
  | zero => exact .refl _
  | succ n ih =>
    unfold State.createFetches
    split
    · refine ChannelContext.DataOnly.trans ?_ (ih _)
      rw [State.createFetch_chan]
      rfl
    · exact .refl _

theorem State.createChunks_dataOnly (s : State) (c : Channel) (d : Descriptor) :
    (s.chan c).DataOnly ((s.createChunks c d).chan c) := by
  unfold State.createChunks
  split
  · split
    · exact State.createFetches_dataOnly ..
    · exact .refl _
  all_goals exact .refl _

theorem State.presentFirst_dataOnly (s : State) (c : Channel) : (s.chan c).DataOnly ((s.presentFirst c).chan c) := by
  unfold State.presentFirst
  split
  · split
    · rw [State.setWaiting_chan]
      exact State.setChan_dataOnly rfl
    · exact .refl _
  · exact .refl _

theorem State.presentNext_dataOnly (s : State) (c : Channel) (d : Descriptor) :
    (s.chan c).DataOnly ((s.presentNext c d).chan c) := by
  have hadd : ∀ k, (s.chan c).DataOnly ((s.setChan c ((s.chan c).addChunk k)).chan c) := fun _ => State.setChan_dataOnly rfl
  unfold State.presentNext
  split
  · exact State.presentFirst_dataOnly ..
  · split
    · exact hadd _
    · exact .refl _
  · split
    · exact hadd _
    · exact State.presentFirst_dataOnly ..
  · split
    · exact (hadd _).trans (State.presentFirst_dataOnly ..)
    · exact State.presentFirst_dataOnly ..

/-- The movement of data changes the chunk list and the position of a context alone. -/
theorem State.work_dataOnly (s : State) (c : Channel) : (s.chan c).DataOnly ((s.work c).chan c) := by
  unfold State.work
  split
  · exact .refl _
  · dsimp only
    split
    · exact (State.createChunks_dataOnly ..).trans (State.presentNext_dataOnly ..)
    · exact State.createChunks_dataOnly ..

/-- The context of a channel whose next descriptor becomes current at an index, before it moves any data (R94, R96). -/
def ChannelContext.begin (ctx : ChannelContext) (d : Descriptor) (i : Nat) : ChannelContext :=
  { ctx with state := .running, current := some d, index := i, position := 0, next := none, stall := none }

theorem ChannelContext.lawful.begin {ctx : ChannelContext} (h : ctx.lawful) (ha : ctx.state.active = true) (d : Descriptor)
    (i : Nat) : (ctx.begin d i).lawful := by
  obtain ⟨p, hp⟩ := h.owned (ChanState.ne_idle_of_active ha)
  exact .of_moving (.inl rfl) h.chunks_le (by simp [ChannelContext.begin, hp]) (h.fault_none ha) fun _ => rfl

/-- A descriptor becomes current (R94 to R96). -/
theorem State.becomeCurrent_eq (s : State) (c : Channel) (d : Descriptor) (i : Nat) :
    s.becomeCurrent c d i =
      if d.last then (s.setChan c ((s.chan c).begin d i)).work c
      else if i = 255 then (s.setChan c ((s.chan c).begin d i)).faultRun c .listTooLong 255 none
      else if Config.lookaheadFirst then ((s.setChan c ((s.chan c).begin d i)).handLookahead c).work c
      else ((s.setChan c ((s.chan c).begin d i)).work c).handLookahead c := rfl

theorem State.lawful_becomeCurrent {s : State} {c : Channel} (h : (s.chan c).lawful) (ha : (s.chan c).state.active = true)
    (d : Descriptor) (i : Nat) : ((s.becomeCurrent c d i).chan c).lawful := by
  have hb : ((s.setChan c ((s.chan c).begin d i)).chan c).lawful := by
    rw [State.setChan_chan_self]
    exact h.begin ha d i
  have hrun : ((s.setChan c ((s.chan c).begin d i)).chan c).state = .running := by
    rw [State.setChan_chan_self]
    rfl
  rw [State.becomeCurrent_eq]
  generalize s.setChan c ((s.chan c).begin d i) = t at hb hrun
  have hidle : (t.chan c).state ≠ .idle := by rw [hrun]; exact nofun
  split
  · exact State.lawful_work hb
  split
  · exact State.lawful_faultRun hb (by rw [hrun]; rfl) ..
  split
  · exact State.lawful_work (State.lawful_handLookahead hb hidle)
  · exact State.lawful_handLookahead (State.lawful_work hb) (by rw [(State.work_dataOnly ..).state]; exact hidle)

theorem State.lawful_advance {s : State} {c : Channel} (h : (s.chan c).lawful) (ha : (s.chan c).state.active = true) :
    ((s.advance c).chan c).lawful := by
  unfold State.advance
  split
  · exact State.lawful_becomeCurrent h ha ..
  · exact State.lawful_faultRun h ha ..
  all_goals exact h

/-- The descriptor's data is done: no chunk is left. -/
theorem ChannelContext.dataDone_iff (ctx : ChannelContext) :
    ctx.dataDone = true ↔ ∃ d, ctx.current = some d ∧ ctx.chunks = [] ∧ d.count ≤ ctx.position := by
  unfold ChannelContext.dataDone
  cases ctx.current <;> simp

theorem State.lawful_descriptorDone {s : State} {c : Channel} (h : (s.chan c).lawful) (ha : (s.chan c).state.active = true)
    (hk : (s.chan c).chunks = []) (d : Descriptor) : ((s.descriptorDone c d).chan c).lawful := by
  have hmark : (if d.notify then s.handOwner c (.channelMark c (s.chan c).index) else s).chan c = s.chan c := by
    split
    · exact State.handOwner_chan ..
    · rfl
  unfold State.descriptorDone
  dsimp only
  generalize (if d.notify then s.handOwner c (.channelMark c (s.chan c).index) else s) = t at hmark
  rw [← hmark] at h ha hk
  split
  · exact State.lawful_completeRun h (ChanState.ne_idle_of_active ha) hk
  · exact State.lawful_advance h ha

theorem State.lawful_progress {s : State} {c : Channel} (h : (s.chan c).lawful) (ha : (s.chan c).state.active = true) :
    ((s.progress c).chan c).lawful := by
  unfold State.progress
  split
  · split
    · next hdone =>
      obtain ⟨_, _, hk, _⟩ := (ChannelContext.dataDone_iff _).mp hdone
      exact State.lawful_descriptorDone h ha hk _
    · exact State.lawful_work h
  · exact h

/-! ### Endings -/

/-- A context put in place of channel c's, that is lawful. -/
theorem State.lawful_setChan {s : State} {c : Channel} {ctx : ChannelContext} (h : ctx.lawful) :
    ((s.setChan c ctx).chan c).lawful := by
  rw [State.setChan_chan_self]
  exact h

theorem ChannelContext.retire_state (ctx : ChannelContext) (store : Nat) : (ctx.retire store).state = ctx.state := by
  rw [ChannelContext.retire_eq]

theorem State.lawful_progress_retire {s : State} {c : Channel} (h : (s.chan c).lawful)
    (ha : (s.chan c).state.active = true) (store : Nat) :
    (((s.setChan c ((s.chan c).retire store)).progress c).chan c).lawful :=
  State.lawful_progress (State.lawful_setChan (h.retire store))
    (by rw [State.setChan_chan_self, ChannelContext.retire_state]; exact ha)

theorem State.lawful_endingInAbort {s : State} {c : Channel} (h : (s.chan c).lawful) (r : HubRequest) (how : Ending) :
    ((s.endingInAbort c r how).chan c).lawful := by
  unfold State.endingInAbort
  split
  · exact State.lawful_finishAborting (State.lawful_setChan (h.retire _))
  · exact State.lawful_finishAborting h

theorem State.lawful_activeEnding {s : State} {c : Channel} (h : (s.chan c).lawful) (ha : (s.chan c).state.active = true)
    (r : HubRequest) (how : Ending) : ((s.activeEnding c r how).chan c).lawful := by
  have hfault : ∀ code i a, ((s.faultRun c code i a).chan c).lawful := fun _ _ _ => State.lawful_faultRun h ha ..
  unfold State.activeEnding
  split
  · split
    · unfold State.firstEnding
      split
      · split
        · exact State.lawful_becomeCurrent h ha ..
        · exact hfault ..
      · exact hfault ..
      · exact hfault ..
      · exact h
    · exact h
  · split
    · have hnext : ((s.setChan c { s.chan c with next := some (lookaheadOf how) }).chan c).lawful :=
        State.lawful_setChan (h.setNext (ChanState.ne_idle_of_active ha) _)
      unfold State.lookaheadEnding
      dsimp only
      split
      · exact State.lawful_advance hnext (by rw [State.setChan_chan_self]; exact ha)
      · exact hnext
    · exact h
  · unfold State.chunkFetchEnding
    split
    · exact State.lawful_work (State.lawful_setChan (h.fillChunk ..))
    · exact hfault ..
    · exact hfault ..
    · exact h
  · unfold State.chunkStoreEnding
    split
    · exact State.lawful_progress_retire h ha _
    · exact hfault ..
    · exact hfault ..
    · exact h

theorem State.lawful_takeEnding {s : State} {r : HubRequest} (h : (s.chan r.chan).lawful) (how : Ending) :
    ((s.takeEnding r how).chan r.chan).lawful := by
  unfold State.takeEnding
  split
  · exact State.lawful_endingInAbort h r how
  split
  · next ha => exact State.lawful_activeEnding h ha r how
  · exact h

theorem State.lawful_chanPortDown {s : State} {c : Channel} (h : (s.chan c).lawful) (loss : Loss) :
    ((s.chanPortDown loss c).chan c).lawful := by
  unfold State.chanPortDown
  split
  case h_7 hs =>
    obtain ⟨p, hp⟩ := h.owned (by rw [hs]; exact nofun)
    refine State.lawful_finishAborting (State.lawful_setChan ?_)
    exact .of_aborting hs h.chunks_le (by simp [hp]) (h.stall_none (by rw [hs]; exact nofun))
  case h_8 | h_9 | h_10 => exact State.lawful_setChan ChannelContext.lawful_reset
  case h_1 hs | h_2 hs | h_3 hs | h_4 hs | h_5 hs | h_6 hs =>
    exact State.lawful_faultWith h (by rw [hs]; exact nofun) ..
  all_goals exact h

/-! ### Outcomes and announcements -/

theorem State.lawful_stallChannel {s : State} {c : Channel} (h : (s.chan c).lawful)
    (hs : (s.chan c).state = .running ∨ (s.chan c).state = .stalled) (a : ChannelAccess) :
    ((s.stallChannel c a).chan c).lawful := by
  have ha := ChanState.active_of_moving hs
  obtain ⟨p, hp⟩ := h.owned (ChanState.ne_idle_of_active ha)
  refine State.lawful_setChan (.of_moving (.inr rfl) ?_ ?_ ?_ fun hne => absurd rfl hne)
  · dsimp only
    split
    · exact (h.setChunkState a.chunk .dataHeld).chunks_le
    · exact h.chunks_le
  · dsimp only
    split <;> simp [ChannelContext.setChunkState, hp]
  · dsimp only
    split <;> exact h.fault_none ha

theorem State.lawful_chunkCarriedOut {s : State} {c : Channel} (h : (s.chan c).lawful)
    (ha : (s.chan c).state.active = true) (a : ChannelAccess) (data : List Word) :
    ((s.chunkCarriedOut c a data).chan c).lawful := by
  unfold State.chunkCarriedOut
  split
  · exact State.lawful_progress_retire h ha _
  split
  · split
    · refine State.lawful_work ?_
      rw [State.handHub_chan]
      exact State.lawful_setChan (h.fillChunk ..)
    · exact State.lawful_work (State.lawful_setChan (h.fillChunk ..))
  · exact h

theorem State.lawful_endStall {s : State} {c : Channel} (h : (s.chan c).lawful) (ha : (s.chan c).state.active = true) :
    ((s.endStall c).chan c).lawful := by
  obtain ⟨p, hp⟩ := h.owned (ChanState.ne_idle_of_active ha)
  exact State.lawful_setChan (.of_moving (.inl rfl) h.chunks_le (by simp [hp]) (h.fault_none ha) fun _ => rfl)

theorem State.endStall_state (s : State) (c : Channel) : ((s.endStall c).chan c).state = .running :=
  congrArg ChannelContext.state (State.setChan_chan_self s c _)

theorem State.lawful_activeOutcome {s : State} {c : Channel} (h : (s.chan c).lawful)
    (hs : (s.chan c).state = .running ∨ (s.chan c).state = .stalled) (a : ChannelAccess) (o : AccessOutcome) :
    ((s.activeOutcome c a o).chan c).lawful := by
  have ha := ChanState.active_of_moving hs
  have hfault : ∀ code i a, ((s.faultRun c code i a).chan c).lawful := fun _ _ _ => State.lawful_faultRun h ha ..
  unfold State.activeOutcome
  split
  · exact State.lawful_chunkCarriedOut (State.lawful_endStall h ha) (by rw [State.endStall_state]; rfl) ..
  · exact hfault ..
  · unfold State.lockRefusedChannel
    split
    · exact hfault ..
    split
    · split
      · exact hfault ..
      · exact State.lawful_stallChannel h hs _
    · exact h
  · exact hfault ..
  · exact hfault ..

theorem State.lawful_takeOutcome {s : State} {c : Channel} (h : (s.chan c).lawful) (a : ChannelAccess) (o : AccessOutcome) :
    ((s.takeOutcome c a o).chan c).lawful := by
  unfold State.takeOutcome
  split
  · next hs => exact State.lawful_activeOutcome h (.inl hs) a o
  · next hs => exact State.lawful_activeOutcome h (.inr hs) a o
  · unfold State.outcomeInAbort
    split
    · split
      · exact State.lawful_finishAborting (State.lawful_setChan (h.retire _))
      · exact State.lawful_finishAborting h
    · exact State.lawful_finishAborting h
  all_goals exact h

theorem State.lawful_retryStalled {s : State} {c : Channel} (h : (s.chan c).lawful) (r : GranuleRange) :
    ((s.retryStalled r c).chan c).lawful := by
  unfold State.retryStalled
  split
  · split
    · split
      · exact State.lawful_setChan (h.setChunkState ..)
      · exact h
    · exact h
  · exact h

end Sys2Proof.Machine
end

section
/-! SUPPORT. Law 9, state by state: what a channel may have in flight (R90, R100, R101), and what each change of a run keeps of it. -/

namespace Sys2Proof.Machine

/-! ### What holds in every state -/

/-- Channel c's hub requests and store accesses are accounted for: no purpose twice, none at a port but the owner's, at most one store
access (R90, R114, R115). -/
structure State.Accounted (s : State) (c : Channel) : Prop where
  nodup : ∀ p : Port, ((s.requestsAt p c).map fun r => r.purpose).Nodup
  own : ∀ p : Port, ∀ r ∈ (s.link p).waiting[c], r.chan = c
  atOwner : ∀ p : Port, (s.chan c).owner ≠ some p → s.requestsAt p c = []
  one : (s.accessesOf c).length ≤ 1

/-- Channel c has nothing in flight. -/
structure State.Quiet (s : State) (c : Channel) : Prop where
  requests : ∀ p : Port, s.requestsAt p c = []
  accesses : s.accessesOf c = []

/-- A RUNNING or STALLED channel c with current descriptor d, all it has in flight fitting its chunks (R112 to R124). -/
structure State.Moving (s : State) (c : Channel) (d : Descriptor) : Prop extends s.Accounted c where
  state : (s.chan c).state = .running ∨ (s.chan c).state = .stalled
  current : (s.chan c).current = some d
  requests : ∀ p : Port, ∀ r ∈ s.requestsAt p c, (s.chan c).requestFits d r
  accesses : ∀ a ∈ s.accessesOf c, (s.chan c).accessFits d a
  position : ∀ k ∈ (s.chan c).chunks, k.store < d.store + (s.chan c).position
  last : d.last = true → (s.chan c).next = none
  stall : (s.chan c).state = .stalled → (s.chan c).stallFits d (s.accessesOf c)

theorem State.flightLawful.accounted {s : State} {c : Channel} (h : s.flightLawful c) : s.Accounted c := by
  obtain ⟨hreq, hone, _⟩ := h
  exact ⟨fun p => (hreq p).1, fun p => (hreq p).2.1, fun p => (hreq p).2.2, hone⟩

theorem State.flightLawful.quiet {s : State} {c : Channel} (h : s.flightLawful c)
    (hs : (s.chan c).state = .idle ∨ (s.chan c).state.ended = true) : s.Quiet c := by
  obtain ⟨_, _, hquiet, _⟩ := h
  exact ⟨(hquiet hs).1, (hquiet hs).2⟩

theorem State.flightLawful.loading {s : State} {c : Channel} (h : s.flightLawful c) (hs : (s.chan c).state = .loading) :
    (∀ p : Port, ∀ r ∈ s.requestsAt p c, r.purpose = .first) ∧ s.accessesOf c = [] := by
  obtain ⟨_, _, _, hloading, _⟩ := h
  exact hloading hs

theorem State.flightLawful.aborting {s : State} {c : Channel} (h : s.flightLawful c) (hs : (s.chan c).state = .aborting) :
    (∀ p : Port, (s.link p).waiting[c] = []) ∧ s.waitingAccess c = none := by
  obtain ⟨_, _, _, _, haborting, _⟩ := h
  exact haborting hs

theorem State.flightLawful.moving {s : State} {c : Channel} (h : s.flightLawful c)
    (hs : (s.chan c).state = .running ∨ (s.chan c).state = .stalled) : ∃ d, s.Moving c d := by
  have hacc := h.accounted
  obtain ⟨_, _, _, _, _, hcurrent, hmoving⟩ := h
  obtain ⟨d, hd⟩ := Option.isSome_iff_exists.mp (hcurrent hs)
  obtain ⟨hreq, hstore, hpos, hlast, hstall⟩ := hmoving hs d hd
  exact ⟨d, hacc, hs, hd, hreq, hstore, hpos, hlast, hstall⟩

theorem State.Moving.flightLawful {s : State} {c : Channel} {d : Descriptor} (h : s.Moving c d) : s.flightLawful c := by
  have hs := h.state
  refine ⟨fun p => ⟨h.nodup p, h.own p, h.atOwner p⟩, h.one, fun hq => ?_, fun hq => ?_, fun hq => ?_, fun _ => by
    rw [h.current]; rfl, fun _ e he => ?_⟩
  · rcases hs with hs | hs <;> rw [hs] at hq <;> rcases hq with hq | hq <;> cases hq
  · rcases hs with hs | hs <;> rw [hs] at hq <;> cases hq
  · rcases hs with hs | hs <;> rw [hs] at hq <;> cases hq
  · rw [h.current] at he
    cases he
    exact ⟨h.requests, h.accesses, h.position, h.last, h.stall⟩

/-- Outside RUNNING and STALLED, a channel with nothing in flight. -/
theorem State.Quiet.flightLawful {s : State} {c : Channel} (h : s.Quiet c)
    (hs : ¬((s.chan c).state = .running ∨ (s.chan c).state = .stalled)) : s.flightLawful c := by
  have hwait : ∀ p : Port, (s.link p).waiting[c] = [] := fun p => by
    have := h.requests p
    rw [State.requestsAt_eq] at this
    exact (List.append_eq_nil_iff.mp this).1
  have hacc := h.accesses
  rw [State.accessesOf_eq] at hacc
  refine ⟨fun p => ⟨?_, ?_, fun _ => h.requests p⟩, ?_, fun _ => ⟨h.requests, h.accesses⟩, fun _ => ⟨fun p r hr => ?_, h.accesses⟩,
    fun _ => ⟨hwait, ?_⟩, fun hq => absurd hq hs, fun hq => absurd hq hs⟩
  · rw [h.requests p]
    exact List.nodup_nil
  · rw [hwait p]
    exact nofun
  · rw [h.accesses]
    exact Nat.zero_le 1
  · rw [h.requests p] at hr
    cases hr
  · simpa using (List.append_eq_nil_iff.mp hacc).1

theorem State.Accounted.flightLawful_of_aborting {s : State} {c : Channel} (h : s.Accounted c)
    (hs : (s.chan c).state = .aborting) (hw : ∀ p : Port, (s.link p).waiting[c] = []) (ha : s.waitingAccess c = none) :
    s.flightLawful c := by
  refine ⟨fun p => ⟨h.nodup p, h.own p, h.atOwner p⟩, h.one, fun hq => ?_, fun hq => ?_, fun _ => ⟨hw, ha⟩, fun hq => ?_, fun hq => ?_⟩
    <;> rw [hs] at hq
  · rcases hq with hq | hq <;> cases hq
  · cases hq
  · rcases hq with hq | hq <;> cases hq
  · rcases hq with hq | hq <;> cases hq

/-! ### Less in flight -/

/-- Channel c's context is as it was, and what it has in flight was in flight before. -/
structure FlightWithin (c : Channel) (s t : State) : Prop where
  chan : t.chan c = s.chan c
  requests : ∀ p : Port, (t.requestsAt p c).Subperm (s.requestsAt p c)
  waiting : ∀ p : Port, (t.link p).waiting[c] ⊆ (s.link p).waiting[c]
  accesses : (t.accessesOf c).Sublist (s.accessesOf c)
  waitingAccess : s.waitingAccess c = none → t.waitingAccess c = none

theorem FlightWithin.refl (c : Channel) (s : State) : FlightWithin c s s :=
  ⟨rfl, fun _ => .refl _, fun _ _ => id, .refl _, id⟩

theorem FlightWithin.trans {c : Channel} {s t u : State} (h : FlightWithin c s t) (h' : FlightWithin c t u) :
    FlightWithin c s u :=
  ⟨h'.chan.trans h.chan, fun p => (h'.requests p).trans (h.requests p), fun p _ hr => h.waiting p (h'.waiting p hr),
    h'.accesses.trans h.accesses, fun hn => h'.waitingAccess (h.waitingAccess hn)⟩

theorem FlightWithin.requests_nil {c : Channel} {s t : State} (h : FlightWithin c s t) {p : Port} (hn : s.requestsAt p c = []) :
    t.requestsAt p c = [] := by
  have := h.requests p
  rw [hn] at this
  exact List.subperm_nil.mp this

theorem State.Accounted.within {c : Channel} {s t : State} (h : s.Accounted c) (hw : FlightWithin c s t) : t.Accounted c := by
  refine ⟨fun p => ?_, fun p r hr => h.own p r (hw.waiting p hr), fun p hp => ?_, hw.accesses.length_le.trans h.one⟩
  · obtain ⟨l, hperm, hsub⟩ := hw.requests p
    exact (hperm.map _).nodup_iff.mp ((hsub.map _).nodup (h.nodup p))
  · rw [hw.chan] at hp
    exact hw.requests_nil (h.atOwner p hp)

theorem State.Quiet.within {c : Channel} {s t : State} (h : s.Quiet c) (hw : FlightWithin c s t) : t.Quiet c :=
  ⟨fun p => hw.requests_nil (h.requests p), List.sublist_nil.mp (h.accesses ▸ hw.accesses)⟩

theorem State.Moving.within {c : Channel} {d : Descriptor} {s t : State} (h : s.Moving c d) (hw : FlightWithin c s t) :
    t.Moving c d := by
  have hc := hw.chan
  refine ⟨h.toAccounted.within hw, hc ▸ h.state, hc ▸ h.current, fun p r hr => ?_, fun a ha => ?_, hc ▸ h.position, hc ▸ h.last,
    fun hs => ?_⟩
  · rw [hc]
    exact h.requests p r ((hw.requests p).subset hr)
  · rw [hc]
    exact h.accesses a (hw.accesses.subset ha)
  · rw [hc] at hs ⊢
    obtain ⟨hsome, hfits⟩ := h.stall hs
    exact ⟨hsome, fun r hr => ⟨fun a ha => (hfits r hr).1 a (hw.accesses.subset ha), (hfits r hr).2⟩⟩

/-- Law 9 is kept where nothing new comes to be in flight. -/
theorem State.flightLawful.within {c : Channel} {s t : State} (h : s.flightLawful c) (hw : FlightWithin c s t) :
    t.flightLawful c := by
  have hst : (t.chan c).state = (s.chan c).state := by rw [hw.chan]
  cases hs : (s.chan c).state with
  | running =>
    obtain ⟨d, hd⟩ := h.moving (.inl hs)
    exact (hd.within hw).flightLawful
  | stalled =>
    obtain ⟨d, hd⟩ := h.moving (.inr hs)
    exact (hd.within hw).flightLawful
  | aborting =>
    obtain ⟨hwait, hnone⟩ := h.aborting hs
    refine (h.accounted.within hw).flightLawful_of_aborting (hst.trans hs) (fun p => ?_) (hw.waitingAccess hnone)
    exact List.subset_nil.mp (hwait p ▸ hw.waiting p)
  | idle => exact ((h.quiet (.inl hs)).within hw).flightLawful (by rw [hst, hs]; decide)
  | complete => exact ((h.quiet (.inr (by rw [hs]; rfl))).within hw).flightLawful (by rw [hst, hs]; decide)
  | faulted => exact ((h.quiet (.inr (by rw [hs]; rfl))).within hw).flightLawful (by rw [hst, hs]; decide)
  | stopped => exact ((h.quiet (.inr (by rw [hs]; rfl))).within hw).flightLawful (by rw [hst, hs]; decide)
  | loading =>
    obtain ⟨hfirst, hnone⟩ := h.loading hs
    have hacc := h.accounted.within hw
    refine ⟨fun p => ⟨hacc.nodup p, hacc.own p, hacc.atOwner p⟩, hacc.one, fun hq => ?_, fun _ => ⟨fun p r hr => ?_, ?_⟩,
      fun hq => ?_, fun hq => ?_, fun hq => ?_⟩
    · rw [hst, hs] at hq
      rcases hq with hq | hq <;> cases hq
    · exact hfirst p r ((hw.requests p).subset hr)
    · exact List.sublist_nil.mp (hnone ▸ hw.accesses)
    · rw [hst, hs] at hq
      cases hq
    · rw [hst, hs] at hq
      rcases hq with hq | hq <;> cases hq
    · rw [hst, hs] at hq
      rcases hq with hq | hq <;> cases hq

/-- A change of one channel's run leaves what the others have in flight. -/
theorem RunOnly.flightWithin {c d : Channel} {s t : State} (h : RunOnly c s t) (hd : d ≠ c) : FlightWithin d s t := by
  have hreq : ∀ p, t.requestsAt p d = s.requestsAt p d := fun p => by
    rw [State.requestsAt_eq, State.requestsAt_eq, h.waiting_other hd, h.issuedAt]
  have hacc : t.accessesOf d = s.accessesOf d := by
    rw [State.accessesOf_eq, State.accessesOf_eq, h.waitingAccess_other hd, h.takenAccesses]
  refine ⟨h.chan d hd, fun p => ?_, fun p => ?_, ?_, fun hn => ?_⟩
  · rw [hreq]
  · rw [h.waiting_other hd]
    exact fun _ => id
  · rw [hacc]
  · rw [h.waitingAccess_other hd, hn]

/-! ### The end of a run -/

/-- With nothing of an ABORTING channel waiting or issued, and no access, it has drained (R101). -/
theorem State.Accounted.quiet_of_drained {s : State} {c : Channel} (h : s.Accounted c)
    (hw : ∀ p : Port, (s.link p).waiting[c] = []) (hd : s.drained c = true) (ho : (s.chan c).owner.isSome = true) :
    s.Quiet c := by
  obtain ⟨p, hp⟩ := Option.isSome_iff_exists.mp ho
  simp only [State.drained, State.hubOutstanding, hp, Bool.and_eq_true, Bool.not_eq_true', Bool.or_eq_false_iff] at hd
  obtain ⟨⟨hbusy, hclaims⟩, hpresented⟩ := hd
  refine ⟨fun q => ?_, (s.accessPresented_eq_false_iff c).mp hpresented⟩
  by_cases hq : q = p
  · subst hq
    have hslots : (allHubSlots.filterMap fun h => ((s.link q).outstanding h).map fun o => o.req).filter (fun r => r.chan == c)
        = [] := by
      rw [List.filter_eq_nil_iff]
      intro r hr hc
      obtain ⟨k, hk, hr⟩ := List.mem_filterMap.mp hr
      obtain ⟨o, ho, rfl⟩ := Option.map_eq_some_iff.mp hr
      have := List.any_eq_false.mp hbusy k hk
      rw [ho] at this
      exact this (by simpa using hc)
    have hended : ((s.claimsOf q).filterMap ChannelClaim.request?).filter (fun r => r.chan == c) = [] := by
      rw [List.filter_eq_nil_iff]
      intro r hr hc
      obtain ⟨cl, hcl, hr⟩ := List.mem_filterMap.mp hr
      have := List.any_eq_false.mp hclaims cl hcl
      cases cl with
      | ending r' how =>
        cases hr
        exact this (by simpa [ChannelClaim.endingOf] using hc)
      | portDown loss => cases hr
    rw [State.requestsAt_eq, hw, State.issuedAt, hslots, hended]
    rfl
  · exact h.atOwner q (by rw [hp]; exact fun e => hq (Option.some.inj e).symm)

/-- Nothing in flight stays nothing where a change of the run neither hands nor presents. -/
theorem RunOnly.quiet {c : Channel} {s t : State} (h : RunOnly c s t) (hq : s.Quiet c)
    (hw : ∀ p : Port, (t.link p).waiting[c] = (s.link p).waiting[c]) (ha : t.waitingAccess c = s.waitingAccess c) : t.Quiet c := by
  refine ⟨fun p => ?_, ?_⟩
  · rw [State.requestsAt_eq, hw, h.issuedAt, ← State.requestsAt_eq]
    exact hq.requests p
  · rw [State.accessesOf_eq, ha, h.takenAccesses, ← State.accessesOf_eq]
    exact hq.accesses

@[simp] theorem State.handOwner_link (s : State) (c : Channel) (e : NoticeEvent) (p : Port) :
    (s.handOwner c e).link p = s.link p := by
  unfold State.handOwner
  split <;> rfl

@[simp] theorem State.handOwner_waitingAccess (s : State) (c d : Channel) (e : NoticeEvent) :
    (s.handOwner c e).waitingAccess d = s.waitingAccess d := by
  unfold State.handOwner
  split <;> rfl

@[simp] theorem State.finishAborting_link (s : State) (c : Channel) (p : Port) : (s.finishAborting c).link p = s.link p := by
  unfold State.finishAborting
  split
  · split
    · rfl
    · rw [State.handOwner_link]
      rfl
  · rfl

@[simp] theorem State.finishAborting_waitingAccess (s : State) (c d : Channel) :
    (s.finishAborting c).waitingAccess d = s.waitingAccess d := by
  unfold State.finishAborting
  split
  · split
    · rfl
    · rw [State.handOwner_waitingAccess]
      rfl
  · rfl

theorem ChannelContext.ended_not_moving (ctx : ChannelContext) : ¬(ctx.ended.state = .running ∨ ctx.ended.state = .stalled) := by
  have hended := ctx.abortState_ended
  unfold ChannelContext.ended
  split
  · decide
  · rintro (hs | hs) <;> rw [show ctx.abortState = _ from hs] at hended <;> cases hended

/-- A channel that drains keeps law 9 whether the drain ends or not (R101). -/
theorem State.Accounted.flightLawful_finishAborting {s : State} {c : Channel} (h : s.Accounted c)
    (hs : (s.chan c).state = .aborting) (ho : (s.chan c).owner.isSome = true) (hw : ∀ p : Port, (s.link p).waiting[c] = [])
    (ha : s.waitingAccess c = none) : (s.finishAborting c).flightLawful c := by
  by_cases hd : s.drained c = true
  · have hq := (RunOnly.finishAborting s c).quiet (h.quiet_of_drained hw hd ho) (fun p => by simp) (by simp)
    refine hq.flightLawful ?_
    rw [State.finishAborting_chan, if_pos ⟨hs, hd⟩]
    exact ChannelContext.ended_not_moving _
  · have hsame : s.finishAborting c = s := if_neg fun h => hd h.2
    rw [hsame]
    exact h.flightLawful_of_aborting hs hw ha

/-- The run of a channel changes, nothing is handed or presented, and what waited may be gone. -/
theorem State.Accounted.withdrawn {s t : State} {c : Channel} (h : s.Accounted c) (hr : RunOnly c s t)
    (ho : (t.chan c).owner = (s.chan c).owner) (hw : ∀ p : Port, (t.link p).waiting[c].Sublist (s.link p).waiting[c])
    (ha : t.waitingAccess c = none ∨ t.waitingAccess c = s.waitingAccess c) : t.Accounted c := by
  have hreq : ∀ p, (t.requestsAt p c).Sublist (s.requestsAt p c) := fun p => by
    rw [State.requestsAt_eq, State.requestsAt_eq, hr.issuedAt]
    exact (hw p).append (.refl _)
  refine ⟨fun p => ((hreq p).map _).nodup (h.nodup p), fun p r hm => h.own p r ((hw p).subset hm), fun p hp => ?_, ?_⟩
  · rw [ho] at hp
    exact List.sublist_nil.mp (h.atOwner p hp ▸ hreq p)
  · have hone := h.one
    rw [State.accessesOf_eq] at hone ⊢
    rw [hr.takenAccesses]
    rcases ha with ha | ha <;> rw [ha]
    · simp at hone ⊢
      omega
    · exact hone

theorem State.withdrawHub_waiting (s : State) (c : Channel) (p : Port) :
    ((s.withdrawHub c).link p).waiting[c] = if (s.chan c).owner = some p then [] else (s.link p).waiting[c] := by
  unfold State.withdrawHub
  split
  · next q hq =>
    rw [State.setLink_link, hq]
    by_cases hp : p = q
    · simp [hp, LinkController.withdraw]
    · simp [hp, Ne.symm hp]
  · next hn => simp [hn]

theorem State.withdrawHub_waitingAccess (s : State) (c d : Channel) :
    (s.withdrawHub c).waitingAccess d = s.waitingAccess d := by
  unfold State.withdrawHub
  split <;> rfl

/-- A run enters ABORTING (R100): what waits is withdrawn, what is issued drains. -/
theorem State.Accounted.flightLawful_enterAborting {s : State} {c : Channel} (h : s.Accounted c)
    (ho : (s.chan c).owner.isSome = true) (mode : EndMode) : (s.enterAborting c mode).flightLawful c := by
  have hr : RunOnly c s (s.withdrawn c mode) := ((RunOnly.setChan ..).trans (.setWaiting ..)).trans (.withdrawHub ..)
  have hwait : ∀ p : Port, ((s.withdrawn c mode).link p).waiting[c] = [] := fun p => by
    rw [State.withdrawn, State.withdrawHub_waiting]
    simp only [State.setWaiting_chan, State.setChan_chan_self, State.setWaiting_link, State.setChan_link]
    split
    · rfl
    · next hp =>
      have := h.atOwner p hp
      rw [State.requestsAt_eq] at this
      exact (List.append_eq_nil_iff.mp this).1
  have hnone : (s.withdrawn c mode).waitingAccess c = none := by
    rw [State.withdrawn, State.withdrawHub_waitingAccess]
    exact State.setWaiting_waitingAccess_self ..
  have hchan := s.withdrawn_chan c mode
  rw [State.enterAborting_eq]
  generalize s.withdrawn c mode = t at hr hwait hnone hchan
  have hacc : t.Accounted c := h.withdrawn hr (by rw [hchan]; rfl) (fun p => by rw [hwait]; exact List.nil_sublist _) (.inl hnone)
  exact hacc.flightLawful_finishAborting (by rw [hchan]; rfl) (by rw [hchan]; exact ho) hwait hnone

/-- Another context of the same owner leaves the account. -/
theorem State.Accounted.setChan {s : State} {c : Channel} (h : s.Accounted c) {ctx : ChannelContext}
    (ho : ctx.owner = (s.chan c).owner) : (s.setChan c ctx).Accounted c :=
  h.withdrawn (.setChan ..) (by rw [State.setChan_chan_self, ho]) (fun _ => .refl _) (.inr rfl)

theorem State.Accounted.flightLawful_faultWith {s : State} {c : Channel} (h : s.Accounted c)
    (ho : (s.chan c).owner.isSome = true) (mode : EndMode) (code : FaultCode) (i : Nat) (a : Option Nat) :
    (s.faultWith c mode code i a).flightLawful c := by
  refine State.Accounted.flightLawful_enterAborting (State.Accounted.setChan h ?_) ?_ mode
  · rfl
  · rw [State.setChan_chan_self]
    exact ho

theorem State.Quiet.setChan {s : State} {c : Channel} (h : s.Quiet c) (ctx : ChannelContext) : (s.setChan c ctx).Quiet c :=
  (RunOnly.setChan s c ctx).quiet h (fun _ => rfl) rfl

/-! ### Moving data -/

/-- The chunk whose request or access is in flight is one of the list. -/
theorem State.Moving.request_chunk {s : State} {c : Channel} {d : Descriptor} (h : s.Moving c d) {p : Port} {r : HubRequest}
    (hr : r ∈ s.requestsAt p c) {st : Nat} (hst : r.purpose = .chunk st) :
    (∃ k ∈ (s.chan c).chunks, k.store = st) ∧ ∀ k ∈ (s.chan c).chunks, k.store = st →
      (r.op.isStore = false → d.kind = .toStore ∧ k.state = .requested)
      ∧ (r.op.isStore = true → d.kind = .fromStore ∧ (k.state = .readDone ∨ k.state = .storeSent)) := by
  obtain ⟨_, _, hfits⟩ := h.requests p r hr
  exact hfits st (by rw [hst]; rfl)

/-- A chunk whose data is held or being written, or that is being read from the store, has no hub request in flight. -/
theorem State.Moving.no_request {s : State} {c : Channel} {d : Descriptor} (h : s.Moving c d) {k : Chunk}
    (hk : k ∈ (s.chan c).chunks)
    (hst : k.state = .dataHeld ∨ k.state = .writing ∨ d.kind ≠ .toStore ∧ k.state = .requested) (p : Port) :
    ∀ r ∈ s.requestsAt p c, r.purpose ≠ .chunk k.store := by
  intro r hr hp
  obtain ⟨_, hfits⟩ := h.request_chunk hr hp
  obtain ⟨hfetch, hstore⟩ := hfits k hk rfl
  cases hop : r.op.isStore with
  | false =>
    obtain ⟨hd, hreq⟩ := hfetch hop
    rcases hst with hst | hst | ⟨hkind, hst⟩
    · rw [hst] at hreq; cases hreq
    · rw [hst] at hreq; cases hreq
    · exact hkind hd
  | true =>
    obtain ⟨_, hdone⟩ := hstore hop
    rcases hst with hst | hst | ⟨_, hst⟩ <;> rw [hst] at hdone <;> rcases hdone with hdone | hdone <;> cases hdone

/-- A chunk whose hub request is in flight has no store access in flight, and no refused access. -/
theorem State.Moving.no_access {s : State} {c : Channel} {d : Descriptor} (h : s.Moving c d) {p : Port} {r : HubRequest}
    (hr : r ∈ s.requestsAt p c) {st : Nat} (hst : r.purpose = .chunk st) :
    (∀ a ∈ s.accessesOf c, a.chunk ≠ st)
      ∧ ((s.chan c).state = .stalled → ∀ f ∈ (s.chan c).stall, f.refused.chunk ≠ st) := by
  refine ⟨fun a ha he => ?_, fun hs f hf he => ?_⟩
  · obtain ⟨⟨k, hk, hka⟩, hfits⟩ := h.accesses a ha
    obtain ⟨hwrite, hread⟩ := hfits k hk hka
    refine h.no_request hk ?_ p r hr (by rw [hst, hka, he])
    cases hop : a.access.op.isWrite with
    | true => exact .inr (.inl (hwrite hop))
    | false => exact .inr (.inr (hread hop))
  · obtain ⟨_, hstall⟩ := h.stall hs
    obtain ⟨_, ⟨k, hk, hkf⟩, hfits⟩ := hstall f hf
    obtain ⟨hwrite, hread⟩ := hfits k hk hkf
    refine h.no_request hk ?_ p r hr (by rw [hst, hkf, he])
    cases hop : f.refused.access.op.isWrite with
    | true => exact (hwrite hop).elim .inl fun hw => .inr (.inl hw)
    | false => exact .inr (.inr (hread hop))

/-- Chunk records of one store address are changed in place; what is in flight for them fits them still. -/
theorem State.Moving.mapChunks {s : State} {c : Channel} {d : Descriptor} (h : s.Moving c d) {f : Chunk → Chunk} {st : Nat}
    (hf : ∀ k, (f k).store = k.store) (hother : ∀ k, k.store ≠ st → f k = k)
    (hreq : ∀ p, ∀ r ∈ s.requestsAt p c, r.purpose = .chunk st → ∀ k ∈ (s.chan c).chunks, k.store = st →
      (r.op.isStore = false → d.kind = .toStore ∧ (f k).state = .requested)
      ∧ (r.op.isStore = true → d.kind = .fromStore ∧ ((f k).state = .readDone ∨ (f k).state = .storeSent)))
    (hacc : ∀ a ∈ s.accessesOf c, a.chunk ≠ st)
    (hstall : (s.chan c).state = .stalled → ∀ r ∈ (s.chan c).stall, r.refused.chunk = st →
      ∀ k ∈ (s.chan c).chunks, k.store = st →
        (r.refused.access.op.isWrite = true → (f k).state = .dataHeld ∨ (f k).state = .writing)
        ∧ (r.refused.access.op.isWrite = false → d.kind ≠ .toStore ∧ (f k).state = .requested)) :
    (s.setChan c { s.chan c with chunks := (s.chan c).chunks.map f }).Moving c d := by
  have hacct : (s.setChan c { s.chan c with chunks := (s.chan c).chunks.map f }).Accounted c := h.toAccounted.setChan rfl
  have hex : ∀ x, (∃ k ∈ (s.chan c).chunks, k.store = x) → ∃ k ∈ (s.chan c).chunks.map f, k.store = x := by
    rintro x ⟨k, hk, rfl⟩
    exact ⟨f k, List.mem_map_of_mem hk, hf k⟩
  refine ⟨hacct, ?_, ?_, fun p r hr => ?_, fun a ha => ?_, fun k hk => ?_, fun hl => ?_, fun hs => ?_⟩ <;>
    simp only [State.setChan_chan_self] at *
  · exact h.state
  · exact h.current
  · obtain ⟨hfirst, hlook, hchunk⟩ := h.requests p r hr
    refine ⟨hfirst, hlook, fun x hx => ⟨hex x (hchunk x hx).1, fun k' hk' hkx => ?_⟩⟩
    obtain ⟨k, hk, rfl⟩ := List.mem_map.mp hk'
    rw [hf] at hkx
    by_cases hst : k.store = st
    · refine hreq p r hr ?_ k hk hst
      cases hpu : r.purpose <;> rw [hpu] at hx <;> cases hx
      rw [← hkx, hst]
    · rw [hother k hst]
      exact (hchunk x hx).2 k hk hkx
  · obtain ⟨hin, hfits⟩ := h.accesses a ha
    refine ⟨hex _ hin, fun k' hk' hka => ?_⟩
    obtain ⟨k, hk, rfl⟩ := List.mem_map.mp hk'
    rw [hf] at hka
    rw [hother k (hka ▸ hacc a ha)]
    exact hfits k hk hka
  · obtain ⟨j, hj, rfl⟩ := List.mem_map.mp hk
    rw [hf]
    exact h.position j hj
  · exact h.last hl
  · obtain ⟨hsome, hfits⟩ := h.stall hs
    refine ⟨hsome, fun r hr => ?_⟩
    obtain ⟨hall, hin, hk⟩ := hfits r hr
    refine ⟨hall, hex _ hin, fun k' hk' hkr => ?_⟩
    obtain ⟨k, hkm, rfl⟩ := List.mem_map.mp hk'
    rw [hf] at hkr
    by_cases hst : k.store = st
    · exact hstall hs r hr (hkr ▸ hst) k hkm hst
    · rw [hother k hst]
      exact hk k hkm hkr

end Sys2Proof.Machine
end

section
/-! SUPPORT. Law 9 while a channel moves data and advances through its list (R93 to R97, R111 to R120). -/

namespace Sys2Proof.Machine

/-! ### Chunks, requests and accesses that begin -/

theorem nextChunk_store (d : Descriptor) (pos : Nat) : (nextChunk d pos).store = d.store + pos := by
  unfold nextChunk
  split <;> rfl

/-- A chunk takes at least one byte (R111). -/
theorem nextChunk_len_pos {d : Descriptor} {pos : Nat} (h : pos < d.count) : 0 < (nextChunk d pos).len := by
  have hlen : (nextChunk d pos).len = chunkLen d pos := by
    unfold nextChunk
    split <;> rfl
  rw [hlen, chunkLen]
  split
  all_goals omega

theorem nextChunk_state {d : Descriptor} (h : d.kind ≠ .storeFill) (pos : Nat) : (nextChunk d pos).state = .requested := by
  unfold nextChunk
  split
  · next hk => exact absurd hk h
  all_goals rfl

/-- A chunk is created behind those of the list: nothing in flight is for it. -/
theorem State.Moving.addChunk {s : State} {c : Channel} {d : Descriptor} (h : s.Moving c d)
    (hp : (s.chan c).position < d.count) :
    (s.setChan c ((s.chan c).addChunk (nextChunk d (s.chan c).position))).Moving c d := by
  have hlen := nextChunk_len_pos hp
  have hnew := nextChunk_store d (s.chan c).position
  generalize nextChunk d (s.chan c).position = k at hlen hnew
  have hacct : (s.setChan c ((s.chan c).addChunk k)).Accounted c := h.toAccounted.setChan rfl
  have hold : ∀ x, (∃ j ∈ (s.chan c).chunks, j.store = x) →
      (∃ j ∈ (s.chan c).chunks ++ [k], j.store = x)
        ∧ ∀ j ∈ (s.chan c).chunks ++ [k], j.store = x → j ∈ (s.chan c).chunks := by
    rintro x ⟨j, hj, rfl⟩
    refine ⟨⟨j, List.mem_append_left _ hj, rfl⟩, fun i hi he => ?_⟩
    rcases List.mem_append.mp hi with hi | hi
    · exact hi
    · rw [List.mem_singleton.mp hi] at he
      have := h.position j hj
      omega
  refine ⟨hacct, ?_, ?_, fun p r hr => ?_, fun a ha => ?_, fun j hj => ?_, fun hl => ?_, fun hs => ?_⟩ <;>
    simp only [State.setChan_chan_self] at *
  · exact h.state
  · exact h.current
  · obtain ⟨hfirst, hlook, hchunk⟩ := h.requests p r hr
    refine ⟨hfirst, hlook, fun x hx => ?_⟩
    obtain ⟨hin, hfits⟩ := hchunk x hx
    exact ⟨(hold x hin).1, fun j hj he => hfits j ((hold x hin).2 j hj he) he⟩
  · obtain ⟨hin, hfits⟩ := h.accesses a ha
    exact ⟨(hold _ hin).1, fun j hj he => hfits j ((hold _ hin).2 j hj he) he⟩
  · show j.store < d.store + ((s.chan c).position + k.len)
    rcases List.mem_append.mp hj with hj | hj
    · have := h.position j hj
      omega
    · rw [List.mem_singleton.mp hj]
      omega
  · exact h.last hl
  · obtain ⟨hsome, hfits⟩ := h.stall hs
    refine ⟨hsome, fun r hr => ?_⟩
    obtain ⟨hall, hin, hk⟩ := hfits r hr
    exact ⟨hall, (hold _ hin).1, fun j hj he => hk j ((hold _ hin).2 j hj he) he⟩

/-- A hub request handed joins the end of its channel's waiting list at the owner's port (R115). -/
theorem State.handHub_waiting (s : State) (r : HubRequest) (p : Port) :
    ((s.handHub r).link p).waiting[r.chan]
      = if (s.chan r.chan).owner = some p then (s.link p).waiting[r.chan] ++ [r] else (s.link p).waiting[r.chan] := by
  unfold State.handHub
  split
  · next q hq =>
    rw [State.setLink_link, hq]
    by_cases hp : p = q
    · simp [hp, LinkController.enqueue]
    · simp [hp, Ne.symm hp]
  · next hn => simp [hn]

/-- A hub request handed to the channel's owner joins the requests in flight there (R115). -/
theorem State.requestsAt_handHub (s : State) (r : HubRequest) (p : Port) :
    (s.handHub r).requestsAt p r.chan
      = if (s.chan r.chan).owner = some p then (s.link p).waiting[r.chan] ++ [r] ++ s.issuedAt p r.chan
        else s.requestsAt p r.chan := by
  rw [State.requestsAt_eq, (RunOnly.handHub s r).issuedAt, State.handHub_waiting]
  split
  · rfl
  · rw [State.requestsAt_eq]

theorem State.mem_requestsAt_handHub {s : State} {r q : HubRequest} {p : Port} (h : q ∈ (s.handHub r).requestsAt p r.chan) :
    q = r ∨ q ∈ s.requestsAt p r.chan := by
  rw [State.requestsAt_handHub] at h
  split at h
  · rw [State.requestsAt_eq]
    simp only [List.mem_append, List.mem_singleton] at h ⊢
    tauto
  · exact .inr h

@[simp] theorem State.handHub_waitingAccess (s : State) (r : HubRequest) (c : Channel) :
    (s.handHub r).waitingAccess c = s.waitingAccess c := by
  unfold State.handHub
  split <;> rfl

theorem State.accessesOf_handHub (s : State) (r : HubRequest) : (s.handHub r).accessesOf r.chan = s.accessesOf r.chan := by
  rw [State.accessesOf_eq, State.accessesOf_eq, State.handHub_waitingAccess, (RunOnly.handHub s r).takenAccesses]

/-- A request of a new purpose. -/
theorem State.Accounted.handHub {s : State} {r : HubRequest} (h : s.Accounted r.chan)
    (hnew : ∀ p, ∀ q ∈ s.requestsAt p r.chan, q.purpose ≠ r.purpose) : (s.handHub r).Accounted r.chan := by
  refine ⟨fun p => ?_, fun p q hq => ?_, fun p hp => ?_, ?_⟩
  · have hold := h.nodup p
    rw [State.requestsAt_handHub]
    split
    · have hperm : ((s.link p).waiting[r.chan] ++ [r] ++ s.issuedAt p r.chan).Perm (r :: s.requestsAt p r.chan) := by
        rw [State.requestsAt_eq, List.append_assoc]
        exact List.perm_middle
      rw [(hperm.map _).nodup_iff, List.map_cons, List.nodup_cons]
      refine ⟨fun hm => ?_, hold⟩
      obtain ⟨q, hq, he⟩ := List.mem_map.mp hm
      exact hnew p q hq he
    · exact hold
  · rw [State.handHub_waiting] at hq
    split at hq
    · rcases List.mem_append.mp hq with hq | hq
      · exact h.own p q hq
      · rw [List.mem_singleton.mp hq]
    · exact h.own p q hq
  · rw [State.handHub_chan] at hp
    rw [State.requestsAt_handHub, if_neg hp]
    exact h.atOwner p hp
  · rw [State.accessesOf_handHub]
    exact h.one

/-- A request that fits its chunk is handed (R115). -/
theorem State.Moving.handHub {s : State} {d : Descriptor} {r : HubRequest} (h : s.Moving r.chan d)
    (hfit : (s.chan r.chan).requestFits d r) (hnew : ∀ p, ∀ q ∈ s.requestsAt p r.chan, q.purpose ≠ r.purpose) :
    (s.handHub r).Moving r.chan d := by
  have hchan := State.handHub_chan s r r.chan
  have hacc := State.accessesOf_handHub s r
  refine ⟨h.toAccounted.handHub hnew, hchan ▸ h.state, hchan ▸ h.current, fun p q hq => ?_, ?_, hchan ▸ h.position,
    hchan ▸ h.last, ?_⟩
  · rw [hchan]
    rcases State.mem_requestsAt_handHub hq with rfl | hq
    · exact hfit
    · exact h.requests p q hq
  · rw [hacc, hchan]
    exact h.accesses
  · rw [hacc, hchan]
    exact h.stall

/-- An access that fits its chunk is presented by a channel that has none presented (R114); a STALLED channel presents the one that was
refused (R124). -/
theorem State.Moving.present {s : State} {c : Channel} {d : Descriptor} {a : ChannelAccess} (h : s.Moving c d)
    (hnone : s.accessesOf c = []) (hfit : (s.chan c).accessFits d a)
    (hretry : (s.chan c).state = .stalled → ∀ r ∈ (s.chan c).stall, a = r.refused) :
    (s.setWaiting c (some a)).Moving c d := by
  have hr := RunOnly.setWaiting s c (some a)
  have hacc : (s.setWaiting c (some a)).accessesOf c = [a] := by
    rw [State.accessesOf_eq] at hnone
    rw [State.accessesOf_eq, hr.takenAccesses, State.setWaiting_waitingAccess_self, (List.append_eq_nil_iff.mp hnone).2]
    rfl
  refine ⟨⟨h.nodup, h.own, h.atOwner, ?_⟩, h.state, h.current, h.requests, ?_, h.position, h.last, fun hs => ?_⟩
  · rw [hacc]
    exact Nat.le_refl 1
  · rw [hacc]
    intro b hb
    rw [List.mem_singleton.mp hb]
    exact hfit
  · rw [hacc]
    obtain ⟨hsome, hfits⟩ := h.stall hs
    refine ⟨hsome, fun r hr' => ⟨fun b hb => ?_, (hfits r hr').2⟩⟩
    rw [List.mem_singleton.mp hb]
    exact hretry hs r hr'

/-! ### Moving data -/

/-- The chunk at the position of a channel is the new one alone. -/
theorem State.Moving.new_chunk {s : State} {c : Channel} {d : Descriptor} (h : s.Moving c d) {j : Chunk}
    (hj : j ∈ (s.chan c).chunks ++ [nextChunk d (s.chan c).position])
    (hs : j.store = (nextChunk d (s.chan c).position).store) : j = nextChunk d (s.chan c).position := by
  rcases List.mem_append.mp hj with hj | hj
  · have := h.position j hj
    rw [nextChunk_store] at hs
    omega
  · exact List.mem_singleton.mp hj

/-- A TO_STORE chunk is created and its FETCH handed (R113, R117). -/
theorem State.Moving.createFetch {s : State} {c : Channel} {d : Descriptor} (h : s.Moving c d) (hk : d.kind = .toStore)
    (hp : (s.chan c).position < d.count) : (s.createFetch c d).Moving c d := by
  unfold State.createFetch
  refine State.Moving.handHub (r := ⟨c, _, _⟩) (h.addChunk hp) ?_ fun p q hq he => ?_
  · dsimp only
    rw [State.setChan_chan_self]
    refine ⟨nofun, nofun, fun x hx => ?_⟩
    cases hx
    refine ⟨⟨_, List.mem_append_right _ (List.mem_singleton_self _), rfl⟩, fun j hj hjs => ⟨fun _ => ⟨hk, ?_⟩, nofun⟩⟩
    rw [h.new_chunk hj hjs]
    exact nextChunk_state (by rw [hk]; exact nofun) _
  · have hq : q ∈ s.requestsAt p c := hq
    obtain ⟨⟨j, hj, hjs⟩, _⟩ := h.request_chunk hq he
    have := h.position j hj
    rw [nextChunk_store] at hjs
    omega

theorem State.Moving.createFetches {s : State} {c : Channel} {d : Descriptor} (h : s.Moving c d) (hk : d.kind = .toStore)
    (n : Nat) : (s.createFetches c d n).Moving c d := by
  induction n generalizing s with
  | zero => exact h
  | succ n ih =>
    unfold State.createFetches
    split
    · next hroom => exact ih (h.createFetch hk hroom.2)
    · exact h

theorem State.Moving.createChunks {s : State} {c : Channel} {d : Descriptor} (h : s.Moving c d) :
    (s.createChunks c d).Moving c d := by
  unfold State.createChunks
  split
  · next hk =>
    split
    · exact h.createFetches hk 4
    · exact h
  all_goals exact h

/-- Changing a chunk's buffer or state leaves its store address. -/
theorem Chunk.store_ite (k : Chunk) (x : Nat) (st : ChunkState) :
    (if k.store = x then { k with state := st } else k).store = k.store := by
  split <;> rfl

/-- The first chunk's write is presented when its data is held (step 1 of R114). -/
theorem State.Moving.presentFirst {s : State} {c : Channel} {d : Descriptor} (h : s.Moving c d)
    (hs : (s.chan c).state = .running) (hnone : s.accessesOf c = []) : (s.presentFirst c).Moving c d := by
  unfold State.presentFirst
  split
  · next k rest hchunks =>
    split
    · next hheld =>
      have hmem : k ∈ (s.chan c).chunks := hchunks ▸ List.mem_cons_self
      have hmarked : (s.setChan c ((s.chan c).setChunkState k.store .writing)).Moving c d := by
        refine h.mapChunks (fun j => j.store_ite ..) (fun j hj => if_neg hj) (fun p r hr he => ?_) (fun a ha => ?_) fun hst => ?_
        · exact absurd he (h.no_request hmem (.inl hheld) p r hr)
        · rw [hnone] at ha
          cases ha
        · rw [hs] at hst
          cases hst
      refine hmarked.present hnone ?_ fun hst => ?_
      · rw [State.setChan_chan_self]
        refine ⟨⟨_, List.mem_map_of_mem hmem, Chunk.store_ite ..⟩, fun j hj hjs => ⟨fun _ => ?_, nofun⟩⟩
        obtain ⟨i, _, rfl⟩ := List.mem_map.mp hj
        rw [Chunk.store_ite] at hjs
        rw [if_pos (show i.store = k.store from hjs)]
      · rw [State.setChan_chan_self] at hst
        exact absurd (hs.symm.trans hst) nofun
    · exact h
  · exact h

/-- A chunk is created and its store read presented (steps 2 and 3 of R114). -/
theorem State.Moving.createRead {s : State} {c : Channel} {d : Descriptor} (h : s.Moving c d)
    {access : Option Handle → Chunk → ChannelAccess} (hs : (s.chan c).state = .running) (hnone : s.accessesOf c = [])
    (hp : (s.chan c).position < d.count) (hkind : d.kind ≠ .toStore ∧ d.kind ≠ .storeFill)
    (hread : ∀ g k, (access g k).chunk = k.store ∧ (access g k).access.op.isWrite = false) :
    (s.createRead c d access).Moving c d := by
  refine (h.addChunk hp).present hnone ?_ fun hst => ?_
  · rw [State.setChan_chan_self]
    obtain ⟨hchunk, hop⟩ := hread (s.chan c).guard (nextChunk d (s.chan c).position)
    rw [ChannelContext.accessFits, hchunk, hop]
    refine ⟨⟨_, List.mem_append_right _ (List.mem_singleton_self _), rfl⟩, fun j hj hjs => ⟨nofun, fun _ => ⟨hkind.1, ?_⟩⟩⟩
    rw [h.new_chunk hj hjs]
    exact nextChunk_state hkind.2 _
  · rw [State.setChan_chan_self] at hst
    exact absurd (hs.symm.trans hst) nofun

/-- What a RUNNING channel with no access presented presents (R114). -/
theorem State.Moving.presentNext {s : State} {c : Channel} {d : Descriptor} (h : s.Moving c d)
    (hs : (s.chan c).state = .running) (hnone : s.accessesOf c = []) : (s.presentNext c d).Moving c d := by
  unfold State.presentNext
  split
  · exact h.presentFirst hs hnone
  · next hk =>
    split
    · next hroom => exact h.createRead hs hnone hroom.2 (by rw [hk]; decide) fun _ _ => ⟨rfl, rfl⟩
    · exact h
  · next hk =>
    split
    · next hroom => exact h.createRead hs hnone hroom.2 (by rw [hk]; decide) fun _ _ => ⟨rfl, rfl⟩
    · exact h.presentFirst hs hnone
  · split
    · next hroom =>
      refine (h.addChunk hroom.2).presentFirst ?_ hnone
      rw [State.setChan_chan_self]
      exact hs
    · exact h.presentFirst hs hnone

/-- The action that made room moves the run on (R113, R114). -/
theorem State.Moving.work {s : State} {c : Channel} {d : Descriptor} (h : s.Moving c d) : (s.work c).Moving c d := by
  unfold State.work
  rw [h.current]
  dsimp only
  split
  · next hrun =>
    exact h.createChunks.presentNext hrun.1 ((State.accessPresented_eq_false_iff ..).mp (Bool.eq_false_iff.mpr hrun.2))
  · exact h.createChunks

/-! ### Advancing through the list -/

theorem State.Quiet.accounted {s : State} {c : Channel} (h : s.Quiet c) : s.Accounted c := by
  refine ⟨fun p => ?_, fun p r hr => ?_, fun p _ => h.requests p, ?_⟩
  · rw [h.requests p]
    exact List.nodup_nil
  · have hnil := h.requests p
    rw [State.requestsAt_eq] at hnil
    rw [(List.append_eq_nil_iff.mp hnil).1] at hr
    cases hr
  · rw [h.accesses]
    exact Nat.zero_le 1

/-- The next-descriptor field takes a value that fits what is in flight (R95). -/
theorem State.Moving.setNext {s : State} {c : Channel} {d : Descriptor} (h : s.Moving c d) {n : Option Lookahead}
    (hl : d.last = true → n = none) (hr : ∀ p, ∀ r ∈ s.requestsAt p c, r.purpose = .lookahead → n = some .fetching) :
    (s.setChan c { s.chan c with next := n }).Moving c d := by
  have hacct : (s.setChan c { s.chan c with next := n }).Accounted c := h.toAccounted.setChan rfl
  refine ⟨hacct, ?_, ?_, fun p r hm => ?_, ?_, ?_, ?_, ?_⟩ <;> simp only [State.setChan_chan_self]
  · exact h.state
  · exact h.current
  · obtain ⟨hfirst, _, hchunk⟩ := h.requests p r hm
    exact ⟨hfirst, hr p r hm, hchunk⟩
  · exact h.accesses
  · exact h.position
  · exact hl
  · exact h.stall

/-- The lookahead FETCH of a descriptor not LAST is handed where none is in flight (R95). -/
theorem State.Moving.handLookahead {s : State} {c : Channel} {d : Descriptor} (h : s.Moving c d) (hl : d.last = false)
    (hn : (s.chan c).next = none) : (s.handLookahead c).Moving c d := by
  have hnone : ∀ p, ∀ r ∈ s.requestsAt p c, r.purpose ≠ .lookahead := fun p r hr he => by
    obtain ⟨_, hlook, _⟩ := h.requests p r hr
    exact absurd (hn.symm.trans (hlook he)) nofun
  have hnext : (s.setChan c { s.chan c with next := some .fetching }).Moving c d :=
    h.setNext (fun hlast => absurd (hl.symm.trans hlast) nofun) fun _ _ _ _ => rfl
  refine State.Moving.handHub (r := ⟨c, .lookahead, _⟩) hnext ⟨nofun, fun _ => ?_, nofun⟩ fun p q hq => hnone p q hq
  rw [State.setChan_chan_self]

/-- With nothing in flight and no chunk left, the next descriptor begins. -/
theorem State.Quiet.begin {s : State} {c : Channel} (h : s.Quiet c) (hk : (s.chan c).chunks = []) (d : Descriptor) (i : Nat) :
    (s.setChan c ((s.chan c).begin d i)).Moving c d := by
  have hq := h.setChan ((s.chan c).begin d i)
  have hchan := State.setChan_chan_self s c ((s.chan c).begin d i)
  generalize s.setChan c ((s.chan c).begin d i) = t at hq hchan
  refine ⟨hq.accounted, ?_, ?_, fun p r hr => ?_, fun a ha => ?_, fun j hj => ?_, fun _ => ?_, fun hs => ?_⟩
  · rw [hchan]
    exact .inl rfl
  · rw [hchan]
    rfl
  · rw [hq.requests p] at hr
    cases hr
  · rw [hq.accesses] at ha
    cases ha
  · rw [hchan] at hj
    exact absurd (hk ▸ hj : j ∈ []) List.not_mem_nil
  · rw [hchan]
    rfl
  · rw [hchan] at hs
    cases hs

/-- A descriptor becomes current (R94 to R96). -/
theorem State.Quiet.flightLawful_becomeCurrent {s : State} {c : Channel} (h : s.Quiet c) (hk : (s.chan c).chunks = [])
    (ho : (s.chan c).owner.isSome = true) (d : Descriptor) (i : Nat) : (s.becomeCurrent c d i).flightLawful c := by
  have hm := h.begin hk d i
  have hnext : ((s.setChan c ((s.chan c).begin d i)).chan c).next = none := by
    rw [State.setChan_chan_self]
    rfl
  have howner : ((s.setChan c ((s.chan c).begin d i)).chan c).owner.isSome = true := by
    rw [State.setChan_chan_self]
    exact ho
  rw [State.becomeCurrent_eq]
  generalize s.setChan c ((s.chan c).begin d i) = t at hm hnext howner
  split
  · exact hm.work.flightLawful
  next hl =>
  have hl : d.last = false := Bool.eq_false_iff.mpr hl
  split
  · exact hm.toAccounted.flightLawful_faultWith howner ..
  split
  · exact (hm.handLookahead hl hnext).work.flightLawful
  · refine (hm.work.handLookahead hl ?_).flightLawful
    rw [(State.work_dataOnly ..).next]
    exact hnext

/-- With no chunk left, a RUNNING or STALLED channel has at most its lookahead in flight. -/
theorem State.Moving.quiet_of_chunks_nil {s : State} {c : Channel} {d : Descriptor} (h : s.Moving c d)
    (hk : (s.chan c).chunks = []) (hn : ∀ p, ∀ r ∈ s.requestsAt p c, r.purpose ≠ .lookahead) : s.Quiet c := by
  refine ⟨fun p => List.eq_nil_iff_forall_not_mem.mpr fun r hr => ?_, List.eq_nil_iff_forall_not_mem.mpr fun a ha => ?_⟩
  · obtain ⟨hfirst, _, hchunk⟩ := h.requests p r hr
    cases hpu : r.purpose with
    | first => exact hfirst hpu
    | lookahead => exact hn p r hr hpu
    | chunk st =>
      obtain ⟨⟨k, hmem, _⟩, _⟩ := hchunk st (by rw [hpu]; rfl)
      exact absurd (hk ▸ hmem : k ∈ []) List.not_mem_nil
  · obtain ⟨⟨k, hmem, _⟩, _⟩ := h.accesses a ha
    exact absurd (hk ▸ hmem : k ∈ []) List.not_mem_nil

/-- No lookahead is in flight while the next-descriptor field is not FETCHING (R95). -/
theorem State.Moving.no_lookahead {s : State} {c : Channel} {d : Descriptor} (h : s.Moving c d)
    (hn : (s.chan c).next ≠ some .fetching) : ∀ p, ∀ r ∈ s.requestsAt p c, r.purpose ≠ .lookahead := fun p r hr he => by
  obtain ⟨_, hlook, _⟩ := h.requests p r hr
  exact hn (hlook he)

/-- Step 3 of R96. -/
theorem State.Moving.flightLawful_advance {s : State} {c : Channel} {d : Descriptor} (h : s.Moving c d)
    (hk : (s.chan c).chunks = []) (ho : (s.chan c).owner.isSome = true) : (s.advance c).flightLawful c := by
  unfold State.advance
  split
  · next e hn =>
    exact (h.quiet_of_chunks_nil hk (h.no_lookahead (by rw [hn]; exact nofun))).flightLawful_becomeCurrent hk ho ..
  · exact h.toAccounted.flightLawful_faultWith ho ..
  all_goals exact h.flightLawful

/-- RUN_COMPLETE with nothing in flight (R97). -/
theorem State.Quiet.flightLawful_completeRun {s : State} {c : Channel} (h : s.Quiet c) : (s.completeRun c).flightLawful c := by
  refine State.Quiet.flightLawful ((RunOnly.completeRun s c).quiet h (fun p => ?_) ?_) ?_
  · rw [State.completeRun, State.handOwner_link]
    rfl
  · rw [State.completeRun, State.handOwner_waitingAccess]
    rfl
  · rw [State.completeRun_chan]
    rintro (hs | hs) <;> cases hs

/-- The events a channel hands leave what it has in flight. -/
theorem FlightWithin.handOwner (s : State) (c d : Channel) (e : NoticeEvent) : FlightWithin d s (s.handOwner c e) := by
  unfold State.handOwner
  split
  · exact ⟨rfl, fun _ => .refl _, fun _ _ => id, .refl _, id⟩
  · exact .refl d s

/-- DESCRIPTOR_DONE (R96). -/
theorem State.Moving.flightLawful_descriptorDone {s : State} {c : Channel} {d : Descriptor} (h : s.Moving c d)
    (hk : (s.chan c).chunks = []) (ho : (s.chan c).owner.isSome = true) : (s.descriptorDone c d).flightLawful c := by
  have hmark : FlightWithin c s (if d.notify then s.handOwner c (.channelMark c (s.chan c).index) else s) := by
    split
    · exact .handOwner ..
    · exact .refl c s
  have hm := h.within hmark
  unfold State.descriptorDone
  dsimp only
  rw [← hmark.chan] at hk ho
  generalize (if d.notify then s.handOwner c (.channelMark c (s.chan c).index) else s) = t at hm hk ho
  split
  · next hl => exact (hm.quiet_of_chunks_nil hk (hm.no_lookahead (by rw [hm.last hl]; exact nofun))).flightLawful_completeRun
  · exact hm.flightLawful_advance hk ho

/-- After a chunk is retired. -/
theorem State.Moving.flightLawful_progress {s : State} {c : Channel} {d : Descriptor} (h : s.Moving c d)
    (ho : (s.chan c).owner.isSome = true) : (s.progress c).flightLawful c := by
  unfold State.progress
  rw [h.current]
  dsimp only
  split
  · next hdone =>
    obtain ⟨_, _, hk, _⟩ := (ChannelContext.dataDone_iff _).mp hdone
    exact h.flightLawful_descriptorDone hk ho
  · exact h.work.flightLawful

/-- A chunk with nothing in flight for it leaves the list (R112). -/
theorem State.Moving.retire {s : State} {c : Channel} {d : Descriptor} (h : s.Moving c d) {st : Nat}
    (hreq : ∀ p, ∀ r ∈ s.requestsAt p c, r.purpose ≠ .chunk st) (hacc : ∀ a ∈ s.accessesOf c, a.chunk ≠ st)
    (hstall : (s.chan c).state = .stalled → ∀ r ∈ (s.chan c).stall, r.refused.chunk ≠ st) :
    (s.setChan c ((s.chan c).retire st)).Moving c d := by
  have hacct : (s.setChan c ((s.chan c).retire st)).Accounted c :=
    h.toAccounted.setChan (by rw [ChannelContext.retire_eq])
  have hkeep : ∀ x ≠ st, (∃ k ∈ (s.chan c).chunks, k.store = x) →
      ∃ k ∈ (s.chan c).chunks.filter fun j => j.store != st, k.store = x := by
    rintro x hx ⟨k, hk, rfl⟩
    exact ⟨k, List.mem_filter.mpr ⟨hk, by simpa using hx⟩, rfl⟩
  refine ⟨hacct, ?_, ?_, fun p r hr => ?_, fun a ha => ?_, fun k hk => ?_, fun hl => ?_, fun hs => ?_⟩ <;>
    simp only [State.setChan_chan_self] at * <;> rw [ChannelContext.retire_eq] at *
  · exact h.state
  · exact h.current
  · obtain ⟨hfirst, hlook, hchunk⟩ := h.requests p r hr
    refine ⟨hfirst, hlook, fun x hx => ?_⟩
    have hne : x ≠ st := by
      rintro rfl
      refine hreq p r hr ?_
      cases hpu : r.purpose <;> rw [hpu] at hx <;> cases hx
      rfl
    exact ⟨hkeep x hne (hchunk x hx).1, fun k hk => (hchunk x hx).2 k (List.mem_of_mem_filter hk)⟩
  · obtain ⟨hin, hfits⟩ := h.accesses a ha
    exact ⟨hkeep _ (hacc a ha) hin, fun k hk => hfits k (List.mem_of_mem_filter hk)⟩
  · exact h.position k (List.mem_of_mem_filter hk)
  · exact h.last hl
  · obtain ⟨hsome, hfits⟩ := h.stall hs
    refine ⟨hsome, fun r hr => ?_⟩
    obtain ⟨hall, hin, hk⟩ := hfits r hr
    exact ⟨hall, hkeep _ (hstall hs r hr) hin, fun k hm => hk k (List.mem_of_mem_filter hm)⟩

end Sys2Proof.Machine
end

section
/-! SUPPORT. Law 9 when a channel takes an ending, an outcome, an announcement or a port-down event, and when slots are given. -/

namespace Sys2Proof.Machine

/-! ### Endings of hub requests (R94, R95, R117, R118, Table 5.6) -/

theorem State.Accounted.flightLawful_endingInAbort {s : State} {c : Channel} (h : s.flightLawful c)
    (hs : (s.chan c).state = .aborting) (ho : (s.chan c).owner.isSome = true) (r : HubRequest) (how : Ending) :
    (s.endingInAbort c r how).flightLawful c := by
  obtain ⟨hwait, hnone⟩ := h.aborting hs
  unfold State.endingInAbort
  split
  · next store _ _ =>
    refine State.Accounted.flightLawful_finishAborting (h.accounted.setChan (by rw [ChannelContext.retire_eq])) ?_ ?_ hwait hnone
    · rw [State.setChan_chan_self, ChannelContext.retire_state]
      exact hs
    · rw [State.setChan_chan_self, ChannelContext.retire_eq]
      exact ho
  · exact h.accounted.flightLawful_finishAborting hs ho hwait hnone

/-- The ending of a hub request that was in flight in s, taken by its channel in t, where it is in flight no more. -/
structure EndingTaken (s t : State) (r : HubRequest) : Prop where
  within : FlightWithin r.chan s t
  inFlight : ∃ p, r ∈ s.requestsAt p r.chan
  gone : ∀ p, ∀ q ∈ t.requestsAt p r.chan, q.purpose ≠ r.purpose

/-- A LOADING channel's ending was the last it had in flight (R92). -/
theorem EndingTaken.quiet_of_loading {s t : State} {r : HubRequest} (h : EndingTaken s t r) (hf : s.flightLawful r.chan)
    (hs : (s.chan r.chan).state = .loading) : r.purpose = .first ∧ t.Quiet r.chan := by
  obtain ⟨hfirst, hnone⟩ := hf.loading hs
  obtain ⟨p, hr⟩ := h.inFlight
  have hpurpose := hfirst p r hr
  refine ⟨hpurpose, fun q => List.eq_nil_iff_forall_not_mem.mpr fun x hx => ?_, ?_⟩
  · exact h.gone q x hx (by rw [hpurpose, hfirst q x ((h.within.requests q).subset hx)])
  · exact List.sublist_nil.mp (hnone ▸ h.within.accesses)

/-- The ending of another request than descriptor 0's is taken by an active channel that moves data. -/
theorem EndingTaken.moving {s t : State} {r : HubRequest} (h : EndingTaken s t r) (hf : s.flightLawful r.chan)
    (ha : (s.chan r.chan).state.active = true) (hp : r.purpose ≠ .first) : ∃ d, s.Moving r.chan d := by
  cases hs : (s.chan r.chan).state with
  | loading => exact absurd (h.quiet_of_loading hf hs).1 hp
  | running => exact hf.moving (.inl hs)
  | stalled => exact hf.moving (.inr hs)
  | idle | aborting | complete | faulted | stopped => rw [hs] at ha; cases ha

/-- Every ending of an active channel's lookahead (R95). -/
theorem State.Moving.flightLawful_lookaheadEnding {s : State} {c : Channel} {d : Descriptor} (h : s.Moving c d)
    (ho : (s.chan c).owner.isSome = true) (hn : (s.chan c).next = some .fetching)
    (hgone : ∀ p, ∀ q ∈ s.requestsAt p c, q.purpose ≠ .lookahead) (how : Ending) :
    (s.lookaheadEnding c how).flightLawful c := by
  have hnext : (s.setChan c { s.chan c with next := some (lookaheadOf how) }).Moving c d := by
    refine h.setNext (fun hl => ?_) fun p q hq he => absurd he (hgone p q hq)
    exact absurd ((h.last hl).symm.trans hn) nofun
  unfold State.lookaheadEnding
  dsimp only
  split
  · next hdone =>
    obtain ⟨_, _, hk, _⟩ := (ChannelContext.dataDone_iff _).mp hdone
    refine hnext.flightLawful_advance hk ?_
    rw [State.setChan_chan_self]
    exact ho
  · exact hnext.flightLawful

theorem Chunk.store_fill (k : Chunk) (x : Nat) (data : List Word) (st : ChunkState) :
    (if k.store = x then { k with buffer := data, state := st } else k).store = k.store := by
  split <;> rfl

/-- A chunk with nothing in flight for it has its buffer filled (R117 to R119). -/
theorem State.Moving.fillChunk {s : State} {c : Channel} {d : Descriptor} (h : s.Moving c d) {st : Nat}
    (hreq : ∀ p, ∀ r ∈ s.requestsAt p c, r.purpose ≠ .chunk st) (hacc : ∀ a ∈ s.accessesOf c, a.chunk ≠ st)
    (hstall : (s.chan c).state = .stalled → ∀ r ∈ (s.chan c).stall, r.refused.chunk ≠ st) (data : List Word)
    (cs : ChunkState) : (s.setChan c ((s.chan c).fillChunk st data cs)).Moving c d :=
  h.mapChunks (fun k => k.store_fill ..) (fun _ hk => if_neg hk) (fun p r hr he => absurd he (hreq p r hr)) hacc
    fun hs r hr he => absurd he (hstall hs r hr)

theorem State.flightLawful_activeEnding {s t : State} {r : HubRequest} (hl : (s.chan r.chan).lawful)
    (hf : s.flightLawful r.chan) (h : EndingTaken s t r) (ha : (t.chan r.chan).state.active = true) (how : Ending) :
    (t.activeEnding r.chan r how).flightLawful r.chan := by
  have hchan := h.within.chan
  have hkept : t.flightLawful r.chan := hf.within h.within
  have howner : (t.chan r.chan).owner.isSome = true := by
    obtain ⟨p, hp⟩ := hl.owned (ChanState.ne_idle_of_active (hchan ▸ ha))
    rw [hchan, hp]
    rfl
  have hfault : ∀ code i a, (t.faultRun r.chan code i a).flightLawful r.chan := fun _ _ _ =>
    hkept.accounted.flightLawful_faultWith howner ..
  have hfree : ∀ d st, s.Moving r.chan d → r.purpose = .chunk st →
      (∀ p, ∀ q ∈ t.requestsAt p r.chan, q.purpose ≠ .chunk st) ∧ (∀ a ∈ t.accessesOf r.chan, a.chunk ≠ st)
        ∧ ((t.chan r.chan).state = .stalled → ∀ x ∈ (t.chan r.chan).stall, x.refused.chunk ≠ st) := by
    intro d st hm hp
    obtain ⟨q, hq⟩ := h.inFlight
    obtain ⟨hacc, hstall⟩ := hm.no_access hq hp
    refine ⟨fun p x hx => hp ▸ h.gone p x hx, fun a ha => hacc a (h.within.accesses.subset ha), ?_⟩
    rw [hchan]
    exact hstall
  unfold State.activeEnding
  split
  · split
    · next hs =>
      have hquiet := (h.quiet_of_loading hf (hchan ▸ hs)).2
      have hk : (t.chan r.chan).chunks = [] := by
        rw [hchan]
        exact (hl.empty (.inl (hchan ▸ hs))).1
      unfold State.firstEnding
      split
      · split
        · exact hquiet.flightLawful_becomeCurrent hk howner ..
        · exact hfault ..
      · exact hfault ..
      · exact hfault ..
      · exact hkept
    · exact hkept
  · next hp =>
    obtain ⟨d, hm⟩ := h.moving hf (hchan ▸ ha) (by rw [hp]; exact nofun)
    split
    · next hn => exact (hm.within h.within).flightLawful_lookaheadEnding howner hn (fun p q hq => hp ▸ h.gone p q hq) how
    · exact hkept
  · next st _ _ hp _ =>
    obtain ⟨d, hm⟩ := h.moving hf (hchan ▸ ha) (by rw [hp]; exact nofun)
    obtain ⟨hreq, hacc, hstall⟩ := hfree d st hm hp
    unfold State.chunkFetchEnding
    split
    · exact ((hm.within h.within).fillChunk hreq hacc hstall ..).work.flightLawful
    · exact hfault ..
    · exact hfault ..
    · exact hkept
  · next st _ _ hp _ =>
    obtain ⟨d, hm⟩ := h.moving hf (hchan ▸ ha) (by rw [hp]; exact nofun)
    obtain ⟨hreq, hacc, hstall⟩ := hfree d st hm hp
    unfold State.chunkStoreEnding
    split
    · refine ((hm.within h.within).retire hreq hacc hstall).flightLawful_progress ?_
      rw [State.setChan_chan_self, ChannelContext.retire_eq]
      exact howner
    · exact hfault ..
    · exact hfault ..
    · exact hkept

theorem State.flightLawful_takeEnding {s t : State} {r : HubRequest} (hl : (s.chan r.chan).lawful)
    (hf : s.flightLawful r.chan) (h : EndingTaken s t r) (how : Ending) : (t.takeEnding r how).flightLawful r.chan := by
  have hkept : t.flightLawful r.chan := hf.within h.within
  unfold State.takeEnding
  split
  · next hs =>
    obtain ⟨p, hp⟩ := hl.owned (by rw [← h.within.chan, hs]; exact nofun)
    exact State.Accounted.flightLawful_endingInAbort hkept hs (by rw [h.within.chan, hp]; rfl) r how
  split
  · next ha => exact State.flightLawful_activeEnding hl hf h ha how
  · exact hkept

/-! ### Outcomes of store accesses (R122, R123, Table 6.3) -/

/-- The stall ends (R124). -/
theorem State.Moving.endStall {s : State} {c : Channel} {d : Descriptor} (h : s.Moving c d) : (s.endStall c).Moving c d := by
  have hacct : (s.endStall c).Accounted c := State.Accounted.setChan h.toAccounted rfl
  have hchan : (s.endStall c).chan c = { s.chan c with state := .running, stall := none } := State.setChan_chan_self ..
  refine ⟨hacct, .inl ?_, ?_, ?_, ?_, ?_, ?_, fun hs => ?_⟩
  all_goals try rw [hchan]
  · exact h.current
  · exact h.requests
  · exact h.accesses
  · exact h.position
  · exact h.last
  · rw [hchan] at hs
    cases hs

/-- A channel with no access presented stalls with a record that fits its chunks (R123). -/
theorem State.Moving.setStalled {s : State} {c : Channel} {d : Descriptor} (h : s.Moving c d) (hnone : s.accessesOf c = [])
    {r : StallRecord} (hin : ∃ k ∈ (s.chan c).chunks, k.store = r.refused.chunk)
    (hfit : ∀ k ∈ (s.chan c).chunks, k.store = r.refused.chunk →
      (r.refused.access.op.isWrite = true → k.state = .dataHeld ∨ k.state = .writing)
      ∧ (r.refused.access.op.isWrite = false → d.kind ≠ .toStore ∧ k.state = .requested)) :
    (s.setChan c { s.chan c with state := .stalled, stall := some r }).Moving c d := by
  have hacct : (s.setChan c { s.chan c with state := .stalled, stall := some r }).Accounted c := h.toAccounted.setChan rfl
  have hacc : (s.setChan c { s.chan c with state := .stalled, stall := some r }).accessesOf c = [] := hnone
  refine ⟨hacct, ?_, ?_, ?_, ?_, ?_, ?_, fun _ => ?_⟩
  all_goals rw [State.setChan_chan_self]
  · exact .inr rfl
  · exact h.current
  · exact h.requests
  · exact h.accesses
  · exact h.position
  · exact h.last
  · refine ⟨rfl, fun x hx => ?_⟩
    cases hx
    refine ⟨fun a ha => ?_, hin, hfit⟩
    rw [hacc] at ha
    cases ha

/-- The stall record of a channel whose access was refused (R123): the one it has, or a new one. -/
def State.stallRecord (s : State) (c : Channel) (a : ChannelAccess) : StallRecord :=
  (s.chan c).stall.getD ⟨granuleOf a.access.addr, 0, s.settings.stallLimit.toNat, a⟩

theorem State.stallChannel_eq (s : State) (c : Channel) (a : ChannelAccess) :
    s.stallChannel c a = if a.access.op.isWrite then
        s.setChan c { (s.chan c).setChunkState a.chunk .dataHeld with state := .stalled, stall := some (s.stallRecord c a) }
      else s.setChan c { s.chan c with state := .stalled, stall := some (s.stallRecord c a) } := by
  cases hr : (s.chan c).stall <;> by_cases hop : a.access.op.isWrite = true <;>
    simp [State.stallChannel, State.stallRecord, hr, hop]

/-- An access that was the channel's one in flight has been refused by another port's lock: the channel stalls (R123). -/
theorem State.Moving.stallChannel {s : State} {c : Channel} {d : Descriptor} {a : ChannelAccess} (h : s.Moving c d)
    (hl : (s.chan c).lawful) (hnone : s.accessesOf c = []) (hfit : (s.chan c).accessFits d a)
    (hretry : (s.chan c).state = .stalled → ∀ r ∈ (s.chan c).stall, a = r.refused) : (s.stallChannel c a).Moving c d := by
  have hra : (s.stallRecord c a).refused = a := by
    unfold State.stallRecord
    cases hr : (s.chan c).stall with
    | none => rfl
    | some r =>
      by_cases hs : (s.chan c).state = .stalled
      · exact (hretry hs r hr).symm
      · exact absurd ((hl.stall_none hs).symm.trans hr) nofun
  obtain ⟨⟨k, hk, hka⟩, hall⟩ := hfit
  rw [State.stallChannel_eq]
  generalize s.stallRecord c a = r at hra
  by_cases hop : a.access.op.isWrite = true
  · have hwriting := (hall k hk hka).1 hop
    have hheld : (s.setChan c ((s.chan c).setChunkState a.chunk .dataHeld)).Moving c d := by
      refine h.mapChunks (fun j => j.store_ite ..) (fun j hj => if_neg hj) (fun p q hq he => ?_) (fun b hb => ?_)
        fun hs x hx _ j _ hj => ⟨fun _ => .inl (by rw [if_pos hj]), fun hr => ?_⟩
      · exact absurd (hka ▸ he) (h.no_request hk (.inr (.inl hwriting)) p q hq)
      · rw [hnone] at hb
        cases hb
      · rw [← hretry hs x hx, hop] at hr
        cases hr
    have hstalled := State.Moving.setStalled (r := r) hheld hnone (by
      rw [State.setChan_chan_self, hra]
      exact ⟨_, List.mem_map_of_mem hk, (Chunk.store_ite ..).trans hka⟩) (by
      rw [State.setChan_chan_self, hra, hop]
      refine fun j hj hjs => ⟨fun _ => .inl ?_, nofun⟩
      obtain ⟨i, _, rfl⟩ := List.mem_map.mp hj
      rw [Chunk.store_ite] at hjs
      rw [if_pos hjs])
    rw [State.setChan_chan_self, State.setChan_twice] at hstalled
    rw [if_pos hop]
    exact hstalled
  · have hread : a.access.op.isWrite = false := Bool.eq_false_iff.mpr hop
    rw [if_neg hop]
    refine h.setStalled hnone ?_ ?_
    · rw [hra]
      exact ⟨k, hk, hka⟩
    · rw [hra, hread]
      exact fun j hj hjs => ⟨nofun, fun _ => (hall j hj hjs).2 hread⟩

/-- A carried out access of a RUNNING channel moves its chunk on (R117 to R120). -/
theorem State.Moving.flightLawful_chunkCarriedOut {s : State} {c : Channel} {d : Descriptor} {a : ChannelAccess}
    (h : s.Moving c d) (hs : (s.chan c).state = .running) (ho : (s.chan c).owner.isSome = true)
    (hnone : s.accessesOf c = []) (hfit : (s.chan c).accessFits d a) (data : List Word) :
    (s.chunkCarriedOut c a data).flightLawful c := by
  obtain ⟨⟨k, hk, hka⟩, hall⟩ := hfit
  obtain ⟨hwrite, hread⟩ := hall k hk hka
  have hacc : ∀ b ∈ s.accessesOf c, b.chunk ≠ a.chunk := fun b hb => by
    rw [hnone] at hb
    cases hb
  have hstall : (s.chan c).state = .stalled → ∀ r ∈ (s.chan c).stall, r.refused.chunk ≠ a.chunk := fun hst =>
    absurd (hs.symm.trans hst) nofun
  unfold State.chunkCarriedOut
  split
  · next hop =>
    have hreq : ∀ p, ∀ r ∈ s.requestsAt p c, r.purpose ≠ .chunk a.chunk := by
      rw [← hka]
      exact h.no_request hk (.inr (.inl (hwrite hop)))
    refine (h.retire hreq hacc hstall).flightLawful_progress ?_
    rw [State.setChan_chan_self, ChannelContext.retire_eq]
    exact ho
  next hop =>
  have hrequested := hread (Bool.eq_false_iff.mpr hop)
  have hreq : ∀ p, ∀ r ∈ s.requestsAt p c, r.purpose ≠ .chunk a.chunk := by
    rw [← hka]
    exact h.no_request hk (.inr (.inr hrequested))
  split
  · next e _ hcur _ =>
    have hed : e = d := Option.some.inj (hcur.symm.trans h.current)
    subst hed
    split
    · next hkind =>
      refine (State.Moving.handHub (r := ⟨c, _, _⟩) (h.fillChunk hreq hacc hstall data .readDone) ?_ hreq).work.flightLawful
      dsimp only
      rw [State.setChan_chan_self]
      refine ⟨nofun, nofun, fun x hx => ?_⟩
      cases hx
      refine ⟨⟨_, List.mem_map_of_mem hk, (Chunk.store_fill ..).trans hka⟩, fun j hj hjs => ⟨nofun, fun _ => ⟨hkind, .inl ?_⟩⟩⟩
      obtain ⟨i, _, rfl⟩ := List.mem_map.mp hj
      rw [Chunk.store_fill] at hjs
      rw [if_pos hjs]
    · exact (h.fillChunk hreq hacc hstall data .dataHeld).work.flightLawful
  · exact h.flightLawful

/-- An outcome handed is the channel's one store access in flight; taken, none is left. -/
theorem State.Accounted.setOutcome_none {s : State} {c : Channel} {a : ChannelAccess} {o : AccessOutcome} (h : s.Accounted c)
    (ho : s.outcomeOf c = some (a, o)) :
    a ∈ s.accessesOf c ∧ (s.setOutcome c none).accessesOf c = [] ∧ s.waitingAccess c = none := by
  have hone := h.one
  rw [State.accessesOf_eq, State.takenAccesses, ho] at hone ⊢
  have hgranted : (s.setOutcome c none).grantedAccess c = s.grantedAccess c := rfl
  have hwaiting : (s.setOutcome c none).waitingAccess c = s.waitingAccess c := rfl
  rw [State.accessesOf_eq, State.takenAccesses, State.setOutcome_outcomeOf_self, hgranted, hwaiting]
  cases hw : s.waitingAccess c with
  | some x => simp [hw] at hone
  | none => cases hg : s.grantedAccess c <;> simp [hg, hw] at hone ⊢

theorem FlightWithin.setOutcome_none (s : State) (c : Channel) : FlightWithin c s (s.setOutcome c none) := by
  refine ⟨rfl, fun _ => .refl _, fun _ _ => id, ?_, id⟩
  have hgranted : (s.setOutcome c none).grantedAccess c = s.grantedAccess c := rfl
  have hwaiting : (s.setOutcome c none).waitingAccess c = s.waitingAccess c := rfl
  rw [State.accessesOf_eq, State.accessesOf_eq, State.takenAccesses, State.takenAccesses, State.setOutcome_outcomeOf_self,
    hgranted, hwaiting]
  exact (List.Sublist.refl _).append ((List.Sublist.refl _).append (List.nil_sublist _))

theorem State.flightLawful_takeOutcome {s : State} {c : Channel} {a : ChannelAccess} {o : AccessOutcome}
    (hl : (s.chan c).lawful) (hf : s.flightLawful c) (ho : s.outcomeOf c = some (a, o)) :
    ((s.setOutcome c none).takeOutcome c a o).flightLawful c := by
  have hwithin := FlightWithin.setOutcome_none s c
  have hkept : (s.setOutcome c none).flightLawful c := hf.within hwithin
  obtain ⟨hmem, hnone, _⟩ := hf.accounted.setOutcome_none ho
  have hchan := hwithin.chan
  have hmoving : (s.chan c).state = .running ∨ (s.chan c).state = .stalled →
      ((s.setOutcome c none).activeOutcome c a o).flightLawful c := by
    intro hs
    obtain ⟨p, hp⟩ := hl.owned (ChanState.ne_idle_of_active (ChanState.active_of_moving hs))
    obtain ⟨d, hm⟩ := hf.moving hs
    have hfit := hm.accesses a hmem
    have hretry : (s.chan c).state = .stalled → ∀ r ∈ (s.chan c).stall, a = r.refused := fun hst r hr =>
      ((hm.stall hst).2 r hr).1 a hmem
    have hm' := hm.within hwithin
    rw [← hchan] at hl hp hfit hretry
    generalize s.setOutcome c none = t at hm' hnone hl hp hfit hretry hkept
    have hown : (t.chan c).owner.isSome = true := by
      rw [hp]
      rfl
    have hfault : ∀ code i x, (t.faultRun c code i x).flightLawful c := fun _ _ _ =>
      hm'.toAccounted.flightLawful_faultWith hown ..
    unfold State.activeOutcome
    split
    · have hended : (t.endStall c).chan c = { t.chan c with state := .running, stall := none } := State.setChan_chan_self ..
      exact hm'.endStall.flightLawful_chunkCarriedOut (by rw [hended]) (by rw [hended]; exact hown) hnone
        (by rw [hended]; exact hfit) _
    · exact hfault ..
    · unfold State.lockRefusedChannel
      split
      · exact hfault ..
      split
      · split
        · exact hfault ..
        · exact (hm'.stallChannel hl hnone hfit hretry).flightLawful
      · exact hkept
    · exact hfault ..
    · exact hfault ..
  unfold State.takeOutcome
  split
  · next hs => exact hmoving (.inl hs)
  · next hs => exact hmoving (.inr hs)
  · next hs =>
    have hs : (s.chan c).state = .aborting := hs
    obtain ⟨p, hp⟩ := hl.owned (by rw [hs]; exact nofun)
    obtain ⟨hwait, hnow⟩ := hf.aborting hs
    have hown : ((s.setOutcome c none).chan c).owner.isSome = true := by
      rw [hchan, hp]
      rfl
    have hfinish := hkept.accounted.flightLawful_finishAborting hs hown hwait hnow
    unfold State.outcomeInAbort
    split
    · split
      · refine State.Accounted.flightLawful_finishAborting (hkept.accounted.setChan (by rw [ChannelContext.retire_eq])) ?_ ?_
          hwait hnow
        · rw [State.setChan_chan_self, ChannelContext.retire_state]
          exact hs
        · rw [State.setChan_chan_self, ChannelContext.retire_eq]
          exact hown
      · exact hfinish
    · exact hfinish
  all_goals exact hkept

/-! ### Announcements, port-down events and requests (R92, R104, R106, R124) -/

theorem State.flightLawful_retryStalled {s : State} {c : Channel} (hf : s.flightLawful c) (r : GranuleRange) :
    (s.retryStalled r c).flightLawful c := by
  unfold State.retryStalled
  split
  · next st hs hst =>
    split
    · next hcover =>
      have hnone : s.accessesOf c = [] := (s.accessPresented_eq_false_iff c).mp (Bool.eq_false_iff.mpr hcover.2)
      obtain ⟨d, hm⟩ := hf.moving (.inr hs)
      obtain ⟨_, ⟨k, hk, hkr⟩, hfits⟩ := (hm.stall hs).2 st hst
      by_cases hop : st.refused.access.op.isWrite = true
      · have hwrite := (hfits k hk hkr).1 hop
        have hmarked : (s.setChan c ((s.chan c).setChunkState st.refused.chunk .writing)).Moving c d := by
          refine hm.mapChunks (fun j => j.store_ite ..) (fun j hj => if_neg hj) (fun p q hq he => ?_) (fun b hb => ?_)
            fun _ x hx _ j _ hj => ⟨fun _ => .inr (by rw [if_pos hj]), fun hr => ?_⟩
          · exact absurd (hkr ▸ he) (hm.no_request hk (hwrite.elim .inl fun hw => .inr (.inl hw)) p q hq)
          · rw [hnone] at hb
            cases hb
          · cases hst.symm.trans hx
            rw [hop] at hr
            cases hr
        rw [if_pos hop]
        refine (hmarked.present hnone ?_ fun _ x hx => ?_).flightLawful
        · rw [State.setChan_chan_self]
          refine ⟨⟨_, List.mem_map_of_mem hk, (Chunk.store_ite ..).trans hkr⟩, fun j hj hjs => ⟨fun _ => ?_, fun hr => ?_⟩⟩
          · obtain ⟨i, _, rfl⟩ := List.mem_map.mp hj
            rw [Chunk.store_ite] at hjs
            rw [if_pos hjs]
          · rw [hop] at hr
            cases hr
        · rw [State.setChan_chan_self] at hx
          cases hst.symm.trans hx
          rfl
      · rw [if_neg hop]
        refine (hm.present hnone ⟨⟨k, hk, hkr⟩, fun j hj hjs => ⟨fun hw => absurd hw hop, (hfits j hj hjs).2⟩⟩ fun _ x hx => ?_)
          |>.flightLawful
        cases hst.symm.trans hx
        rfl
    · exact hf
  · exact hf

/-- A channel with nothing in flight returns to IDLE (R104, R106). -/
theorem State.Quiet.flightLawful_setReset {s : State} {c : Channel} (h : s.Quiet c) :
    (s.setChan c ChannelContext.reset).flightLawful c :=
  (h.setChan _).flightLawful (by rw [State.setChan_chan_self]; decide)

theorem State.flightLawful_chanPortDown {s : State} {c : Channel} (hl : (s.chan c).lawful) (hf : s.flightLawful c)
    (loss : Loss) : (s.chanPortDown loss c).flightLawful c := by
  have hown : (s.chan c).state ≠ .idle → (s.chan c).owner.isSome = true := fun hi => by
    obtain ⟨p, hp⟩ := hl.owned hi
    rw [hp]
    rfl
  unfold State.chanPortDown
  split
  case h_7 hs =>
    obtain ⟨hwait, hnone⟩ := hf.aborting hs
    refine State.Accounted.flightLawful_finishAborting (hf.accounted.setChan rfl) ?_ ?_ hwait hnone
    · rw [State.setChan_chan_self]
      exact hs
    · rw [State.setChan_chan_self]
      exact hown (by rw [hs]; exact nofun)
  case h_8 hs | h_9 hs | h_10 hs => exact (hf.quiet (.inr (by rw [hs]; rfl))).flightLawful_setReset
  case h_1 hs | h_2 hs | h_3 hs | h_4 hs | h_5 hs | h_6 hs =>
    exact hf.accounted.flightLawful_faultWith (hown (by rw [hs]; exact nofun)) ..
  all_goals exact hf

/-- A run begins in a channel with nothing in flight: LOADING, with the FETCH of descriptor 0 handed (R92). -/
theorem State.Quiet.flightLawful_load {s : State} {c : Channel} (h : s.Quiet c) {ctx : ChannelContext}
    (hs : ctx.state = .loading) (op : HubOp) : ((s.setChan c ctx).handHub ⟨c, .first, op⟩).flightLawful c := by
  have hq := h.setChan ctx
  have hacct := State.Accounted.handHub (r := ⟨c, .first, op⟩) hq.accounted fun p q hq' => by
    rw [hq.requests p] at hq'
    cases hq'
  have hloading : (((s.setChan c ctx).handHub ⟨c, .first, op⟩).chan c).state = .loading := by
    rw [State.handHub_chan, State.setChan_chan_self]
    exact hs
  refine ⟨fun p => ⟨hacct.nodup p, hacct.own p, hacct.atOwner p⟩, hacct.one, fun hst => ?_, fun _ => ⟨fun p r hr => ?_, ?_⟩,
    fun hst => ?_, fun hst => ?_, fun hst => ?_⟩
  · rw [hloading] at hst
    rcases hst with hst | hst <;> cases hst
  · rcases State.mem_requestsAt_handHub (r := ⟨c, .first, op⟩) hr with rfl | hr
    · rfl
    · rw [hq.requests p] at hr
      cases hr
  · exact (State.accessesOf_handHub (s.setChan c ctx) ⟨c, .first, op⟩).trans hq.accesses
  · rw [hloading] at hst
    cases hst
  · rw [hloading] at hst
    rcases hst with hst | hst <;> cases hst
  · rw [hloading] at hst
    rcases hst with hst | hst <;> cases hst

end Sys2Proof.Machine
end

section
/-! SUPPORT. Law 9 at the Link Controllers and the arbiter: hub requests on their way from the waiting list to a slot, to the channel,
and store accesses from the arbiter to the channel (R16, R19, R115, R116, R158, R163). -/

namespace Sys2Proof.Machine

/-! ### The requests in the slots -/

/-- The hub requests in a Link Controller's slots. -/
def LinkController.slotRequests (lc : LinkController) : List HubRequest :=
  allHubSlots.filterMap fun h => (lc.outstanding h).map fun o => o.req

theorem State.requestsAt_slotRequests (s : State) (p : Port) (c : Channel) :
    s.requestsAt p c = (s.link p).waiting[c] ++ ((s.link p).slotRequests.filter (fun r => r.chan == c)
      ++ ((s.claimsOf p).filterMap ChannelClaim.request?).filter (fun r => r.chan == c)) := List.append_assoc ..

/-- Two lists chosen from one, where one place chooses an element more. -/
theorem filterMap_perm_cons {α β : Type} [DecidableEq α] {f g : α → Option β} {a : α} {x : β} {l : List α} (hl : l.Nodup)
    (ha : a ∈ l) (hf : f a = none) (hg : g a = some x) (heq : ∀ b ≠ a, g b = f b) :
    (l.filterMap g).Perm (x :: l.filterMap f) := by
  induction l with
  | nil => cases ha
  | cons b rest ih =>
    obtain ⟨hb, hrest⟩ := List.nodup_cons.mp hl
    by_cases hba : b = a
    · subst hba
      have hsame : rest.filterMap g = rest.filterMap f :=
        List.filterMap_congr fun c hc => heq c fun he => hb (he ▸ hc)
      rw [List.filterMap_cons_some hg, List.filterMap_cons_none hf, hsame]
    · have hin : a ∈ rest := (List.mem_cons.mp ha).resolve_left (Ne.symm hba)
      cases hfb : f b with
      | none =>
        rw [List.filterMap_cons_none hfb, List.filterMap_cons_none (by rw [heq b hba, hfb])]
        exact ih hrest hin
      | some y =>
        rw [List.filterMap_cons_some hfb, List.filterMap_cons_some (by rw [heq b hba, hfb])]
        exact ((ih hrest hin).cons y).trans (.swap ..)

theorem allHubSlots_nodup : allHubSlots.Nodup := by decide

/-- A slot that takes a request adds it to those in the slots. -/
theorem LinkController.slotRequests_perm_cons {lc lc' : LinkController} {h : HubSlot} {o : Outstanding}
    (hfree : lc.outstanding h = none) (hheld : lc'.outstanding h = some o)
    (heq : ∀ k ≠ h, lc'.outstanding k = lc.outstanding k) : lc'.slotRequests.Perm (o.req :: lc.slotRequests) :=
  filterMap_perm_cons allHubSlots_nodup (mem_allHubSlots h) (by rw [hfree]; rfl) (by rw [hheld]; rfl)
    fun k hk => by rw [heq k hk]

/-- Two Link Controllers with the same hub requests in flight. -/
def LinkController.SameRequests (lc lc' : LinkController) : Prop :=
  lc'.slotRequests = lc.slotRequests ∧ lc'.waiting = lc.waiting

theorem LinkController.SameRequests.of_slots {lc lc' : LinkController} (hs : lc'.slots = lc.slots)
    (hw : lc'.waiting = lc.waiting) : lc.SameRequests lc' := by
  refine ⟨?_, hw⟩
  simp only [LinkController.slotRequests, LinkController.outstanding, hs]

theorem FlightWithin.setLink {s : State} {p : Port} {lc : LinkController} (h : (s.link p).SameRequests lc) (c : Channel) :
    FlightWithin c s (s.setLink p lc) := by
  have hlink : ∀ q, (s.link q).SameRequests ((s.setLink p lc).link q) := fun q => by
    rw [State.setLink_link]
    split
    · next hq => exact hq ▸ h
    · exact ⟨rfl, rfl⟩
  refine ⟨rfl, fun q => ?_, fun q => ?_, .refl _, id⟩
  · rw [State.requestsAt_slotRequests, State.requestsAt_slotRequests, (hlink q).1, (hlink q).2]
    exact .refl _
  · rw [(hlink q).2]
    exact fun _ => id

/-- A Link Controller changed in nothing that belongs to hub requests. -/
theorem FlightWithin.setLinkKeepingRequests {s : State} {p : Port} {lc : LinkController}
    (hs : lc.slots = (s.link p).slots := by rfl) (hw : lc.waiting = (s.link p).waiting := by rfl) (c : Channel) :
    FlightWithin c s (s.setLink p lc) := .setLink (.of_slots hs hw) c

/-- Nothing that a channel has in flight is touched. -/
theorem FlightWithin.of_untouched {s t : State} (hchan : t.channels = s.channels) (harb : t.arbiter = s.arbiter)
    (hlinks : t.links = s.links) (hclaims : t.claims = s.claims) (c : Channel) : FlightWithin c s t := by
  have hreq : ∀ p, t.requestsAt p c = s.requestsAt p c := fun p => by
    simp only [State.requestsAt, State.link, State.claimsOf, hlinks, hclaims]
  have hwait : t.waitingAccess c = s.waitingAccess c := by simp only [State.waitingAccess, harb]
  have hout : t.outcomeOf c = s.outcomeOf c := by simp only [State.outcomeOf, harb]
  have hacc : t.accessesOf c = s.accessesOf c := by
    rw [State.accessesOf_eq, State.accessesOf_eq, hwait, State.takenAccesses_congr (by rw [harb]) hout]
  refine ⟨by rw [State.chan, hchan, State.chan], fun p => ?_, fun p => ?_, ?_, fun hn => ?_⟩
  · rw [hreq]
  · rw [State.link, hlinks, State.link]
    exact fun _ => id
  · rw [hacc]
  · rw [hwait]
    exact hn

/-! ### Laws kept by a change -/

/-- A change that keeps the channel law: of the contexts alone (Table 5.1), and with what is in flight (law 9). -/
structure ChannelsKept (s t : State) : Prop where
  contexts : (∀ c : Channel, (s.chan c).lawful) → ∀ c : Channel, (t.chan c).lawful
  flight : s.channelsLawful → ∀ c : Channel, t.flightLawful c

theorem ChannelsKept.channelsLawful {s t : State} (h : ChannelsKept s t) (hs : s.channelsLawful) : t.channelsLawful :=
  fun c => ⟨h.contexts (fun d => (hs d).1) c, h.flight hs c⟩

theorem ChannelsKept.refl (s : State) : ChannelsKept s s := ⟨id, fun hs c => (hs c).2⟩

theorem ChannelsKept.trans {s t u : State} (h : ChannelsKept s t) (h' : ChannelsKept t u) : ChannelsKept s u :=
  ⟨fun hs => h'.contexts (h.contexts hs), fun hs => h'.flight (h.channelsLawful hs)⟩

/-- Nothing new comes to be in flight. -/
theorem ChannelsKept.of_within {s t : State} (h : ∀ c : Channel, FlightWithin c s t) : ChannelsKept s t :=
  ⟨fun hs c => (h c).chan ▸ hs c, fun hs c => (hs c).2.within (h c)⟩

/-- One channel's run changes and keeps its laws. -/
theorem ChannelsKept.of_run {c : Channel} {s t : State} (h : RunOnly c s t) (hctx : (s.chan c).lawful → (t.chan c).lawful)
    (hflight : (s.chan c).lawful → s.flightLawful c → t.flightLawful c) : ChannelsKept s t := by
  refine ⟨fun hs d => ?_, fun hs d => ?_⟩
  · by_cases hd : d = c
    · exact hd ▸ hctx (hs c)
    · rw [h.chan d hd]
      exact hs d
  · by_cases hd : d = c
    · exact hd ▸ hflight (hs c).1 (hs c).2
    · exact (hs d).2.within (h.flightWithin hd)

theorem ChannelsKept.of_untouched {s t : State} (hchan : t.channels = s.channels) (harb : t.arbiter = s.arbiter)
    (hlinks : t.links = s.links) (hclaims : t.claims = s.claims) : ChannelsKept s t :=
  .of_within (.of_untouched hchan harb hlinks hclaims)

theorem ChannelsKept.setLinkKeepingRequests {s : State} {p : Port} {lc : LinkController}
    (hs : lc.slots = (s.link p).slots := by rfl) (hw : lc.waiting = (s.link p).waiting := by rfl) :
    ChannelsKept s (s.setLink p lc) := .of_within (.setLinkKeepingRequests hs hw)

theorem ChannelsKept.asOneAction {s t : State} (h : ChannelsKept s t) (u : State) : ChannelsKept s (u.asOneAction t) :=
  ⟨h.contexts, h.flight⟩

theorem ChannelsKept.hand {s t : State} (h : ChannelsKept s t) (l : List Handed) : ChannelsKept s (t.hand l) :=
  ⟨h.contexts, h.flight⟩

theorem ChannelsKept.send {s t : State} (h : ChannelsKept s t) (p : Port) (pkt : Packet) : ChannelsKept s (t.send p pkt) :=
  ⟨h.contexts, h.flight⟩

theorem ChannelsKept.setPortDown {s t : State} (h : ChannelsKept s t) (p : Port) (d : PortDownClaims) :
    ChannelsKept s (t.setPortDown p d) := ⟨h.contexts, h.flight⟩

theorem ChannelsKept.setQueue {s t : State} (h : ChannelsKept s t) (p : Port) (q : List NoticeRecord) :
    ChannelsKept s (t.setQueue p q) := ⟨h.contexts, h.flight⟩

theorem ChannelsKept.foldl {α : Type} {f : State → α → State} (hf : ∀ s a, ChannelsKept s (f s a)) (l : List α) (s : State) :
    ChannelsKept s (l.foldl f s) := by
  induction l generalizing s with
  | nil => exact .refl s
  | cons a rest ih => exact (hf s a).trans (ih _)

/-! ### Slots given (R116, R158) -/

/-- A slot given moves its request from the waiting list into the slot. -/
theorem FlightWithin.giveSlot {s : State} {p : Port} {lc : LinkController} {r : HubRequest}
    (hg : (s.link p).giveSlot = some (lc, r)) (hown : ∀ d : Channel, ∀ q ∈ (s.link p).waiting[d], q.chan = d) (c : Channel) :
    FlightWithin c s (s.setLink p lc) ∧ r ∈ (s.setLink p lc).requestsAt p r.chan := by
  obtain ⟨_, h, d, rest, _, hfree, hwait, hlc⟩ := LinkController.giveSlot_eq_some hg
  have hrd : r.chan = d := hown d r (hwait ▸ List.mem_cons_self)
  have hslots : lc.slotRequests.Perm (r :: (s.link p).slotRequests) := by
    refine LinkController.slotRequests_perm_cons (o := ⟨r, none⟩) hfree ?_ fun k hk => ?_
    · simp [hlc, LinkController.outstanding]
    · simp [hlc, LinkController.outstanding, Vector.getElem_set_ne, Fin.val_ne_of_ne (Ne.symm hk)]
  have hrest : lc.waiting[d] = rest := by simp [hlc]
  have hother : ∀ e ≠ d, lc.waiting[e] = (s.link p).waiting[e] := fun e he => by
    simp [hlc, Vector.getElem_set_ne, Fin.val_ne_of_ne (Ne.symm he)]
  refine ⟨⟨rfl, fun q => ?_, fun q => ?_, .refl _, id⟩, ?_⟩
  · by_cases hq : q = p
    · subst hq
      rw [State.requestsAt_slotRequests, State.requestsAt_slotRequests, State.setLink_link_self, State.setLink_claimsOf]
      generalize ((s.claimsOf q).filterMap ChannelClaim.request?).filter (fun r => r.chan == c) = ended
      have hfilter := hslots.filter fun r => r.chan == c
      by_cases hc : c = d
      · subst hc
        rw [hrest, hwait]
        rw [List.filter_cons_of_pos (by simp [hrd])] at hfilter
        exact ((hfilter.append_right ended).append_left rest).trans List.perm_middle |>.subperm
      · rw [hother c hc]
        rw [List.filter_cons_of_neg (by simpa [hrd] using Ne.symm hc)] at hfilter
        exact ((hfilter.append_right ended).append_left _).subperm
    · rw [State.requestsAt_slotRequests, State.setLink_link_other _ _ hq, State.setLink_claimsOf,
        ← State.requestsAt_slotRequests]
  · by_cases hq : q = p
    · subst hq
      rw [State.setLink_link_self]
      by_cases hc : c = d
      · subst hc
        rw [hrest, hwait]
        exact List.subset_cons_self ..
      · rw [hother c hc]
        exact fun _ => id
    · rw [State.setLink_link_other _ _ hq]
      exact fun _ => id
  · rw [State.requestsAt_slotRequests, State.setLink_link_self]
    refine List.mem_append_right _ (List.mem_append_left _ (List.mem_filter.mpr ⟨?_, by simp⟩))
    exact hslots.mem_iff.mpr List.mem_cons_self

/-- The chunk whose STORE took a slot is STORE_SENT (step 3 of R118). -/
theorem State.flightLawful_noteSlotGiven {s : State} {p : Port} {r : HubRequest} (hf : s.flightLawful r.chan)
    (hr : r ∈ s.requestsAt p r.chan) : (s.noteSlotGiven r).flightLawful r.chan := by
  unfold State.noteSlotGiven
  split
  · next store hop hp =>
    have hnotQuiet : ¬s.Quiet r.chan := fun hq => by
      rw [hq.requests p] at hr
      cases hr
    have hacct : (s.setChan r.chan ((s.chan r.chan).setChunkState store .storeSent)).Accounted r.chan :=
      hf.accounted.setChan rfl
    have hmoving : (s.chan r.chan).state = .running ∨ (s.chan r.chan).state = .stalled →
        (s.setChan r.chan ((s.chan r.chan).setChunkState store .storeSent)).flightLawful r.chan := by
      intro hs
      obtain ⟨d, hm⟩ := hf.moving hs
      obtain ⟨⟨k, hk, hks⟩, hfits⟩ := hm.request_chunk hr hp
      obtain ⟨hacc, hstall⟩ := hm.no_access hr hp
      have hstore : r.op.isStore = true := by
        rw [hop]
        rfl
      refine (hm.mapChunks (fun j => j.store_ite ..) (fun j hj => if_neg hj) (fun q x hx hxp j hj hjs => ⟨fun hfetch => ?_,
        fun _ => ⟨((hfits j hj hjs).2 hstore).1, .inr (by rw [if_pos hjs])⟩⟩) hacc
        fun hst x hx he => absurd he (hstall hst x hx)).flightLawful
      have hkind := ((hm.request_chunk hx hxp).2 j hj hjs).1 hfetch
      rw [((hfits j hj hjs).2 hstore).1] at hkind
      cases hkind.1
    cases hs : (s.chan r.chan).state with
    | running => exact hmoving (.inl hs)
    | stalled => exact hmoving (.inr hs)
    | idle => exact absurd (hf.quiet (.inl hs)) hnotQuiet
    | complete | faulted | stopped => exact absurd (hf.quiet (.inr (by rw [hs]; rfl))) hnotQuiet
    | loading =>
      have hfirst := (hf.loading hs).1 p r hr
      rw [hp] at hfirst
      cases hfirst
    | aborting =>
      obtain ⟨hwait, hnone⟩ := hf.aborting hs
      refine hacct.flightLawful_of_aborting ?_ hwait hnone
      rw [State.setChan_chan_self]
      exact hs
  · exact hf

theorem RunOnly.noteSlotGiven (s : State) (r : HubRequest) : RunOnly r.chan s (s.noteSlotGiven r) := by
  unfold State.noteSlotGiven
  split
  · exact .setChan ..
  · exact .refl _ s

theorem State.lawful_noteSlotGiven {s : State} {r : HubRequest} (h : (s.chan r.chan).lawful) :
    ((s.noteSlotGiven r).chan r.chan).lawful := by
  unfold State.noteSlotGiven
  split
  · exact State.lawful_setChan (h.setChunkState ..)
  · exact h

theorem ChannelsKept.giveSlotsUpTo (s : State) (p : Port) (n : Nat) : ChannelsKept s (s.giveSlotsUpTo p n) := by
  induction n generalizing s with
  | zero => exact .refl s
  | succ n ih =>
    unfold State.giveSlotsUpTo
    split
    · next lc r hg =>
      refine ChannelsKept.trans ⟨fun hs c => ?_, fun hs c => ?_⟩ (ih _)
      · by_cases hc : c = r.chan
        · exact hc ▸ State.lawful_noteSlotGiven (hs r.chan)
        · rw [(RunOnly.noteSlotGiven ..).chan c hc]
          exact hs c
      · have hgiven := FlightWithin.giveSlot hg fun d => (hs d).2.accounted.own p
        have hkept := (hs c).2.within (hgiven c).1
        by_cases hc : c = r.chan
        · subst hc
          exact State.flightLawful_noteSlotGiven hkept (hgiven r.chan).2
        · exact hkept.within ((RunOnly.noteSlotGiven ..).flightWithin hc)
    · exact .refl s

theorem ChannelsKept.giveSlots (s : State) (p : Port) : ChannelsKept s (s.giveSlots p) := .giveSlotsUpTo s p 8

theorem ChannelsKept.giveOwnerSlots (s : State) (o : Option Port) : ChannelsKept s (s.giveOwnerSlots o) := by
  unfold State.giveOwnerSlots
  split
  · exact .giveSlots ..
  · exact .refl s

/-! ### Claims taken (R127, R163) -/

/-- The claim of an ending, taken from its Link Controller's list, takes its request out of those in flight. -/
theorem State.requestsAt_setClaims_perm {s : State} {p : Port} {r : HubRequest} {how : Ending} {rest : List ChannelClaim}
    (h : s.claimsOf p = .ending r how :: rest) :
    (s.requestsAt p r.chan).Perm (r :: (s.setClaims p rest).requestsAt p r.chan) := by
  have hended : ((s.claimsOf p).filterMap ChannelClaim.request?).filter (fun x => x.chan == r.chan)
      = r :: (rest.filterMap ChannelClaim.request?).filter (fun x => x.chan == r.chan) := by
    rw [h]
    exact List.filter_cons_of_pos (by simp)
  rw [State.requestsAt, State.requestsAt, hended, State.setClaims_claimsOf_self]
  exact List.perm_middle

/-- A claim taken adds nothing to what is in flight. -/
theorem FlightWithin.setClaims {s : State} {p : Port} {cl : ChannelClaim} {rest : List ChannelClaim}
    (h : s.claimsOf p = cl :: rest) (c : Channel) : FlightWithin c s (s.setClaims p rest) := by
  refine ⟨rfl, fun q => ?_, fun _ _ => id, .refl _, id⟩
  by_cases hq : q = p
  · subst hq
    have hsub : (rest.filterMap ChannelClaim.request?).Sublist ((s.claimsOf q).filterMap ChannelClaim.request?) := by
      rw [h]
      exact (List.sublist_cons_self ..).filterMap _
    rw [State.requestsAt, State.requestsAt, State.setClaims_claimsOf_self]
    exact ((List.Sublist.refl _).append (hsub.filter _)).subperm
  · rw [State.requestsAt, State.setClaims_claimsOf_other _ _ hq]
    exact .refl _

/-- The ending at the front of port p's claims is taken by its channel. -/
theorem State.flightLawful.endingTaken {s : State} {p : Port} {r : HubRequest} {how : Ending} {rest : List ChannelClaim}
    (hf : s.flightLawful r.chan) (h : s.claimsOf p = .ending r how :: rest) : EndingTaken s (s.setClaims p rest) r := by
  have hperm := State.requestsAt_setClaims_perm h
  have hmem : r ∈ s.requestsAt p r.chan := hperm.mem_iff.mpr List.mem_cons_self
  refine ⟨.setClaims h _, ⟨p, hmem⟩, fun q x hx he => ?_⟩
  by_cases hq : q = p
  · subst hq
    have hnodup := (hperm.map _).nodup_iff.mp (hf.accounted.nodup q)
    exact (List.nodup_cons.mp hnodup).1 (List.mem_map.mpr ⟨x, hx, he⟩)
  · have howner : (s.chan r.chan).owner = some p := by
      by_contra hne
      rw [hf.accounted.atOwner p hne] at hmem
      cases hmem
    have hnil := hf.accounted.atOwner q (by rw [howner]; exact fun e => hq (Option.some.inj e).symm)
    have hx' : x ∈ s.requestsAt q r.chan := ((FlightWithin.setClaims h r.chan).requests q).subset hx
    rw [hnil] at hx'
    cases hx'

theorem ChannelsKept.chanPortDown (s : State) (loss : Loss) (c : Channel) : ChannelsKept s (s.chanPortDown loss c) :=
  .of_run (.chanPortDown ..) (fun h => State.lawful_chanPortDown h loss) fun hl hf => State.flightLawful_chanPortDown hl hf loss

theorem ChannelsKept.takeClaim (s : State) (p : Port) : ChannelsKept s (s.takeClaim p) := by
  unfold State.takeClaim
  split
  · next cl rest hclaims =>
    have htaken : ChannelsKept s (s.setClaims p rest) := .of_within (.setClaims hclaims)
    unfold State.carryClaim
    split
    · next r how =>
      refine ChannelsKept.asOneAction (.trans ⟨fun hs c => ?_, fun hs c => ?_⟩ (.giveSlots ..)) _
      · by_cases hc : c = r.chan
        · subst hc
          exact State.lawful_takeEnding (htaken.contexts hs r.chan) how
        · rw [(RunOnly.takeEnding ..).chan c hc]
          exact htaken.contexts hs c
      · by_cases hc : c = r.chan
        · subst hc
          exact State.flightLawful_takeEnding (hs r.chan).1 (hs r.chan).2 ((hs r.chan).2.endingTaken hclaims) how
        · exact (htaken.flight hs c).within ((RunOnly.takeEnding ..).flightWithin hc)
    · next loss =>
      exact (htaken.trans (.foldl (fun t c => .chanPortDown t loss c) _ _)).asOneAction _
  · exact .refl s

theorem ChannelsKept.takeClaims (s : State) (p : Port) (n : Nat) : ChannelsKept s (s.takeClaims p n) := by
  induction n generalizing s with
  | zero => exact .refl s
  | succ n ih => exact (ChannelsKept.takeClaim s p).trans (ih _)

/-! ### Requests that end at the Link Controller (R158 to R160, R163) -/

/-- An outstanding request leaves its slot and its ending is handed. -/
theorem FlightWithin.endSlot {s : State} {p : Port} {h : HubSlot} {o : Outstanding} (ho : (s.link p).outstanding h = some o)
    (how : Ending) (c : Channel) :
    FlightWithin c s ((s.setLink p ((s.link p).freeSlotOf h)).claim p (.ending o.req how)) := by
  have hslots : (s.link p).slotRequests.Perm (o.req :: ((s.link p).freeSlotOf h).slotRequests) :=
    LinkController.slotRequests_perm_cons (congrArg HubSlotState.held (LinkController.slot_freeSlotOf_self ..)) ho fun k hk => by
      rw [LinkController.outstanding, LinkController.outstanding, LinkController.slot_freeSlotOf_other _ hk]
  refine ⟨rfl, fun q => ?_, fun q => ?_, .refl _, id⟩
  · by_cases hq : q = p
    · subst hq
      have hlink : ((s.setLink q ((s.link q).freeSlotOf h)).claim q (.ending o.req how)).link q = (s.link q).freeSlotOf h :=
        State.setLink_link_self ..
      rw [State.requestsAt_slotRequests, State.requestsAt_slotRequests, hlink, State.claim_claimsOf_self,
        State.setLink_claimsOf, List.filterMap_append, List.filter_append]
      have hfilter := hslots.filter fun r => r.chan == c
      show List.Subperm ((s.link q).waiting[c] ++ _) _
      refine ((List.Perm.append_left _ ?_).subperm)
      generalize ((s.claimsOf q).filterMap ChannelClaim.request?).filter (fun r => r.chan == c) = ended
      show List.Perm (_ ++ (ended ++ [o.req].filter fun r => r.chan == c)) _
      refine .trans ?_ (hfilter.symm.append_right ended)
      by_cases hc : o.req.chan = c
      · rw [List.filter_cons_of_pos (by simpa using hc), List.filter_cons_of_pos (by simpa using hc), ← List.append_assoc]
        exact List.perm_append_comm
      · rw [List.filter_cons_of_neg (by simpa using hc), List.filter_cons_of_neg (by simpa using hc), List.filter_nil,
          List.append_nil]
    · have hlink : ((s.setLink p ((s.link p).freeSlotOf h)).claim p (.ending o.req how)).link q = s.link q :=
        State.setLink_link_other _ _ hq
      rw [State.requestsAt_slotRequests, hlink, State.claim_claimsOf_other _ _ hq, State.setLink_claimsOf,
        ← State.requestsAt_slotRequests]
  · by_cases hq : q = p
    · subst hq
      have hlink : ((s.setLink q ((s.link q).freeSlotOf h)).claim q (.ending o.req how)).link q = (s.link q).freeSlotOf h :=
        State.setLink_link_self ..
      rw [hlink]
      exact fun _ => id
    · have hlink : ((s.setLink p ((s.link p).freeSlotOf h)).claim p (.ending o.req how)).link q = s.link q :=
        State.setLink_link_other _ _ hq
      rw [hlink]
      exact fun _ => id

theorem ChannelsKept.dropSlot (s : State) (p : Port) (h : HubSlot) : ChannelsKept s (s.dropSlot p h) := by
  unfold State.dropSlot
  split
  · next o ho => exact .of_within (.endSlot ho .dropped)
  · exact .refl s

/-- Waiting lists emptied. -/
theorem FlightWithin.clearWaiting {s : State} {p : Port} {lc : LinkController} (hs : lc.slots = (s.link p).slots)
    (hw : ∀ c : Channel, lc.waiting[c] = []) (c : Channel) : FlightWithin c s (s.setLink p lc) := by
  have hslots : lc.slotRequests = (s.link p).slotRequests := by
    simp only [LinkController.slotRequests, LinkController.outstanding, hs]
  refine ⟨rfl, fun q => ?_, fun q => ?_, .refl _, id⟩
  · rw [State.requestsAt_slotRequests, State.requestsAt_slotRequests, State.setLink_claimsOf, State.setLink_link]
    split
    · next hq =>
      subst hq
      rw [hw, hslots]
      exact ((List.nil_sublist _).append (.refl _)).subperm
    · exact .refl _
  · rw [State.setLink_link]
    split
    · rw [hw]
      exact List.nil_subset _
    · exact fun _ => id

theorem ChannelsKept.dropAll (s : State) (p : Port) : ChannelsKept s (s.dropAll p) := by
  have hdrops := ChannelsKept.foldl (fun t h => .dropSlot t p h) allHubSlots s
  unfold State.dropAll
  dsimp only
  generalize allHubSlots.foldl (fun t h => t.dropSlot p h) s = t at hdrops
  exact hdrops.trans (.of_within (.clearWaiting rfl fun c => by simp))

/-- A claim that is no ending concerns no request in flight. -/
theorem FlightWithin.claimPortDown (s : State) (p : Port) (loss : Loss) (c : Channel) :
    FlightWithin c s (s.claim p (.portDown loss)) := by
  refine ⟨rfl, fun q => ?_, fun _ _ => id, .refl _, id⟩
  by_cases hq : q = p
  · subst hq
    rw [State.requestsAt, State.claim_claimsOf_self, List.filterMap_append]
    simp only [List.filterMap_cons, ChannelClaim.request?, List.filterMap_nil, List.append_nil]
    exact .refl _
  · rw [State.requestsAt, State.claim_claimsOf_other _ _ hq]
    exact .refl _

theorem ChannelsKept.portDownEvent (s : State) (p : Port) (dest : LinkState) (cause : DownCause) (loss : Loss) :
    ChannelsKept s (s.portDownEvent p dest cause loss) := by
  have hlost : ChannelsKept s (s.setLink p ((s.link p).lose dest cause)) := .setLinkKeepingRequests
  have hdropped := hlost.trans (.dropAll _ p)
  unfold State.portDownEvent
  generalize (s.setLink p ((s.link p).lose dest cause)).dropAll p = t at hdropped
  exact ((hdropped.trans (.of_within (.claimPortDown t p loss))).setPortDown ..).hand _

theorem ChannelsKept.endRequest {s : State} {p : Port} {h : HubSlot} {o : Outstanding}
    (ho : (s.link p).outstanding h = some o) (how : Ending) : ChannelsKept s (s.endRequest p h o.req how) :=
  (ChannelsKept.of_within (.endSlot ho how)).trans (.giveSlots ..)

end Sys2Proof.Machine
end

section
/-! SUPPORT. O59: which operations of the hub keep the channel law; first those that the commands are made of. -/

namespace Sys2Proof.Machine

/-! ### The dispatchers -/

theorem LinkController.dispatch_sameRequests (lc : LinkController) : lc.SameRequests lc.dispatch := by
  rw [LinkController.dispatch_kept]
  exact .of_slots rfl rfl

theorem ChannelsKept.answer (s : State) (p : Port) (st : Status) (d : Option Half) (w : List Word) :
    ChannelsKept s (s.answer p st d w) := by
  unfold State.answer
  split
  · refine .of_within (.setLink ?_)
    exact LinkController.dispatch_sameRequests _
  · exact .refl s

theorem ChannelsKept.lockEffect {s t : State} (h : ChannelsKept s t) (e : LockEffect) : ChannelsKept s (t.lockEffect e) :=
  ⟨h.contexts, h.flight⟩

theorem ChannelsKept.lockAnswer (s : State) (p : Port) (a : LockAnswer) : ChannelsKept s (s.lockAnswer p a) :=
  ((ChannelsKept.refl s).lockEffect _).trans (.answer ..)

theorem ChannelsKept.expire (s : State) (o : Option LockEffect) : ChannelsKept s (s.expire o) := by
  cases o with
  | none => exact .refl s
  | some e => exact (ChannelsKept.refl s).lockEffect e

theorem ChannelsKept.setSettings (s : State) (t : Settings) : ChannelsKept s (s.setSettings t) := .of_untouched rfl rfl rfl rfl

theorem ChannelsKept.writeSupervisor (s : State) (p q : Port) : ChannelsKept s (s.writeSupervisor p q) := by
  unfold State.writeSupervisor
  split
  · exact .answer ..
  split
  · exact (ChannelsKept.setSettings ..).trans (.answer ..)
  · exact .answer ..

theorem ChannelsKept.presentDirect (s : State) (p : Port) (addr : Word) (len : Option Word) :
    ChannelsKept s (s.presentDirect p addr len) := by
  unfold State.presentDirect
  split
  · exact .answer ..
  · exact .setLinkKeepingRequests

theorem ChannelsKept.takeEvent (s : State) (p : Port) (e : NoticeEvent) : ChannelsKept s (s.takeEvent p e) := by
  unfold State.takeEvent
  split
  · exact (ChannelsKept.refl s).setQueue ..
  · exact .refl s

/-! ### A port goes down, and comes up -/

theorem ChannelsKept.takeLockPortDown (s : State) (p : Port) : ChannelsKept s (s.takeLockPortDown p) := by
  unfold State.takeLockPortDown
  split
  · exact .refl s
  · exact ((ChannelsKept.refl s).lockEffect _).setPortDown ..

theorem LinkController.withdrawPresented_sameRequests (lc : LinkController) : lc.SameRequests lc.withdrawPresented := by
  unfold LinkController.withdrawPresented
  split
  · split
    · exact LinkController.dispatch_sameRequests _
    · exact ⟨rfl, rfl⟩
  · exact ⟨rfl, rfl⟩

/-- A waiting access withdrawn. -/
theorem FlightWithin.withdrawAccess (s : State) (c d : Channel) : FlightWithin d s (s.withdrawAccess c) := by
  have hr : RunOnly c s (s.withdrawAccess c) := .setWaiting ..
  by_cases hd : d = c
  · subst hd
    have hnone : (s.withdrawAccess d).waitingAccess d = none := State.setWaiting_waitingAccess_self ..
    refine ⟨rfl, fun _ => .refl _, fun _ _ => id, ?_, fun _ => hnone⟩
    rw [State.accessesOf_eq, State.accessesOf_eq, hr.takenAccesses, hnone]
    exact (List.nil_sublist _).append (.refl _)
  · exact hr.flightWithin hd

theorem ChannelsKept.takeArbiterPortDown (s : State) (p : Port) : ChannelsKept s (s.takeArbiterPortDown p) := by
  have hwithdrawn := ChannelsKept.foldl (fun t c => .of_within (.withdrawAccess t c)) (s.boundTo p) s
  unfold State.takeArbiterPortDown
  split
  · exact (hwithdrawn.trans (.of_within (.setLink (LinkController.withdrawPresented_sameRequests _)))).setPortDown ..
  · exact .refl s

theorem ChannelsKept.takeNoticePortDown (s : State) (p : Port) : ChannelsKept s (s.takeNoticePortDown p) := by
  unfold State.takeNoticePortDown
  split
  · exact .refl s
  all_goals exact ((ChannelsKept.refl s).setQueue ..).setPortDown ..

theorem ChannelsKept.settlePort (s : State) (p : Port) : ChannelsKept s (s.settlePort p) :=
  (((ChannelsKept.takeLockPortDown s p).trans (.takeArbiterPortDown ..)).trans (.takeClaims ..)).trans
    (.takeNoticePortDown ..)

theorem ChannelsKept.portUpEvent (s : State) (p : Port) : ChannelsKept s (s.portUpEvent p) := by
  have hsettled := ChannelsKept.settlePort s p
  unfold State.portUpEvent
  dsimp only
  generalize s.settlePort p = t at hsettled
  have hup : ChannelsKept t (t.setLink p (t.link p).bringUp) := .setLinkKeepingRequests
  exact ((hsettled.trans hup).hand _).trans (.giveSlots ..)

/-! ### The links -/

theorem ChannelsKept.linkFails (s : State) (p : Port) (cause : DownCause) : ChannelsKept s (s.linkFails p cause) := by
  unfold State.linkFails
  split
  · exact .portDownEvent ..
  · exact .setLinkKeepingRequests
  all_goals exact .refl s

theorem ChannelsKept.receiveHello (s : State) (p : Port) : ChannelsKept s (s.receiveHello p) := by
  unfold State.receiveHello
  split
  · split
    · exact .send .setLinkKeepingRequests ..
    · exact .refl s
  · exact .send (.refl s) ..
  all_goals exact .refl s

theorem ChannelsKept.takeReady (s : State) (p : Port) (n : Nat) : ChannelsKept s (s.takeReady p n) := by
  have htaken : ChannelsKept s (s.setLink p { s.link p with slotsAllowed := n, readyTaken := some true }) :=
    .setLinkKeepingRequests
  unfold State.takeReady
  dsimp only
  split
  · exact htaken.trans (.portUpEvent ..)
  · exact htaken

theorem ChannelsKept.receiveReady (s : State) (p : Port) (word : Word) : ChannelsKept s (s.receiveReady p word) := by
  unfold State.receiveReady
  split
  · split
    · exact .refl s
    · split
      · exact .setLinkKeepingRequests
      · exact .takeReady ..
  all_goals exact .refl s

theorem ChannelsKept.accept (s : State) (p : Port) (pkt : Packet) : ChannelsKept s (s.setLink p ((s.link p).accept pkt)) := by
  refine .of_within (.setLink ?_)
  exact LinkController.dispatch_sameRequests _

theorem ChannelsKept.receiveRequest (s : State) (p : Port) (pkt : Packet) : ChannelsKept s (s.receiveRequest p pkt) := by
  unfold State.receiveRequest
  split
  · split
    · exact .portDownEvent ..
    · split
      · exact .portDownEvent ..
      · exact .accept ..
  · exact .setLinkKeepingRequests
  all_goals exact .refl s

/-- The request that a reply matches is the one in the slot it names (R159). -/
theorem LinkController.matched_outstanding {lc : LinkController} {tag : Byte} {answers : HubOp → Bool} {r : HubRequest}
    (h : lc.matched tag answers = some r) : ∃ o, lc.outstanding (replySlot tag) = some o ∧ o.req = r := by
  unfold LinkController.matched at h
  split at h
  · next o ho =>
    split at h
    · exact ⟨o, ho, Option.some.inj h⟩
    · cases h
  · cases h

theorem LinkController.timedOut_outstanding {lc : LinkController} {h : HubSlot} {r : HubRequest}
    (ht : lc.timedOut h = some r) : ∃ o, lc.outstanding h = some o ∧ o.req = r := by
  unfold LinkController.timedOut at ht
  split at ht
  · next o ho =>
    split at ht
    · exact ⟨o, ho, Option.some.inj ht⟩
    · cases ht
  · cases ht

theorem ChannelsKept.receiveFetchReply (s : State) (p : Port) (tag : Byte) (payload : List Word) :
    ChannelsKept s (s.receiveFetchReply p tag payload) := by
  unfold State.receiveFetchReply
  split
  · split
    · next r hm =>
      obtain ⟨o, ho, rfl⟩ := LinkController.matched_outstanding hm
      exact .endRequest ho _
    · exact .refl s
  · exact .setLinkKeepingRequests
  all_goals exact .refl s

theorem ChannelsKept.receiveStoreReply (s : State) (p : Port) (tag : Byte) (payload : List Word) :
    ChannelsKept s (s.receiveStoreReply p tag payload) := by
  unfold State.receiveStoreReply
  split
  · split
    · next r hm =>
      obtain ⟨o, ho, rfl⟩ := LinkController.matched_outstanding hm
      exact .endRequest ho _
    · exact .refl s
  · exact .setLinkKeepingRequests
  all_goals exact .refl s

theorem ChannelsKept.receivePacket (s : State) (p : Port) (pkt : Packet) : ChannelsKept s (s.receivePacket p pkt) := by
  unfold State.receivePacket
  split
  · exact .receiveFetchReply ..
  · exact .receiveStoreReply ..
  · exact .receiveHello ..
  · exact .receiveReady ..
  · exact .receiveRequest ..

theorem ChannelsKept.sendResponse (s : State) (p : Port) : ChannelsKept s (s.sendResponse p) := by
  unfold State.sendResponse
  split
  · exact .send .setLinkKeepingRequests ..
  · exact .refl s

theorem ChannelsKept.sendNotice (s : State) (p : Port) : ChannelsKept s (s.sendNotice p) := by
  unfold State.sendNotice
  split
  · next r _ =>
    have hmarked := (ChannelsKept.refl s).setQueue p (markSent (s.link p).noticeSeq (s.queue p))
    exact .send (hmarked.trans .setLinkKeepingRequests) ..
  · exact .refl s

/-- A request sent, with its timer started, is the same request (R158). -/
theorem LinkController.slotRequests_startTimer {lc : LinkController} {h : HubSlot} {o : Outstanding}
    (ho : lc.outstanding h = some o) (timeout : Nat) : (lc.startTimer h o timeout).slotRequests = lc.slotRequests := by
  refine List.filterMap_congr fun k _ => ?_
  by_cases hk : k = h
  · subst hk
    rw [ho]
    simp [LinkController.outstanding, LinkController.startTimer]
  · have hsame : (lc.startTimer h o timeout).outstanding k = lc.outstanding k := by
      simp [LinkController.outstanding, LinkController.startTimer, Vector.getElem_set_ne, Fin.val_ne_of_ne (Ne.symm hk)]
    rw [hsame]

theorem ChannelsKept.sendHubRequest (s : State) (p : Port) : ChannelsKept s (s.sendHubRequest p) := by
  unfold State.sendHubRequest
  split
  · split
    · next o ho =>
      refine .send (.of_within (.setLink ?_)) ..
      exact ⟨LinkController.slotRequests_startTimer ho _, rfl⟩
    · exact .refl s
  · exact .refl s

theorem ChannelsKept.assertPrst (s : State) (p : Port) : ChannelsKept s (s.assertPrst p) := by
  have hpin : ChannelsKept s (s.setLink p { s.link p with prst := true }) := .setLinkKeepingRequests
  unfold State.assertPrst
  dsimp only
  split
  · exact hpin.trans (.portDownEvent ..)
  · exact hpin.trans .setLinkKeepingRequests
  · exact hpin.trans .setLinkKeepingRequests
  all_goals exact hpin

theorem ChannelsKept.releasePrst (s : State) (p : Port) : ChannelsKept s (s.releasePrst p) := by
  have hpin : ChannelsKept s (s.setLink p { s.link p with prst := false }) := .setLinkKeepingRequests
  unfold State.releasePrst
  dsimp only
  split
  · exact hpin.trans .setLinkKeepingRequests
  all_goals exact hpin

theorem ChannelsKept.fenceLink (s : State) (q : Port) : ChannelsKept s (s.fenceLink q) := by
  unfold State.fenceLink
  split
  · exact .portDownEvent ..
  · exact .setLinkKeepingRequests
  · exact .setLinkKeepingRequests
  · exact .setLinkKeepingRequests
  · exact .refl s

theorem ChannelsKept.unfenceLink (s : State) (q : Port) : ChannelsKept s (s.unfenceLink q) := by
  unfold State.unfenceLink
  split
  · exact .setLinkKeepingRequests
  all_goals exact .refl s

/-! ### Channel requests -/

theorem ChannelContext.lawful_loading {p : Port} {list : Word} {guard : Option Handle} :
    ({ ChannelContext.reset with state := .loading, owner := some p, list := some list, guard := guard } :
      ChannelContext).lawful :=
  ⟨Nat.zero_le 4, nofun, fun _ => rfl, fun _ => ⟨rfl, rfl⟩, fun _ => rfl, fun _ => rfl⟩

/-- A channel that may be started has nothing in flight (R91, law 9). -/
theorem ChannelContext.startable_state {ctx : ChannelContext} {p : Port} (h : ctx.startable p = true) :
    ctx.state = .idle ∨ ctx.state.ended = true := by
  simp only [ChannelContext.startable, Bool.or_eq_true, Bool.and_eq_true, decide_eq_true_eq] at h
  exact h.imp_right And.right

theorem ChannelsKept.startRun {s : State} {p : Port} {c : Channel} (h : (s.chan c).startable p = true) (list : Word)
    (guard : Option Handle) : ChannelsKept s (s.startRun p c list guard) := by
  have hstart := ChannelContext.startable_state h
  refine ChannelsKept.trans (.of_run (c := c) ((RunOnly.setChan ..).trans (.handHub _ ⟨c, _, _⟩)) (fun _ => ?_)
    fun _ hf => ?_) ((ChannelsKept.giveSlots ..).trans (.answer ..))
  · rw [State.handHub_chan]
    exact State.lawful_setChan ChannelContext.lawful_loading
  · exact (hf.quiet hstart).flightLawful_load rfl _

theorem ChannelsKept.channelStart (s : State) (p : Port) (chan : Byte) (list : Word) (guard : Option Handle) :
    ChannelsKept s (s.channelStart p chan list guard) := by
  unfold State.channelStart
  split
  · exact .answer ..
  split
  · exact .answer ..
  next hstart =>
  split
  · exact .answer ..
  split
  · exact .answer ..
  · exact .startRun (by simpa using hstart) ..

theorem ChannelsKept.enterAborting {s : State} {c : Channel} (ha : (s.chan c).state.active = true) (mode : EndMode) :
    ChannelsKept s (s.enterAborting c mode) := by
  have hidle := ChanState.ne_idle_of_active ha
  refine .of_run (.enterAborting ..) (fun hl => State.lawful_enterAborting hl hidle mode) fun hl hf => ?_
  obtain ⟨p, hp⟩ := hl.owned hidle
  exact hf.accounted.flightLawful_enterAborting (by rw [hp]; rfl) mode

theorem ChannelsKept.channelStop (s : State) (p : Port) (chan : Byte) : ChannelsKept s (s.channelStop p chan) := by
  unfold State.channelStop
  split
  · exact .answer ..
  split
  · exact .answer ..
  split
  · next ha => exact (ChannelsKept.enterAborting ha _).trans (.answer ..)
  split
  · exact .answer ..
  · exact .answer ..

theorem ChannelsKept.channelRelease (s : State) (p : Port) (chan : Byte) : ChannelsKept s (s.channelRelease p chan) := by
  unfold State.channelRelease
  split
  · exact .answer ..
  split
  · exact .answer ..
  split
  · next he =>
    refine ChannelsKept.trans (.of_run (.setChan ..) (fun _ => State.lawful_setChan ChannelContext.lawful_reset)
      fun _ hf => ?_) (.answer ..)
    exact (hf.quiet (.inr he)).flightLawful_setReset
  · exact .answer ..

theorem ChannelsKept.channelQuery (s : State) (p : Port) (chan : Byte) : ChannelsKept s (s.channelQuery p chan) := by
  unfold State.channelQuery
  split
  · exact .answer ..
  · exact .answer ..

/-! ### Store accesses -/

theorem ChannelsKept.endDiscarded (s : State) (p : Port) : ChannelsKept s (s.endDiscarded p) := by
  have hidle : ChannelsKept s (s.setLink p (s.link p).discardService) := .setLinkKeepingRequests
  unfold State.endDiscarded
  dsimp only
  split
  · exact hidle.trans (.portUpEvent ..)
  · exact hidle

theorem ChannelsKept.deliverDirect (s : State) (p : Port) (o : AccessOutcome) : ChannelsKept s (s.deliverDirect p o) := by
  unfold State.deliverDirect
  split
  · split
    · exact .endDiscarded ..
    · exact .answer ..
  · exact .refl s

/-- The arbiter changes and each channel's accesses there are among those it had. -/
theorem ChannelsKept.of_arbiter {s t : State} (hchan : t.channels = s.channels) (hlinks : t.links = s.links)
    (hclaims : t.claims = s.claims) (hacc : ∀ c : Channel, (t.accessesOf c).Sublist (s.accessesOf c))
    (hwait : ∀ c : Channel, s.waitingAccess c = none → t.waitingAccess c = none) : ChannelsKept s t := by
  have hreq : ∀ p c, t.requestsAt p c = s.requestsAt p c := fun p c => by
    simp only [State.requestsAt, State.link, State.claimsOf, hlinks, hclaims]
  refine .of_within fun c => ⟨by rw [State.chan, hchan, State.chan], fun p => ?_, fun p => ?_, hacc c, hwait c⟩
  · rw [hreq]
  · rw [State.link, hlinks, State.link]
    exact fun _ => id

theorem State.grantedAccess_none {s : State} (h : s.arbiter.inProgress = none) (c : Channel) : s.grantedAccess c = none := by
  simp [State.grantedAccess, h]

/-- An outcome handed to a channel that had its access at the arbiter (R122). -/
theorem ChannelsKept.of_outcome {s t : State} {c : Channel} {a : ChannelAccess} {o : AccessOutcome}
    (hchan : t.channels = s.channels) (hlinks : t.links = s.links) (hclaims : t.claims = s.claims)
    (ht : t.arbiter.inProgress = none) (hout : ∀ d, t.outcomeOf d = if d = c then some (a, o) else s.outcomeOf d)
    (hwait : ∀ d, t.waitingAccess d = s.waitingAccess d ∨ t.waitingAccess d = none)
    (hhad : (t.waitingAccess c).toList ++ [a] |>.Sublist (s.accessesOf c)) : ChannelsKept s t := by
  refine .of_arbiter hchan hlinks hclaims (fun d => ?_) fun d hn => ?_
  · rw [State.accessesOf_eq, State.takenAccesses, State.grantedAccess_none ht, hout]
    by_cases hd : d = c
    · rw [if_pos hd, hd]
      exact hhad
    · rw [if_neg hd, State.accessesOf_eq, State.takenAccesses]
      refine List.Sublist.append ?_ (List.sublist_append_right ..)
      rcases hwait d with hw | hw <;> rw [hw]
      exact List.nil_sublist _
  · rcases hwait d with hw | hw
    · rw [hw, hn]
    · exact hw

/-- A granted access of a member of port p that had it waiting (R11, R17, R19). -/
theorem ChannelsKept.startAccess {s : State} {p : Port} {m : Member} {a : ChannelAccess}
    (hfree : s.arbiter.inProgress = none) (ha : s.memberAccess p m = some a) : ChannelsKept s (s.startAccess p m a) := by
  cases m with
  | dispatcher =>
    have htaken : ChannelsKept s (s.takeAccess p .dispatcher) := .setLinkKeepingRequests
    unfold State.startAccess
    dsimp only
    split
    · exact htaken.trans (.deliverDirect ..)
    · refine htaken.trans (.of_arbiter rfl rfl rfl (fun c => ?_) fun _ => id)
      rw [State.accessesOf_eq, State.accessesOf_eq, State.takenAccesses, State.takenAccesses,
        State.grantedAccess_none (s := s.takeAccess p .dispatcher) hfree]
      exact .refl _
  | chan c =>
    have hwait : s.waitingAccess c = some a := by
      unfold State.memberAccess at ha
      dsimp only at ha
      split at ha
      · exact ha
      · cases ha
    have hnow : ∀ d, (s.setWaiting c none).waitingAccess d = s.waitingAccess d ∨ (s.setWaiting c none).waitingAccess d = none :=
      fun d => by
        rw [State.setWaiting_waitingAccess]
        split
        · exact .inr rfl
        · exact .inl rfl
    have hself : (s.setWaiting c none).waitingAccess c = none := State.setWaiting_waitingAccess_self ..
    unfold State.startAccess
    dsimp only
    split
    · next o _ =>
      refine .of_outcome (c := c) (a := a) (o := o) rfl rfl rfl hfree (fun d => State.setOutcome_outcomeOf ..) hnow ?_
      show List.Sublist (((s.setWaiting c none).waitingAccess c).toList ++ [a]) _
      rw [hself, State.accessesOf_eq, hwait]
      exact List.sublist_append_left ..
    · refine .of_arbiter rfl rfl rfl (fun d => ?_) fun d hn => ?_
      · rw [State.accessesOf_eq, State.accessesOf_eq, State.takenAccesses, State.takenAccesses, State.grantedAccess_none hfree]
        show List.Sublist (((s.setWaiting c none).waitingAccess d).toList ++ (_ ++ (s.outcomeOf d).toList.map _)) _
        by_cases hd : d = c
        · subst hd
          rw [hself, hwait]
          simp [State.grantedAccess, Option.filter]
        · rw [State.setWaiting_waitingAccess_other _ _ hd]
          simp [State.grantedAccess, Option.filter, Ne.symm hd]
      · rcases hnow d with hw | hw
        · exact hw.trans hn
        · exact hw

theorem ChannelsKept.grantPort {s : State} (hfree : s.arbiter.inProgress = none) (p : Port) (isPriority : Bool) :
    ChannelsKept s (s.grantPort p isPriority) := by
  unfold State.grantPort
  split
  · next m _ =>
    split
    · next a ha =>
      have hrotated : ChannelsKept s (s.setArbiter (s.arbiter.rotated p m isPriority)) :=
        .of_arbiter rfl rfl rfl (fun _ => .refl _) fun _ => id
      exact hrotated.trans (.startAccess (s := s.setArbiter (s.arbiter.rotated p m isPriority)) hfree ha)
    · exact .refl s
  · exact .refl s

theorem ChannelsKept.grantNext {s : State} (hfree : s.arbiter.inProgress = none) : ChannelsKept s s.grantNext := by
  unfold State.grantNext
  split
  · exact .grantPort hfree ..
  split
  · exact .grantPort hfree ..
  · exact .refl s

/-- The access in progress completes: its outcome goes to the dispatcher or the channel (R19, R122). -/
theorem ChannelsKept.finishAccess {s : State} {g : Granted} (hg : s.arbiter.inProgress = some g) :
    ChannelsKept s (s.finishAccess g) := by
  have hframe := s.carriedOut_frame g
  rw [State.finishAccess_eq]
  generalize s.carriedOut g = t at hframe
  have hout : ∀ d, t.outcomeOf d = s.outcomeOf d := fun d => by rw [hframe]; rfl
  have hwait : ∀ d, t.waitingAccess d = s.waitingAccess d := fun d => by rw [hframe]; rfl
  have hfree : t.arbiter.inProgress = none := by rw [hframe]
  cases hm : g.member with
  | dispatcher =>
    have hcarried : ChannelsKept s t := by
      refine .of_arbiter (by rw [hframe]) (by rw [hframe]) (by rw [hframe]) (fun c => ?_) fun c hn => (hwait c).trans hn
      rw [State.accessesOf_eq, State.accessesOf_eq, State.takenAccesses, State.takenAccesses, State.grantedAccess_none hfree,
        hwait, hout]
      exact (List.Sublist.refl _).append (List.sublist_append_right ..)
    exact hcarried.trans (.deliverDirect ..)
  | chan c =>
    refine .of_outcome (c := c) (a := ⟨g.chunk, g.access⟩) (o := (g.access.carryOut s.store).outcome) (by rw [hframe]; rfl)
      (by rw [hframe]; rfl) (by rw [hframe]; rfl) hfree (fun d => ?_) (fun d => .inl (hwait d)) ?_
    · rw [← hout]
      exact State.setOutcome_outcomeOf ..
    · show List.Sublist ((t.waitingAccess c).toList ++ _) _
      rw [hwait, State.accessesOf_eq, State.takenAccesses]
      refine (List.Sublist.refl _).append ?_
      simp [State.grantedAccess, hg, hm, Option.filter]

end Sys2Proof.Machine
end

section
/-! SUPPORT. O59: every command keeps the channel law. -/

namespace Sys2Proof.Machine

/-! ### The requests of the dispatchers -/

theorem execRead_channelsKept (s : State) (p : Port) : Gives (ChannelsKept s) (execRead p s) := by
  unfold execRead
  split
  · exact .next (.presentDirect ..)
  · exact .next (.refl s)

theorem execWrite_channelsKept (s : State) (p : Port) : Gives (ChannelsKept s) (execWrite p s) := by
  unfold execWrite
  split
  · exact .next (.presentDirect ..)
  · exact .next (.refl s)

theorem execFetchAdd_channelsKept (s : State) (p : Port) : Gives (ChannelsKept s) (execFetchAdd p s) := by
  unfold execFetchAdd
  split
  · exact .next (.presentDirect ..)
  · exact .next (.refl s)

theorem execSwap_channelsKept (s : State) (p : Port) : Gives (ChannelsKept s) (execSwap p s) := by
  unfold execSwap
  split
  · exact .next (.presentDirect ..)
  · exact .next (.refl s)

theorem execCompareSwap_channelsKept (s : State) (p : Port) : Gives (ChannelsKept s) (execCompareSwap p s) := by
  unfold execCompareSwap
  split
  · exact .next (.presentDirect ..)
  · exact .next (.refl s)

theorem execLock_channelsKept (s : State) (p : Port) : Gives (ChannelsKept s) (execLock p s) := by
  unfold execLock
  split
  · exact .next (.lockAnswer ..)
  · exact .next (.refl s)

theorem execUnlock_channelsKept (s : State) (p : Port) : Gives (ChannelsKept s) (execUnlock p s) := by
  unfold execUnlock
  split
  · exact .next (.lockAnswer ..)
  · exact .next (.refl s)

theorem execRenew_channelsKept (s : State) (p : Port) : Gives (ChannelsKept s) (execRenew p s) := by
  unfold execRenew
  split
  · exact .next (.lockAnswer ..)
  · exact .next (.refl s)

theorem execAdopt_channelsKept (s : State) (p : Port) : Gives (ChannelsKept s) (execAdopt p s) := by
  unfold execAdopt
  split
  · exact .next (.lockAnswer ..)
  · exact .next (.refl s)

theorem execReclaim_channelsKept (s : State) (p : Port) : Gives (ChannelsKept s) (execReclaim p s) := by
  unfold execReclaim
  split
  · exact .ite (.next (.lockAnswer ..)) (.next (.answer ..))
  · exact .next (.refl s)

theorem execForceRelease_channelsKept (s : State) (p : Port) : Gives (ChannelsKept s) (execForceRelease p s) := by
  unfold execForceRelease
  split
  · exact .ite (.next (.lockAnswer ..)) (.next (.answer ..))
  · exact .next (.refl s)

theorem execLockQuery_channelsKept (s : State) (p : Port) : Gives (ChannelsKept s) (execLockQuery p s) := by
  unfold execLockQuery
  split
  · exact .next (.answer ..)
  · exact .next (.refl s)

theorem execChannelStart_channelsKept (s : State) (p : Port) : Gives (ChannelsKept s) (execChannelStart p s) := by
  unfold execChannelStart
  split
  · exact .next (.channelStart ..)
  · exact .next (.refl s)

theorem execChannelStop_channelsKept (s : State) (p : Port) : Gives (ChannelsKept s) (execChannelStop p s) := by
  unfold execChannelStop
  split
  · exact .next ((ChannelsKept.channelStop ..).asOneAction _)
  · exact .next (.refl s)

theorem execChannelRelease_channelsKept (s : State) (p : Port) : Gives (ChannelsKept s) (execChannelRelease p s) := by
  unfold execChannelRelease
  split
  · exact .next (.channelRelease ..)
  · exact .next (.refl s)

theorem execChannelQuery_channelsKept (s : State) (p : Port) : Gives (ChannelsKept s) (execChannelQuery p s) := by
  unfold execChannelQuery
  split
  · exact .next (.channelQuery ..)
  · exact .next (.refl s)

theorem execNoticeAck_channelsKept (s : State) (p : Port) : Gives (ChannelsKept s) (execNoticeAck p s) := by
  unfold execNoticeAck
  split
  · split
    · exact .next (((ChannelsKept.refl s).setQueue ..).trans (.answer ..))
    · exact .next (.answer ..)
  · exact .next (.refl s)

theorem execConfigRead_channelsKept (s : State) (p : Port) : Gives (ChannelsKept s) (execConfigRead p s) := by
  unfold execConfigRead
  split
  · split
    · exact .next (.answer ..)
    · exact .next (.answer ..)
  · exact .next (.refl s)

theorem execConfigWrite_channelsKept (s : State) (p : Port) : Gives (ChannelsKept s) (execConfigWrite p s) := by
  unfold execConfigWrite
  split
  · refine .ite (.next (.refl s)) ?_
    split
    · exact .next (.answer ..)
    · exact .next ((ChannelsKept.setSettings ..).trans (.answer ..))
  · exact .next (.refl s)

theorem execConfigWriteSupervisor_channelsKept (s : State) (p : Port) :
    Gives (ChannelsKept s) (execConfigWriteSupervisor p s) := by
  unfold execConfigWriteSupervisor
  split
  · refine .ite ?_ (.next (.refl s))
    split
    · exact .next (.answer ..)
    · exact .next (.writeSupervisor ..)
  · exact .next (.refl s)

theorem execConfigWriteTimebase_channelsKept (s : State) (p : Port) : Gives (ChannelsKept s) (execConfigWriteTimebase p s) := by
  unfold execConfigWriteTimebase
  split
  · refine .ite ?_ (.next (.refl s))
    split
    · exact .next (.answer ..)
    · exact .next ((ChannelsKept.setSettings ..).trans (.answer ..))
  · exact .next (.refl s)

theorem execFence_channelsKept (s : State) (p : Port) : Gives (ChannelsKept s) (execFence p s) := by
  unfold execFence
  split
  · exact .ite (.next (.answer ..)) (.ite (.next (.answer ..)) (.next ((ChannelsKept.fenceLink ..).trans (.answer ..))))
  · exact .next (.refl s)

theorem execUnfence_channelsKept (s : State) (p : Port) : Gives (ChannelsKept s) (execUnfence p s) := by
  unfold execUnfence
  split
  · exact .ite (.next (.answer ..)) (.next ((ChannelsKept.unfenceLink ..).trans (.answer ..)))
  · exact .next (.refl s)

/-! ### The claims between blocks -/

theorem execArbiterGrant_channelsKept (s : State) : Gives (ChannelsKept s) (execArbiterGrant s) := by
  unfold execArbiterGrant
  split
  · exact .next (.refl s)
  · next hfree => exact .next (.grantNext hfree)

theorem execAccessComplete_channelsKept (s : State) : Gives (ChannelsKept s) (execAccessComplete s) := by
  unfold execAccessComplete
  split
  · next hg => exact .next (.finishAccess hg)
  · exact .next (.refl s)

theorem execLeaseRestartReport_channelsKept (s : State) : Gives (ChannelsKept s) (execLeaseRestartReport s) := by
  unfold execLeaseRestartReport
  split
  · exact .next (.of_untouched rfl rfl rfl rfl)
  · exact .next (.refl s)

/-- The outcome handed to channel c is taken (R122). -/
theorem ChannelsKept.takeOutcome {s : State} {c : Channel} {a : ChannelAccess} {o : AccessOutcome}
    (ho : s.outcomeOf c = some (a, o)) : ChannelsKept s ((s.setOutcome c none).takeOutcome c a o) := by
  have hrun := RunOnly.takeOutcome (s.setOutcome c none) c a o
  refine ⟨fun hs d => ?_, fun hs d => ?_⟩
  · by_cases hd : d = c
    · subst hd
      exact State.lawful_takeOutcome (s := s.setOutcome d none) (hs d) a o
    · rw [hrun.chan d hd]
      exact hs d
  · by_cases hd : d = c
    · subst hd
      exact State.flightLawful_takeOutcome (hs d).1 (hs d).2 ho
    · have houtcome : (s.setOutcome c none).outcomeOf d = s.outcomeOf d := by rw [State.setOutcome_outcomeOf, if_neg hd]
      have hacc : (s.setOutcome c none).accessesOf d = s.accessesOf d := by
        rw [State.accessesOf_eq, State.accessesOf_eq, State.takenAccesses_congr (s := s) (t := s.setOutcome c none) rfl houtcome]
        rfl
      have hwithin : FlightWithin d s (s.setOutcome c none) :=
        ⟨rfl, fun _ => .refl _, fun _ _ => id, by rw [hacc], id⟩
      exact (hs d).2.within (hwithin.trans (hrun.flightWithin hd))

theorem execChannelAccessOutcome_channelsKept (s : State) (c : Channel) :
    Gives (ChannelsKept s) (execChannelAccessOutcome c s) := by
  unfold execChannelAccessOutcome
  split
  · next ho => exact .next (((ChannelsKept.takeOutcome ho).trans (.giveOwnerSlots ..)).asOneAction _)
  · exact .next (.refl s)

theorem ChannelsKept.retryStalled (s : State) (r : GranuleRange) (c : Channel) : ChannelsKept s (s.retryStalled r c) :=
  .of_run (.retryStalled ..) (fun hl => State.lawful_retryStalled hl r) fun _ hf => State.flightLawful_retryStalled hf r

theorem execReleaseAnnouncement_channelsKept (s : State) : Gives (ChannelsKept s) (execReleaseAnnouncement s) := by
  unfold execReleaseAnnouncement
  split
  · next r rest _ =>
    have htaken : ChannelsKept s { s with announcements := rest } := .of_untouched rfl rfl rfl rfl
    exact .next (htaken.trans (.foldl (fun t c => .retryStalled t r c) ..))
  · exact .next (.refl s)

theorem ChannelsKept.faultRun {s : State} {c : Channel} (ha : (s.chan c).state.active = true) (code : FaultCode) (i : Nat)
    (addr : Option Nat) : ChannelsKept s (s.faultRun c code i addr) := by
  refine .of_run (.faultRun ..) (fun hl => State.lawful_faultRun hl ha ..) fun hl hf => ?_
  obtain ⟨p, hp⟩ := hl.owned (ChanState.ne_idle_of_active ha)
  exact hf.accounted.flightLawful_faultWith (by rw [hp]; rfl) ..

theorem execStallExpiry_channelsKept (s : State) (c : Channel) : Gives (ChannelsKept s) (execStallExpiry c s) := by
  unfold execStallExpiry
  split
  · next hs _ =>
    have hactive : (s.chan c).state.active = true := by
      rw [hs]
      rfl
    exact .ite (.next ((ChannelsKept.faultRun hactive ..).asOneAction _)) (.next (.refl s))
  · exact .next (.refl s)

theorem execNoticeEvent_channelsKept (s : State) (k : Nat) : Gives (ChannelsKept s) (execNoticeEvent k s) := by
  unfold execNoticeEvent
  split
  · next rest _ =>
    have htaken : ChannelsKept s { s with events := dropEvent k rest s.events } := .of_untouched rfl rfl rfl rfl
    exact .next (htaken.trans (.takeEvent ..))
  · exact .next (.refl s)
  · exact .next (.refl s)

theorem execSlotTimeout_channelsKept (s : State) (p : Port) (h : HubSlot) :
    Gives (ChannelsKept s) (execSlotTimeout p h s) := by
  unfold execSlotTimeout
  split
  · next r hr =>
    obtain ⟨o, ho, rfl⟩ := LinkController.timedOut_outstanding hr
    exact .next (.endRequest ho _)
  · exact .next (.refl s)

/-! ### Time -/

theorem ChannelContext.lawful.tick {ctx : ChannelContext} (h : ctx.lawful) : ctx.tick.lawful := by
  obtain ⟨hchunks, hidle, howner, hempty, hfault, hstall⟩ := h
  refine ⟨hchunks, fun hs => ?_, howner, hempty, hfault, fun hs => ?_⟩
  · rw [hidle hs]
    rfl
  · rw [ChannelContext.tick, hstall hs]
    rfl

theorem LinkController.tick_sameRequests (lc : LinkController) : lc.SameRequests lc.tick := by
  refine ⟨List.filterMap_congr fun h _ => ?_, rfl⟩
  cases ho : lc.outstanding h <;>
    simp_all [LinkController.outstanding, LinkController.tick, mapVector, HubSlotState.tick]

/-- A context with no stall record has nothing to count. -/
theorem ChannelContext.tick_of_stall_none {ctx : ChannelContext} (h : ctx.stall = none) : ctx.tick = ctx := by
  rw [ChannelContext.tick, h]
  exact congrArg (fun st => { ctx with stall := st }) h.symm

/-- Law 9 reads nothing of a stall record but the access refused. -/
theorem State.Moving.tick {s t : State} {c : Channel} {d : Descriptor} (h : s.Moving c d)
    (hchan : t.chan c = (s.chan c).tick) (hreq : ∀ p, t.requestsAt p c = s.requestsAt p c)
    (hwait : ∀ p, (t.link p).waiting = (s.link p).waiting) (hacc : t.accessesOf c = s.accessesOf c) : t.Moving c d := by
  refine ⟨⟨?_, ?_, ?_, hacc ▸ h.one⟩, ?_, ?_, ?_, ?_, ?_, ?_, ?_⟩ <;> simp only [hchan, hreq, hwait, hacc]
  · exact h.nodup
  · exact h.own
  · exact h.atOwner
  · exact h.state
  · exact h.current
  · exact h.requests
  · exact h.accesses
  · exact h.position
  · exact h.last
  · intro hst
    obtain ⟨hsome, hfits⟩ := h.stall hst
    refine ⟨by simpa [ChannelContext.tick] using hsome, fun r hr => ?_⟩
    obtain ⟨r', hr', rfl⟩ := Option.map_eq_some_iff.mp hr
    exact hfits r' hr'

/-- A channel's store accesses are read from the arbiter alone. -/
theorem State.accessesOf_congr {s t : State} (h : t.arbiter = s.arbiter) (c : Channel) : t.accessesOf c = s.accessesOf c := by
  have hout : t.outcomeOf c = s.outcomeOf c := by simp only [State.outcomeOf, h]
  rw [State.accessesOf_eq, State.accessesOf_eq, State.takenAccesses_congr (by rw [h]) hout, State.waitingAccess, h]
  rfl

/-- The timers of the channels and the links count (R125, R152, R158). -/
theorem ChannelsKept.of_tick {s t : State} (hchan : ∀ c : Channel, t.chan c = (s.chan c).tick)
    (hlink : ∀ p, t.link p = (s.link p).tick) (harb : t.arbiter = s.arbiter) (hclaims : t.claims = s.claims) :
    ChannelsKept s t := by
  refine ⟨fun hs c => hchan c ▸ (hs c).tick, fun hs c => ?_⟩
  obtain ⟨hl, hf⟩ := hs c
  have hreq : ∀ p, t.requestsAt p c = s.requestsAt p c := fun p => by
    have hslots := (s.link p).tick_sameRequests.1
    rw [State.requestsAt_slotRequests, State.requestsAt_slotRequests, hlink, hslots, State.claimsOf, hclaims]
    rfl
  have hwait : ∀ p, (t.link p).waiting = (s.link p).waiting := fun p => by
    rw [hlink]
    rfl
  have hacc := State.accessesOf_congr harb c
  by_cases hst : (s.chan c).state = .stalled
  · obtain ⟨d, hm⟩ := hf.moving (.inr hst)
    exact (hm.tick (hchan c) hreq hwait hacc).flightLawful
  · have hsame : t.chan c = s.chan c := (hchan c).trans (ChannelContext.tick_of_stall_none (hl.stall_none hst))
    refine hf.within ⟨hsame, fun p => hreq p ▸ .refl _, fun p => hwait p ▸ fun _ => id, hacc ▸ .refl _, fun hn => ?_⟩
    rw [State.waitingAccess, harb]
    exact hn

theorem execTimebaseBoundary_channelsKept (s : State) : Gives (ChannelsKept s) (execTimebaseBoundary s) := by
  unfold execTimebaseBoundary
  split
  · exact .next (.of_tick (fun c => by simp [State.chan, mapVector]) (fun p => by simp [State.link, mapVector]) rfl rfl)
  all_goals exact .next (.refl s)

/-! ### Reset sequencing -/

/-- Every block that a channel has anything at is as after reset. -/
theorem ChannelsKept.of_blocks_reset {s t : State} (hchan : t.channels = State.reset.channels)
    (harb : t.arbiter = State.reset.arbiter) (hclaims : t.claims = State.reset.claims)
    (hlinks : t.links = mapVector LinkController.hubReset s.links) : ChannelsKept s t := by
  have hctx : ∀ c : Channel, t.chan c = ChannelContext.reset := fun c => by
    rw [State.chan, hchan]
    exact State.chan_reset c
  have hlink : ∀ p, t.link p = LinkController.reset (s.link p).prst := fun p => by
    simp [State.link, hlinks, mapVector, LinkController.hubReset]
  refine ⟨fun _ c => hctx c ▸ ChannelContext.lawful_reset, fun _ c => ?_⟩
  have hquiet : t.Quiet c := by
    refine ⟨fun p => ?_, ?_⟩
    · have hnone : t.claimsOf p = [] := by
        rw [State.claimsOf, hclaims]
        exact State.claimsOf_reset p
      simp [State.requestsAt, hlink, hnone]
    · rw [State.accessesOf_congr (s := State.reset) harb, State.accessesOf_reset]
  exact hquiet.flightLawful (by rw [hctx]; decide)

theorem ChannelsKept.coldReset (s : State) : ChannelsKept s s.coldReset := .of_blocks_reset rfl rfl rfl rfl

theorem ChannelsKept.warmReset (s : State) : ChannelsKept s s.warmReset := .of_blocks_reset rfl rfl rfl rfl

theorem execPwrokRise_channelsKept (s : State) : Gives (ChannelsKept s) (execPwrokRise s) := by
  unfold execPwrokRise
  split
  · exact .next (.of_untouched rfl rfl rfl rfl)
  all_goals exact .next (.refl s)

theorem execInitComplete_channelsKept (s : State) : Gives (ChannelsKept s) (execInitComplete s) := by
  unfold execInitComplete
  split
  · exact .next (.of_untouched rfl rfl rfl rfl)
  · exact .next (.of_untouched rfl rfl rfl rfl)
  all_goals exact .next (.refl s)

theorem execHrstAssert_channelsKept (s : State) : Gives (ChannelsKept s) (execHrstAssert s) := by
  unfold execHrstAssert
  split
  · exact .next ((ChannelsKept.warmReset s).trans (.of_untouched rfl rfl rfl rfl))
  · exact .next (.warmReset s)
  all_goals exact .next (.of_untouched rfl rfl rfl rfl)

theorem execHrstRelease_channelsKept (s : State) : Gives (ChannelsKept s) (execHrstRelease s) := by
  unfold execHrstRelease
  split <;> exact .next (.of_untouched rfl rfl rfl rfl)

theorem execSupselChange_channelsKept (s : State) (straps : Port) : Gives (ChannelsKept s) (execSupselChange straps s) := by
  unfold execSupselChange
  split <;> exact .next (.of_untouched rfl rfl rfl rfl)

/-! ### Every command -/

/-- Every command keeps the channel law. -/
theorem exec_channelsKept (c : Instr) (s : State) : Gives (ChannelsKept s) (exec c s) := by
  have hclaim : ∀ p, ChannelsKept s (s.takeClaim p) := fun p => .takeClaim s p
  cases c with
  | pwrokFall => exact .next (.coldReset s)
  | pwrokRise => exact execPwrokRise_channelsKept s
  | initComplete => exact execInitComplete_channelsKept s
  | hrstAssert => exact execHrstAssert_channelsKept s
  | hrstRelease => exact execHrstRelease_channelsKept s
  | supselChange straps => exact execSupselChange_channelsKept s straps
  | prstnAssert p => exact .next (.assertPrst s p)
  | prstnRelease p => exact .next (.releasePrst s p)
  | bitDisturbance w d => exact .next (.of_untouched rfl rfl rfl rfl)
  | timebaseBoundary => exact execTimebaseBoundary_channelsKept s
  | leaseExpiry k => exact .next (.expire ..)
  | waitExpiry k => exact .next (.expire ..)
  | orphanExpiry k => exact .next (.expire ..)
  | stallExpiry c => exact execStallExpiry_channelsKept s c
  | trainWindowExpiry p => exact .ite (.next .setLinkKeepingRequests) (.next (.refl s))
  | slotTimeout p h => exact execSlotTimeout_channelsKept s p h
  | hello p => exact .next (.receiveHello s p)
  | ready p word => exact .next (.receiveReady s p word)
  | lossOfSignal p => exact .next (.linkFails ..)
  | badCheckPacket p => exact .next (.linkFails ..)
  | requestReceived p pkt => exact .next (.receivePacket s p pkt)
  | fetchReply p tag payload => exact .next (.receiveFetchReply s p tag payload)
  | storeReply p tag payload => exact .next (.receiveStoreReply s p tag payload)
  | responseSent p => exact .ite (.next (.sendResponse s p)) (.next (.refl s))
  | noticeSent p => exact .ite (.next (.sendNotice s p)) (.next (.refl s))
  | hubRequestSent p => exact .ite (.next (.sendHubRequest s p)) (.next (.refl s))
  | read p => exact execRead_channelsKept s p
  | write p => exact execWrite_channelsKept s p
  | fetchAdd p => exact execFetchAdd_channelsKept s p
  | swap p => exact execSwap_channelsKept s p
  | compareSwap p => exact execCompareSwap_channelsKept s p
  | arbiterGrant => exact execArbiterGrant_channelsKept s
  | accessComplete => exact execAccessComplete_channelsKept s
  | leaseRestartReport => exact execLeaseRestartReport_channelsKept s
  | lock p => exact execLock_channelsKept s p
  | unlock p => exact execUnlock_channelsKept s p
  | renew p => exact execRenew_channelsKept s p
  | adopt p => exact execAdopt_channelsKept s p
  | reclaim p => exact execReclaim_channelsKept s p
  | forceRelease p => exact execForceRelease_channelsKept s p
  | lockQuery p => exact execLockQuery_channelsKept s p
  | lockPortDown p => exact .next (.takeLockPortDown s p)
  | arbiterPortDown p => exact .next (.takeArbiterPortDown s p)
  | channelStart p => exact execChannelStart_channelsKept s p
  | channelStop p => exact execChannelStop_channelsKept s p
  | channelRelease p => exact execChannelRelease_channelsKept s p
  | channelQuery p => exact execChannelQuery_channelsKept s p
  | descriptorReply p => exact .ite (.next (hclaim p)) (.next (.refl s))
  | lookaheadReply p => exact .ite (.next (hclaim p)) (.next (.refl s))
  | chunkFetchReply p => exact .ite (.next (hclaim p)) (.next (.refl s))
  | chunkStoreReply p => exact .ite (.next (hclaim p)) (.next (.refl s))
  | channelHubTimeout p => exact .ite (.next (hclaim p)) (.next (.refl s))
  | hubRequestDrop p => exact .ite (.next (hclaim p)) (.next (.refl s))
  | channelAccessOutcome c => exact execChannelAccessOutcome_channelsKept s c
  | releaseAnnouncement => exact execReleaseAnnouncement_channelsKept s
  | channelPortDown p => exact .ite (.next (hclaim p)) (.next (.refl s))
  | noticeEvent k => exact execNoticeEvent_channelsKept s k
  | noticeAck p => exact execNoticeAck_channelsKept s p
  | noticeRewind p => exact .ite (.next (.takeNoticePortDown s p)) (.next (.refl s))
  | noticeQueueEmpty p => exact .ite (.next (.takeNoticePortDown s p)) (.next (.refl s))
  | configRead p => exact execConfigRead_channelsKept s p
  | configWrite p => exact execConfigWrite_channelsKept s p
  | configWriteSupervisor p => exact execConfigWriteSupervisor_channelsKept s p
  | configWriteTimebase p => exact execConfigWriteTimebase_channelsKept s p
  | fence p => exact execFence_channelsKept s p
  | unfence p => exact execUnfence_channelsKept s p

/-- The one next state of a command keeps the channel law. -/
theorem exec_keepsChannelLaw {c : Instr} {s t : State} (ht : exec c s = .next t) : ChannelsKept s t := by
  obtain ⟨u, hu, hkept⟩ := exec_channelsKept c s
  cases hu.symm.trans ht
  exact hkept

/-! ### O59 -/

/-- Settles O59, by the commands: each keeps the contexts lawful, and law 9 with them, carried to the step. -/
theorem everyStepKeepsTheChannelLaw : Obligations.EveryStepKeepsTheChannelLaw :=
  ⟨fun _ _ => step_keeps (P := fun s => ∀ c : Channel, (s.chan c).lawful)
      (fun _ _ hs _ ht => (exec_keepsChannelLaw ht).contexts hs) (fun _ => id) (fun _ _ => id),
    fun _ _ => step_keeps (P := State.channelsLawful) (fun _ _ hs _ ht => (exec_keepsChannelLaw ht).channelsLawful hs)
      (fun _ => id) (fun _ _ => id)⟩

end Sys2Proof.Machine
end

section
/-! SUPPORT. How a run ends (R98, R100, R101): ENTER_ABORTING and ABORTING_END by what is in flight, a fault taken, and what giving slots
and putting an action's events together leave of it. -/

namespace Sys2Proof.Machine

/-! ### What is in flight -/

/-- ABORTING ends when nothing is in flight and no access waits (R101). -/
theorem State.drained_iff (s : State) (c : Channel) : s.drained c = true ↔ s.inFlight c = false ∧ s.waitingAccess c = none := by
  simp only [State.drained, State.inFlight, State.accessPresented, Bool.and_eq_true, Bool.not_eq_true', Bool.or_eq_false_iff,
    Option.isSome_eq_false_iff, Option.isNone_iff_eq_none]
  tauto

/-- What is in flight is read from the owner's Link Controller, its claims and the arbiter. -/
theorem State.inFlight_congr {s t : State} {c : Channel} (ho : (t.chan c).owner = (s.chan c).owner)
    (hs : ∀ p, (t.link p).slots = (s.link p).slots) (hc : ∀ p, t.claimsOf p = s.claimsOf p)
    (hp : t.arbiter.inProgress = s.arbiter.inProgress) (hout : t.outcomeOf c = s.outcomeOf c) : t.inFlight c = s.inFlight c := by
  have hbusy : ∀ p, (t.link p).busyFor c = (s.link p).busyFor c := fun p => by
    simp only [LinkController.busyFor, LinkController.outstanding, hs p]
  have hhub : t.hubOutstanding c = s.hubOutstanding c := by
    simp only [State.hubOutstanding, ho, hbusy, hc]
  rw [State.inFlight, State.inFlight, hhub, State.accessGranted, State.accessGranted, State.grantedTo, State.grantedTo, hp, hout]

/-- A change of a channel's run takes nothing out of flight, nor puts anything in. -/
theorem RunOnly.inFlight {c d : Channel} {s t : State} (h : RunOnly d s t) (ho : (t.chan c).owner = (s.chan c).owner) :
    t.inFlight c = s.inFlight c := State.inFlight_congr ho h.slots h.claimsOf h.inProgress (h.outcomeOf c)

/-! ### ABORTING_END (R101) -/

theorem State.finishAborting_of_inFlight {s : State} {c : Channel} (h : s.inFlight c = true) : s.finishAborting c = s := by
  refine if_neg fun hd => ?_
  rw [((State.drained_iff s c).mp hd.2).1] at h
  cases h

/-- After a hard loss the channel is IDLE again, and nobody is told (R101, R106). -/
theorem State.finishAborting_unbind {s : State} {c : Channel} (hs : (s.chan c).state = .aborting) (hf : s.inFlight c = false)
    (hw : s.waitingAccess c = none) (hm : (s.chan c).endMode = some .unbind) :
    s.finishAborting c = s.setChan c ChannelContext.reset := by
  rw [State.finishAborting, if_pos ⟨hs, (State.drained_iff s c).mpr ⟨hf, hw⟩⟩]
  simp only [hm]

/-- The run ends FAULTED or STOPPED and its port is told (R101, R102). -/
theorem State.finishAborting_keep {s : State} {c : Channel} {p : Port} (hs : (s.chan c).state = .aborting)
    (hf : s.inFlight c = false) (hw : s.waitingAccess c = none) (hm : (s.chan c).endMode = some .keep)
    (ho : (s.chan c).owner = some p) :
    s.finishAborting c = (s.setChan c (s.chan c).ended).hand
      [(p, .channelEnd c (s.chan c).abortOutcome (s.chan c).bytesMoved)] := by
  rw [State.finishAborting, if_pos ⟨hs, (State.drained_iff s c).mpr ⟨hf, hw⟩⟩]
  simp [hm, State.handOwner, ho, ChannelContext.ended]

/-! ### ENTER_ABORTING (R100) -/

theorem RunOnly.withdrawn (s : State) (c : Channel) (mode : EndMode) : RunOnly c s (s.withdrawn c mode) :=
  ((RunOnly.setChan ..).trans (.setWaiting ..)).trans (.withdrawHub ..)

theorem State.withdrawn_waitingAccess (s : State) (c : Channel) (mode : EndMode) :
    (s.withdrawn c mode).waitingAccess c = none := by
  rw [State.withdrawn, State.withdrawHub_waitingAccess]
  exact State.setWaiting_waitingAccess_self ..

theorem State.withdrawn_inFlight (s : State) (c : Channel) (mode : EndMode) :
    (s.withdrawn c mode).inFlight c = s.inFlight c := (RunOnly.withdrawn s c mode).inFlight (by rw [State.withdrawn_chan]; rfl)

theorem State.withdrawn_events (s : State) (c : Channel) (mode : EndMode) : (s.withdrawn c mode).events = s.events := by
  unfold State.withdrawn State.withdrawHub
  split <;> rfl

/-- With something in flight the run drains. -/
theorem State.enterAborting_of_inFlight {s : State} {c : Channel} (h : s.inFlight c = true) (mode : EndMode) :
    s.enterAborting c mode = s.withdrawn c mode := by
  rw [State.enterAborting_eq]
  exact State.finishAborting_of_inFlight (by rw [State.withdrawn_inFlight]; exact h)

theorem State.enterAborting_unbind {s : State} {c : Channel} (h : s.inFlight c = false) :
    s.enterAborting c .unbind = (s.withdrawn c .unbind).setChan c ChannelContext.reset := by
  have hchan := s.withdrawn_chan c .unbind
  rw [State.enterAborting_eq]
  exact State.finishAborting_unbind (by rw [hchan]; rfl) (by rw [State.withdrawn_inFlight, h]) (s.withdrawn_waitingAccess ..)
    (by rw [hchan]; rfl)

/-- With nothing in flight the run ends in the same action. -/
theorem State.enterAborting_keep {s : State} {c : Channel} {p : Port} (h : s.inFlight c = false)
    (ho : (s.chan c).owner = some p) :
    s.enterAborting c .keep = ((s.withdrawn c .keep).setChan c ((s.chan c).drain .keep).ended).hand
      [(p, .channelEnd c (s.chan c).abortOutcome (s.chan c).bytesMoved)] := by
  have hchan := s.withdrawn_chan c .keep
  rw [State.enterAborting_eq, State.finishAborting_keep (p := p) (by rw [hchan]; rfl) (by rw [State.withdrawn_inFlight, h])
    (s.withdrawn_waitingAccess ..) (by rw [hchan]; rfl) (by rw [hchan]; exact ho), hchan]
  rfl

theorem State.enterAborting_waitingAccess (s : State) (c : Channel) (mode : EndMode) :
    (s.enterAborting c mode).waitingAccess c = none := by
  rw [State.enterAborting_eq, State.finishAborting_waitingAccess, State.withdrawn_waitingAccess]

/-- The context of a run that has entered ABORTING: draining, or ended already. -/
theorem State.enterAborting_chan (s : State) (c : Channel) (mode : EndMode) :
    (s.enterAborting c mode).chan c
      = if s.inFlight c = true then (s.chan c).drain mode else ((s.chan c).drain mode).ended := by
  have hdrained : (s.withdrawn c mode).drained c = true ↔ s.inFlight c = false := by
    rw [State.drained_iff, State.withdrawn_inFlight]
    exact and_iff_left (s.withdrawn_waitingAccess c mode)
  rw [State.enterAborting_eq, State.finishAborting_chan, State.withdrawn_chan]
  cases h : s.inFlight c with
  | true => exact if_neg fun hd => by simp [hdrained.mp hd.2] at h
  | false => exact if_pos ⟨rfl, hdrained.mpr h⟩

/-- The events of a run that enters ABORTING with end mode KEEP: none while it drains, CHANNEL_END when it has ended. -/
theorem State.enterAborting_keep_events {s : State} {c : Channel} {p : Port} (ho : (s.chan c).owner = some p) :
    (s.enterAborting c .keep).events = joined s.events
      (if s.inFlight c = true then [] else [(p, .channelEnd c (s.chan c).abortOutcome (s.chan c).bytesMoved)]) := by
  cases h : s.inFlight c with
  | true => rw [State.enterAborting_of_inFlight h, State.withdrawn_events, if_pos rfl, joined_nil]
  | false =>
    rw [State.enterAborting_keep h ho, if_neg (by decide), ← s.withdrawn_events c .keep]
    rfl

theorem State.enterAborting_unbind_events (s : State) (c : Channel) : (s.enterAborting c .unbind).events = s.events := by
  cases h : s.inFlight c with
  | true => rw [State.enterAborting_of_inFlight h, State.withdrawn_events]
  | false => rw [State.enterAborting_unbind h, State.setChan_events, State.withdrawn_events]

/-! ### One action's events (R137) -/

theorem joined_snoc (events : List (List Handed)) (l : List Handed) (e : Handed) :
    joined events (l ++ [e]) = events ++ [l ++ [e]] := if_neg (by simp)

/-- Events handed as one list stay one list. -/
theorem State.asOneAction_events_of_joined {s t : State} {l : List Handed} (h : t.events = joined s.events l) :
    (s.asOneAction t).events = joined s.events l := by
  have hnew : (t.events.drop s.events.length).flatten = l := by
    rw [h]
    cases l with
    | nil => simp
    | cons e rest => simp [joined_cons]
  rw [State.asOneAction_events, hnew]

theorem State.asOneAction_events_of_same {s t : State} (h : t.events = s.events) : (s.asOneAction t).events = s.events := by
  rw [State.asOneAction_events_of_joined (l := []) (by rw [h, joined_nil]), joined_nil]

/-! ### A fault (R98) -/

/-- A context with its fault record made (R98, log entry 17). -/
def ChannelContext.record (ctx : ChannelContext) (code : FaultCode) (i : Nat) (a : Option Nat) : ChannelContext :=
  { ctx with fault := some ⟨code, i, a⟩, index := i }

theorem State.faultRun_eq (s : State) (c : Channel) (code : FaultCode) (i : Nat) (a : Option Nat) :
    s.faultRun c code i a = (s.setChan c ((s.chan c).record code i a)).enterAborting c .keep := rfl

/-- A fault taken: the run drains, or has ended FAULTED, with CHANNEL_END alone in its action. -/
theorem State.faultRun_faultsRun {s : State} {c : Channel} {p : Port} (ho : (s.chan c).owner = some p) (code : FaultCode)
    (i : Nat) (a : Option Nat) : FaultsRun s (s.faultRun c code i a) c p code i a [] := by
  have hengine := EngineOnly.faultRun s c code i a
  have hrun := RunOnly.setChan s c ((s.chan c).record code i a)
  have hchan := s.setChan_chan_self c ((s.chan c).record code i a)
  have hevents := s.setChan_events c ((s.chan c).record code i a)
  rw [State.faultRun_eq] at hengine ⊢
  generalize s.setChan c ((s.chan c).record code i a) = u at hrun hchan hevents hengine
  have hflight : u.inFlight c = s.inFlight c := hrun.inFlight (by rw [hchan]; rfl)
  have hends := State.enterAborting_keep_events (s := u) (c := c) (p := p) (by rw [hchan]; exact ho)
  have hdrains := u.enterAborting_chan c .keep
  have hnone := u.enterAborting_waitingAccess c .keep
  generalize u.enterAborting c .keep = t at hengine hends hdrains hnone
  rw [hchan, hflight] at hdrains hends
  rw [hevents] at hends
  cases hf : s.inFlight c with
  | true =>
    rw [hf, if_pos rfl] at hdrains hends
    rw [FaultsRun, FaultTaken, hdrains]
    exact ⟨⟨rfl, .inl ⟨rfl, rfl⟩, rfl, rfl, rfl, rfl, rfl, hnone⟩, hengine, fun _ => ⟨rfl, hends⟩, fun h => by simp [hf] at h⟩
  | false =>
    rw [hf, if_neg (by decide)] at hdrains hends
    rw [FaultsRun, FaultTaken, hdrains]
    exact ⟨⟨rfl, .inr rfl, rfl, rfl, rfl, rfl, rfl, hnone⟩, hengine, fun h => by simp [hf] at h, fun _ => ⟨rfl, rfl, hends⟩⟩

/-- A fault of a run, seen from a state before it with the same owner, bytes moved, events and flight. -/
theorem FaultsRun.of_same {s u t : State} {c : Channel} {p : Port} {code : FaultCode} {i : Nat} {a : Option Nat}
    {before : List Handed} (h : FaultsRun u t c p code i a before) (he : EngineOnly s u) (hr : RunOnly c s u)
    (ho : (u.chan c).owner = (s.chan c).owner) (hb : (u.chan c).bytesMoved = (s.chan c).bytesMoved)
    (hv : u.events = s.events) : FaultsRun s t c p code i a before := by
  obtain ⟨⟨hfault, hstate, hindex, hbytes, howner, hrest⟩, hengine, hdrains, hends⟩ := h
  rw [hr.inFlight ho, hv] at hdrains hends
  rw [hb] at hends
  exact ⟨⟨hfault, hstate, hindex, hbytes.trans hb, howner.trans ho, hrest⟩, he.trans hengine, hdrains, hends⟩

/-! ### Slots given after an action -/

theorem State.giveSlots_events (s : State) (p : Port) : (s.giveSlots p).events = s.events := by
  rw [State.giveSlots_frame]

@[simp] theorem State.giveSlots_waitingAccess (s : State) (p : Port) (c : Channel) :
    (s.giveSlots p).waitingAccess c = s.waitingAccess c := by
  rw [State.giveSlots_frame]
  rfl

theorem State.giveSlots_claimsOf (s : State) (p q : Port) : (s.giveSlots p).claimsOf q = s.claimsOf q := by
  rw [State.giveSlots_frame]
  rfl

theorem State.giveSlots_arbiter (s : State) (p : Port) : (s.giveSlots p).arbiter = s.arbiter := by
  rw [State.giveSlots_frame]

/-- What of a chunk no slot given changes: where its data lies. -/
def Chunk.place (k : Chunk) : Nat × Word × Nat := (k.store, k.far, k.len)

theorem ChannelContext.setChunkState_places (ctx : ChannelContext) (store : Nat) (st : ChunkState) :
    (ctx.setChunkState store st).chunks.map Chunk.place = ctx.chunks.map Chunk.place := by
  rw [ChannelContext.setChunkState, List.map_map]
  refine List.map_congr_left fun k _ => ?_
  show Chunk.place (if k.store = store then { k with state := st } else k) = k.place
  split <;> rfl

theorem State.noteSlotGiven_places (s : State) (r : HubRequest) (c : Channel) :
    ((s.noteSlotGiven r).chan c).chunks.map Chunk.place = (s.chan c).chunks.map Chunk.place := by
  unfold State.noteSlotGiven
  split
  · by_cases hc : c = r.chan
    · subst hc
      rw [State.setChan_chan_self, ChannelContext.setChunkState_places]
    · rw [State.setChan_chan_other _ _ hc]
  · rfl

theorem State.giveSlots_places (s : State) (p : Port) (c : Channel) :
    ((s.giveSlots p).chan c).chunks.map Chunk.place = (s.chan c).chunks.map Chunk.place := by
  suffices h : ∀ n, ((s.giveSlotsUpTo p n).chan c).chunks.map Chunk.place = (s.chan c).chunks.map Chunk.place from h 8
  intro n
  induction n generalizing s with
  | zero => rfl
  | succ n ih =>
    unfold State.giveSlotsUpTo
    split
    · rw [ih, State.noteSlotGiven_places]
      rfl
    · rfl

theorem State.giveSlots_chunks_nil {s : State} {c : Channel} (h : (s.chan c).chunks = []) (p : Port) :
    ((s.giveSlots p).chan c).chunks = [] := by
  have hplaces := s.giveSlots_places p c
  rw [h] at hplaces
  exact List.map_eq_nil_iff.mp hplaces

/-- A fault stands after the slots it freed are given. -/
theorem FaultsRun.giveSlots {s t : State} {c : Channel} {p : Port} {code : FaultCode} {i : Nat} {a : Option Nat}
    {before : List Handed} (h : FaultsRun s t c p code i a before) (q : Port) :
    FaultsRun s (t.giveSlots q) c p code i a before := by
  obtain ⟨⟨hfault, hstate, hindex, hbytes, howner, hnext, hstall, hnone⟩, hengine, hdrains, hends⟩ := h
  have hempty := fun hk => State.giveSlots_chunks_nil (s := t) (c := c) hk q
  have hchan := t.giveSlots_chan q c
  refine ⟨?_, hengine.trans (.giveSlots ..), fun hf => ?_, fun hf => ?_⟩
  · rw [FaultTaken, hchan, State.giveSlots_waitingAccess]
    exact ⟨hfault, hstate, hindex, hbytes, howner, hnext, hstall, hnone⟩
  · rw [hchan, State.giveSlots_events]
    exact hdrains hf
  · obtain ⟨hfaulted, hchunks, hevents⟩ := hends hf
    exact ⟨(congrArg ChannelContext.state hchan).trans hfaulted, hempty hchunks, (t.giveSlots_events q).trans hevents⟩

/-- A fault stands with its events as one action's. -/
theorem FaultsRun.asOneAction {s t : State} {c : Channel} {p : Port} {code : FaultCode} {i : Nat} {a : Option Nat}
    {before : List Handed} (h : FaultsRun s t c p code i a before) : FaultsRun s (s.asOneAction t) c p code i a before := by
  obtain ⟨htaken, hengine, hdrains, hends⟩ := h
  refine ⟨htaken, hengine.asOneAction, fun hf => ⟨(hdrains hf).1, State.asOneAction_events_of_joined (hdrains hf).2⟩, fun hf => ?_⟩
  obtain ⟨hfaulted, hchunks, hevents⟩ := hends hf
  rw [← joined_snoc] at hevents ⊢
  exact ⟨hfaulted, hchunks, State.asOneAction_events_of_joined hevents⟩

end Sys2Proof.Machine
end

section
/-! SUPPORT. O40 and O41: CHANNEL_START, CHANNEL_STOP and CHANNEL_RELEASE (R91, R92, R99 to R104). -/

namespace Sys2Proof.Machine

/-! ### Hub requests handed -/

/-- A request handed stays handed where its Link Controller keeps its slots and its waiting lists. -/
theorem HubRequestHanded.of_same {s t : State} {p : Port} {r : HubRequest} (h : HubRequestHanded s p r)
    (hs : (t.link p).slots = (s.link p).slots) (hw : (s.link p).waiting[r.chan] ⊆ (t.link p).waiting[r.chan]) :
    HubRequestHanded t p r := by
  refine h.imp (fun hm => hw hm) fun hm => ?_
  simpa only [LinkController.outstanding, hs] using hm

theorem HubRequestHanded.handHub_self {s : State} {p : Port} {r : HubRequest} (ho : (s.chan r.chan).owner = some p) :
    HubRequestHanded (s.handHub r) p r := by
  left
  rw [State.handHub_waiting, if_pos ho]
  simp

theorem HubRequestHanded.handHub {s : State} {p : Port} {q : HubRequest} (h : HubRequestHanded s p q) (r : HubRequest) :
    HubRequestHanded (s.handHub r) p q := by
  have hrun := RunOnly.handHub s r
  have hjoins : ∀ d : Channel, (s.link p).waiting[d] ⊆ ((s.handHub r).link p).waiting[d] := fun d => by
    by_cases hd : d = r.chan
    · rw [hd, State.handHub_waiting]
      split
      · exact List.subset_append_left ..
      · exact fun _ => id
    · rw [hrun.waiting_other hd]
      exact fun _ => id
  exact h.of_same (hrun.slots p) (hjoins q.chan)

/-- A slot given to a request leaves it handed, and every other. -/
theorem HubRequestHanded.giveSlot {s : State} {p : Port} {q r : HubRequest} {lc : LinkController} (h : HubRequestHanded s p q)
    (hg : (s.link p).giveSlot = some (lc, r)) : HubRequestHanded (s.setLink p lc) p q := by
  obtain ⟨_, k, c, rest, _, hfree, hwait, hlc⟩ := LinkController.giveSlot_eq_some hg
  rw [HubRequestHanded, State.setLink_link_self, hlc]
  rcases h with hw | ⟨j, hj⟩
  · by_cases hc : q.chan = c
    · subst hc
      rw [hwait] at hw
      rcases List.mem_cons.mp hw with rfl | hrest
      · exact .inr ⟨k, by simp [LinkController.outstanding]⟩
      · left
        simpa using hrest
    · left
      simpa [Vector.getElem_set_ne, Fin.val_ne_of_ne (Ne.symm hc)] using hw
  · have hjk : j ≠ k := fun he => by rw [he, hfree] at hj; cases hj
    refine .inr ⟨j, ?_⟩
    simpa [LinkController.outstanding, Vector.getElem_set_ne, Fin.val_ne_of_ne (Ne.symm hjk)] using hj

theorem HubRequestHanded.giveSlots {s : State} {p : Port} {q : HubRequest} (h : HubRequestHanded s p q) :
    HubRequestHanded (s.giveSlots p) p q := by
  suffices hn : ∀ n, HubRequestHanded (s.giveSlotsUpTo p n) p q from hn 8
  intro n
  induction n generalizing s with
  | zero => exact h
  | succ n ih =>
    unfold State.giveSlotsUpTo
    split
    · next lc r hg =>
      refine ih ((h.giveSlot hg).of_same ?_ ?_) <;> rw [State.noteSlotGiven_link]
      exact fun _ => id
    · exact h

/-! ### Answers -/

theorem State.answer_chan (s : State) (p : Port) (st : Status) (d : Option Half) (w : List Word) (c : Channel) :
    (s.answer p st d w).chan c = s.chan c := by
  rw [State.answer_frame]
  rfl

theorem State.answer_waitingAccess (s : State) (p : Port) (st : Status) (d : Option Half) (w : List Word) (c : Channel) :
    (s.answer p st d w).waitingAccess c = s.waitingAccess c := by
  rw [State.answer_frame]
  rfl

theorem State.answer_events (s : State) (p : Port) (st : Status) (d : Option Half) (w : List Word) :
    (s.answer p st d w).events = s.events := by
  rw [State.answer_frame]

/-- An answer leaves what belongs to hub requests. -/
theorem State.answer_slots_waiting (s : State) (p : Port) (st : Status) (d : Option Half) (w : List Word) (q : Port) :
    ((s.answer p st d w).link q).slots = (s.link q).slots ∧ ((s.answer p st d w).link q).waiting = (s.link q).waiting := by
  obtain ⟨hother, hself⟩ := State.answer_dispatcherOnly (s := s) (u := s) (p := p) (fun _ => rfl) st d w
  by_cases hq : q = p
  · rw [hq, hself]
    exact ⟨rfl, rfl⟩
  · rw [hother q hq]
    exact ⟨rfl, rfl⟩

theorem HubRequestHanded.answer {s : State} {p : Port} {q : HubRequest} (h : HubRequestHanded s p q) (r : Port) (st : Status)
    (d : Option Half) (w : List Word) : HubRequestHanded (s.answer r st d w) p q := by
  obtain ⟨hslots, hwait⟩ := s.answer_slots_waiting r st d w p
  refine h.of_same hslots ?_
  rw [hwait]
  exact fun _ => id

/-- A Link Controller in which only what belongs to hub requests has changed. -/
def LinkController.RequestsOnly (lc lc' : LinkController) : Prop :=
  lc' = { lc with slots := lc'.slots, unsent := lc'.unsent, waiting := lc'.waiting, lastServed := lc'.lastServed }

theorem LinkController.RequestsOnly.trans {lc lc' lc'' : LinkController} (h : lc.RequestsOnly lc') (h' : lc'.RequestsOnly lc'') :
    lc.RequestsOnly lc'' := by
  unfold LinkController.RequestsOnly at *
  rw [h] at h'
  exact h'

theorem RunOnly.requestsOnly {c : Channel} {s t : State} (h : RunOnly c s t) (p : Port) :
    (s.link p).RequestsOnly (t.link p) := by
  unfold LinkController.RequestsOnly
  rw [h.link p]

theorem State.giveSlots_requestsOnly (s : State) (p : Port) : (s.link p).RequestsOnly ((s.giveSlots p).link p) :=
  s.giveSlotsUpTo_link_self p 8

/-- An answer given after hub requests have changed: what the statements ask of it. -/
theorem State.answer_answeredAs_of_requestsOnly {s u : State} {p : Port} {sv : Service} (h : (s.link p).service = some sv)
    (hu : (s.link p).RequestsOnly (u.link p)) (st : Status) (d : Option Half) (w : List Word) :
    AnsweredAs s (u.answer p st d w) p st d w := by
  unfold LinkController.RequestsOnly at hu
  have hservice : (u.link p).service = some sv := by
    rw [hu]
    exact h
  have hinbound : (u.link p).inbound = (s.link p).inbound := by rw [hu]
  have hresponses : (u.link p).responses = (s.link p).responses := by rw [hu]
  have hheld : (u.link p).heldCount = (s.link p).heldCount := by rw [hu]
  have htags : (u.link p).tags = (s.link p).tags := by rw [hu]
  exact ⟨sv, h, by simp [State.answer, hservice, hinbound, hresponses, hheld, htags, LinkController.answer,
    LinkController.dispatch]⟩

/-! ### Contexts and Link Controllers alone -/

/-- Of the state, only channel contexts and Link Controllers have changed. -/
def RunsAndLinksOnly (s t : State) : Prop := t = { s with channels := t.channels, links := t.links }

theorem RunsAndLinksOnly.trans {s t u : State} (h : RunsAndLinksOnly s t) (h' : RunsAndLinksOnly t u) : RunsAndLinksOnly s u := by
  unfold RunsAndLinksOnly at *
  rw [h] at h'
  exact h'

theorem RunsAndLinksOnly.setChan (s : State) (c : Channel) (ctx : ChannelContext) : RunsAndLinksOnly s (s.setChan c ctx) := rfl

theorem RunsAndLinksOnly.handHub (s : State) (r : HubRequest) : RunsAndLinksOnly s (s.handHub r) := by
  unfold RunsAndLinksOnly State.handHub
  split <;> rfl

theorem RunsAndLinksOnly.giveSlots (s : State) (p : Port) : RunsAndLinksOnly s (s.giveSlots p) := s.giveSlots_frame p

theorem RunsAndLinksOnly.answer (s : State) (p : Port) (st : Status) (d : Option Half) (w : List Word) :
    RunsAndLinksOnly s (s.answer p st d w) := by
  unfold RunsAndLinksOnly State.answer
  split <;> rfl

/-! ### Channel numbers and the checks of CHANNEL_START -/

theorem chanOf_eq_none {b : Byte} (h : 7 < b.toNat) : chanOf b = none := if_neg (by omega)

theorem chanOf_eq_some {b : Byte} {c : Channel} (h : c.val = b.toNat) : chanOf b = some c := by
  rw [chanOf, if_pos (by omega), ← h]
  exact congrArg some (Fin.ofNat_val_eq_self c)

/-- The ended states (R89). -/
theorem ChanState.ended_iff (st : ChanState) : st.ended = true ↔ st = .complete ∨ st = .faulted ∨ st = .stopped := by
  cases st <;> decide

theorem ChanState.active_iff (st : ChanState) : st.active = true ↔ st = .loading ∨ st = .running ∨ st = .stalled := by
  cases st <;> decide

theorem ChannelContext.startable_iff (ctx : ChannelContext) (p : Port) : ctx.startable p = true
    ↔ ctx.state = .idle ∨ ctx.owner = some p ∧ (ctx.state = .complete ∨ ctx.state = .faulted ∨ ctx.state = .stopped) := by
  simp only [ChannelContext.startable, Bool.or_eq_true, Bool.and_eq_true, decide_eq_true_eq, ChanState.ended_iff]

/-- Check 4 of R91. -/
theorem LockUnit.startGuard_iff (u : LockUnit) (p : Port) (g : Option Handle) :
    u.startGuard p g = true ↔ ∀ h, g = some h → GuardPasses u p h := by
  unfold LockUnit.startGuard
  cases g with
  | none => simp
  | some h => simp [LockUnit.guardHolds_iff]

/-! ### O40 -/

theorem State.handHub_link_other {s : State} {r : HubRequest} {p q : Port} (ho : (s.chan r.chan).owner = some p) (hq : q ≠ p) :
    (s.handHub r).link q = s.link q := by
  unfold State.handHub
  rw [ho]
  exact State.setLink_link_other _ _ hq

/-- The context of a run as CHANNEL_START makes it (R92). -/
def ChannelContext.loading (p : Port) (list : Word) (guard : Option Handle) : ChannelContext :=
  { ChannelContext.reset with state := .loading, owner := some p, list := some list, guard := guard }

/-- What CHANNEL_START does when its checks pass (R92). -/
theorem State.startRun_begins {s : State} {p : Port} {sv : Service} (hsv : (s.link p).service = some sv) (c : Channel)
    (list : Word) (guard : Option Handle) :
    AnsweredAs s (s.startRun p c list guard) p .ok none []
      ∧ RunsAndLinksOnly s (s.startRun p c list guard) ∧ (∀ q, q ≠ p → (s.startRun p c list guard).link q = s.link q)
      ∧ (s.startRun p c list guard).chan c = ChannelContext.loading p list guard
      ∧ HubRequestHanded (s.startRun p c list guard) p ⟨c, .first, .fetch list 16⟩
      ∧ ∀ d, d ≠ c → (s.startRun p c list guard).chan d
          = { s.chan d with chunks := ((s.startRun p c list guard).chan d).chunks } := by
  have hctx := s.setChan_chan_self c (ChannelContext.loading p list guard)
  have hframe := RunsAndLinksOnly.setChan s c (ChannelContext.loading p list guard)
  have hlinks := s.setChan_link c (ChannelContext.loading p list guard)
  have hrun := (RunOnly.setChan s c (ChannelContext.loading p list guard)).trans (.handHub _ ⟨c, .first, .fetch list 16⟩)
  have hstart : s.startRun p c list guard = (((s.setChan c (ChannelContext.loading p list guard)).handHub
    ⟨c, .first, .fetch list 16⟩).giveSlots p).answer p .ok none [] := rfl
  rw [hstart]
  generalize s.setChan c (ChannelContext.loading p list guard) = v at hctx hframe hlinks hrun
  have howner : (v.chan c).owner = some p := by
    rw [hctx]
    rfl
  refine ⟨?_, ?_, fun q hq => ?_, ?_, ?_, fun d hd => ?_⟩
  · exact State.answer_answeredAs_of_requestsOnly hsv ((hrun.requestsOnly p).trans (State.giveSlots_requestsOnly ..)) ..
  · exact ((hframe.trans (.handHub ..)).trans (.giveSlots ..)).trans (.answer ..)
  · rw [State.answer_link_other _ _ _ _ _ _ hq, State.giveSlots_link_other _ hq, State.handHub_link_other howner hq, hlinks]
  · have hnil := State.giveSlots_chunks_nil (s := v.handHub ⟨c, .first, .fetch list 16⟩) (c := c)
      (by rw [State.handHub_chan, hctx]; rfl) p
    rw [State.answer_chan, State.giveSlots_chan, hnil, State.handHub_chan, hctx]
    rfl
  · exact (HubRequestHanded.handHub_self (r := ⟨c, .first, .fetch list 16⟩) howner).giveSlots.answer ..
  · rw [State.answer_chan, State.giveSlots_chan, hrun.chan d hd]

/-- Settles O40, check by check (R91), and by what a run begins with (R92). -/
theorem channelStartBeginsARun : Obligations.ChannelStartBeginsARun := by
  intro s p b list guard hreq
  obtain ⟨sv, hsv, _⟩ := State.request_eq_some hreq
  have hexec : exec (.channelStart p) s = .next (s.channelStart p b list guard) := by
    show execChannelStart p s = _
    rw [execChannelStart, hreq]
  have hanswer : ∀ st, AnsweredOnly s (s.answer p st none []) p st none [] := fun st => State.answer_answeredOnly hsv st none []
  refine ⟨fun hb => ⟨_, hexec, ?_⟩, fun c hc => ⟨fun hbusy => ⟨_, hexec, ?_⟩, fun hstart => ⟨fun halign => ⟨_, hexec, ?_⟩,
    fun h halign hguard hstale => ⟨_, hexec, ?_⟩, fun halign hguard => ⟨_, hexec, ?_⟩⟩⟩⟩
  · rw [State.channelStart, chanOf_eq_none hb]
    exact hanswer _
  all_goals simp only [State.channelStart, chanOf_eq_some hc]
  · rw [← ChannelContext.startable_iff, Bool.not_eq_true] at hbusy
    rw [hbusy]
    exact hanswer _
  all_goals
    rw [← ChannelContext.startable_iff] at hstart
    rw [hstart]
  · rw [if_neg (by decide), if_pos halign]
    exact hanswer _
  · have hfails : s.locks.startGuard p guard = false := by
      rw [← Bool.not_eq_true, LockUnit.startGuard_iff]
      exact fun hall => hstale (hall h hguard)
    rw [if_neg (by decide), if_neg (not_not.mpr halign), hfails]
    exact hanswer _
  · rw [if_neg (by decide), if_neg (not_not.mpr halign), (LockUnit.startGuard_iff ..).mpr hguard]
    exact State.startRun_begins hsv c list guard

end Sys2Proof.Machine
end

section
/-! SUPPORT. O41: CHANNEL_STOP and CHANNEL_RELEASE (R99 to R101, R103, R104). -/

namespace Sys2Proof.Machine

/-- An action that handed no event is one action. -/
theorem State.asOneAction_of_events_same {s t : State} (h : t.events = s.events) : s.asOneAction t = t := by
  have hevents := State.asOneAction_events_of_same h
  rw [← h] at hevents
  show { t with events := (s.asOneAction t).events } = t
  rw [hevents]

theorem State.asOneAction_answer (s : State) (p : Port) (st : Status) (d : Option Half) (w : List Word) :
    s.asOneAction (s.answer p st d w) = s.answer p st d w :=
  State.asOneAction_of_events_same (State.answer_events ..)

/-! ### ENTER_ABORTING at the Link Controllers -/

theorem State.enterAborting_waiting {s : State} {c : Channel} {p : Port} (ho : (s.chan c).owner = some p) (mode : EndMode) :
    ((s.enterAborting c mode).link p).waiting[c] = [] := by
  have howner : (((s.setChan c ((s.chan c).drain mode)).setWaiting c none).chan c).owner = some p := by
    rw [State.setWaiting_chan, State.setChan_chan_self]
    exact ho
  rw [State.enterAborting_eq, State.finishAborting_link, State.withdrawn, State.withdrawHub_waiting, if_pos howner]

theorem State.enterAborting_link_other {s : State} {c : Channel} {p q : Port} (ho : (s.chan c).owner = some p) (hq : q ≠ p)
    (mode : EndMode) : (s.enterAborting c mode).link q = s.link q := by
  have howner : (((s.setChan c ((s.chan c).drain mode)).setWaiting c none).chan c).owner = some p := by
    rw [State.setWaiting_chan, State.setChan_chan_self]
    exact ho
  rw [State.enterAborting_eq, State.finishAborting_link, State.withdrawn, State.withdrawHub, howner]
  exact State.setLink_link_other _ _ hq

/-! ### CHANNEL_STOP -/

/-- A STOP of an active run (R99, R100): it drains in ABORTING, or with nothing in flight ends STOPPED in the same action. -/
theorem State.stop_active {s : State} {p : Port} {sv : Service} (hsv : (s.link p).service = some sv) {c : Channel}
    (ho : (s.chan c).owner = some p) (hnofault : (s.chan c).fault = none) {t : State}
    (ht : t = s.asOneAction ((s.enterAborting c .keep).answer p .ok none [])) :
    AnsweredAs s t p .ok none []
      ∧ EngineOnly s t ∧ t.waitingAccess c = none ∧ (t.link p).waiting[c] = [] ∧ (t.chan c).fault = none
      ∧ (t.chan c).next = none ∧ (t.chan c).stall = none ∧ (t.chan c).owner = some p
      ∧ (t.chan c).bytesMoved = (s.chan c).bytesMoved ∧ (∀ d, d ≠ c → t.chan d = s.chan d)
      ∧ (∀ q, q ≠ p → t.link q = s.link q)
      ∧ (s.inFlight c = true → (t.chan c).state = .aborting ∧ (t.chan c).endMode = some .keep
          ∧ t.events = s.events)
      ∧ (s.inFlight c = false → (t.chan c).state = .stopped ∧ (t.chan c).chunks = [] ∧ (t.chan c).current = none
          ∧ t.events = s.events ++ [[(p, .channelEnd c .stopped (s.chan c).bytesMoved)]]) := by
  have hrun := RunOnly.enterAborting s c .keep
  have hengine := EngineOnly.enterAborting s c .keep
  have hnone := s.enterAborting_waitingAccess c .keep
  have hwaiting := State.enterAborting_waiting ho .keep
  have hother : ∀ q, q ≠ p → (s.enterAborting c .keep).link q = s.link q := fun q hq => State.enterAborting_link_other ho hq .keep
  have hends := State.enterAborting_keep_events ho
  have hctx := s.enterAborting_chan c .keep
  generalize s.enterAborting c .keep = u at hrun hengine hnone hwaiting hother hends hctx ht
  have hchan : ∀ d, t.chan d = u.chan d := fun d => by
    rw [ht]
    exact State.answer_chan ..
  have hlink : ∀ q, t.link q = (u.answer p .ok none []).link q := fun q => by rw [ht]; rfl
  have hevents := State.asOneAction_events_of_joined ((u.answer_events p .ok none []).trans hends)
  rw [← ht] at hevents
  have houtcome : (s.chan c).abortOutcome = .stopped := by rw [ChannelContext.abortOutcome, hnofault]
  have hstopped : ((s.chan c).drain .keep).abortState = .stopped := by
    rw [ChannelContext.abortState]
    simp only [ChannelContext.drain, hnofault]
  have hended : ((s.chan c).drain .keep).ended
      = { (s.chan c).drain .keep with state := .stopped, current := none, position := 0, chunks := [], endMode := none } := by
    rw [ChannelContext.ended, if_neg (by simp [ChannelContext.drain]), hstopped]
  have hanswered : AnsweredAs s t p .ok none [] := by
    rw [ht]
    exact State.answer_answeredAs_of_requestsOnly hsv (hrun.requestsOnly p) ..
  have hkept : EngineOnly s t := by
    rw [ht]
    exact (hengine.trans (.answer ..)).asOneAction
  have hidle : t.waitingAccess c = none := by
    rw [ht]
    exact (State.answer_waitingAccess ..).trans hnone
  have hwithdrawn : (t.link p).waiting[c] = [] := by
    rw [hlink]
    simp only [(u.answer_slots_waiting p .ok none [] p).2, hwaiting]
  refine ⟨hanswered, hkept, hidle, hwithdrawn, ?_, ?_, ?_, ?_, ?_, fun d hd => (hchan d).trans (hrun.chan d hd), fun q hq => ?_,
    fun hf => ?_, fun hf => ?_⟩
  · rw [hchan, hctx, hended]
    split <;> exact hnofault
  · rw [hchan, hctx, hended]
    split <;> rfl
  · rw [hchan, hctx, hended]
    split <;> rfl
  · rw [hchan, hctx, hended]
    split <;> exact ho
  · rw [hchan, hctx, hended]
    split <;> rfl
  · rw [hlink, State.answer_link_other _ _ _ _ _ _ hq, hother q hq]
  · rw [hchan, hctx, if_pos hf]
    rw [if_pos hf, joined_nil] at hevents
    exact ⟨rfl, rfl, hevents⟩
  · rw [hchan, hctx, if_neg (by simp [hf]), hended]
    rw [if_neg (by simp [hf]), joined_cons, houtcome] at hevents
    exact ⟨rfl, rfl, rfl, hevents⟩

/-! ### CHANNEL_RELEASE -/

/-- A release of an ended channel (R104). -/
theorem State.release_ended {s : State} {p : Port} {sv : Service} (hsv : (s.link p).service = some sv) (c : Channel) {t : State}
    (ht : t = (s.setChan c ChannelContext.reset).answer p .ok none []) :
    AnsweredAs s t p .ok none [] ∧ DispatcherOnly s t p
      ∧ t = { s with channels := t.channels, links := t.links } ∧ t.chan c = ChannelContext.reset
      ∧ ∀ d, d ≠ c → t.chan d = s.chan d := by
  have hframe : RunsAndLinksOnly s t := by
    rw [ht]
    exact (RunsAndLinksOnly.setChan ..).trans (.answer ..)
  have hchan : ∀ d, t.chan d = (s.setChan c ChannelContext.reset).chan d := fun d => by rw [ht, State.answer_chan]
  refine ⟨?_, ?_, hframe, (hchan c).trans (State.setChan_chan_self ..), fun d hd => ?_⟩
  · rw [ht]
    exact State.answer_answeredAs (u := s.setChan c ChannelContext.reset) hsv rfl ..
  · rw [ht]
    exact State.answer_dispatcherOnly (u := s.setChan c ChannelContext.reset) (fun _ => rfl) ..
  · rw [hchan, State.setChan_chan_other _ _ hd]

/-! ### The checks of the two commands, row by row (Tables 5.8 and 5.9) -/

section
variable {s : State} {p : Port} {b : Byte} {c : Channel}

theorem State.channelStop_badChannel (hb : 7 < b.toNat) : s.channelStop p b = s.answer p .badChannel none [] := by
  rw [State.channelStop, chanOf_eq_none hb]

theorem State.channelStop_notOwner (hc : c.val = b.toNat) (ho : (s.chan c).owner ≠ some p) :
    s.channelStop p b = s.answer p .notOwner none [] := by
  rw [State.channelStop, chanOf_eq_some hc]
  exact if_pos ho

theorem State.channelStop_active (hc : c.val = b.toNat) (ho : (s.chan c).owner = some p)
    (ha : (s.chan c).state.active = true) : s.channelStop p b = (s.enterAborting c .keep).answer p .ok none [] := by
  rw [State.channelStop, chanOf_eq_some hc]
  exact (if_neg (not_not.mpr ho)).trans (if_pos ha)

theorem State.channelStop_aborting (hc : c.val = b.toNat) (ho : (s.chan c).owner = some p)
    (hs : (s.chan c).state = .aborting) : s.channelStop p b = s.answer p .ok none [] := by
  rw [State.channelStop, chanOf_eq_some hc]
  exact (if_neg (not_not.mpr ho)).trans ((if_neg (by rw [hs]; decide)).trans (if_pos hs))

theorem State.channelStop_ended (hc : c.val = b.toNat) (ho : (s.chan c).owner = some p)
    (he : (s.chan c).state.ended = true) : s.channelStop p b = s.answer p .badChannelState none [] := by
  have hactive := ChanState.not_active_of_ended he
  have haborting : ¬(s.chan c).state = .aborting := fun hs => by
    rw [hs] at he
    cases he
  rw [State.channelStop, chanOf_eq_some hc]
  exact (if_neg (not_not.mpr ho)).trans ((if_neg (by rw [hactive]; decide)).trans (if_neg haborting))

theorem State.channelRelease_badChannel (hb : 7 < b.toNat) : s.channelRelease p b = s.answer p .badChannel none [] := by
  rw [State.channelRelease, chanOf_eq_none hb]

theorem State.channelRelease_notOwner (hc : c.val = b.toNat) (ho : (s.chan c).owner ≠ some p) :
    s.channelRelease p b = s.answer p .notOwner none [] := by
  rw [State.channelRelease, chanOf_eq_some hc]
  exact if_pos ho

theorem State.channelRelease_ended (hc : c.val = b.toNat) (ho : (s.chan c).owner = some p)
    (he : (s.chan c).state.ended = true) :
    s.channelRelease p b = (s.setChan c ChannelContext.reset).answer p .ok none [] := by
  rw [State.channelRelease, chanOf_eq_some hc]
  exact (if_neg (not_not.mpr ho)).trans (if_pos he)

theorem State.channelRelease_busy (hc : c.val = b.toNat) (ho : (s.chan c).owner = some p)
    (he : ¬(s.chan c).state.ended = true) : s.channelRelease p b = s.answer p .channelBusy none [] := by
  rw [State.channelRelease, chanOf_eq_some hc]
  exact (if_neg (not_not.mpr ho)).trans (if_neg he)

end

/-! ### O41 -/

/-- Settles O41, row by row of the two commands' checks. -/
theorem channelStopAndRelease : Obligations.ChannelStopAndRelease := by
  refine ⟨fun s p b hreq => ?_, fun s p b hreq => ?_⟩ <;> obtain ⟨sv, hsv, _⟩ := State.request_eq_some hreq
  · have hexec : exec (.channelStop p) s = .next (s.asOneAction (s.channelStop p b)) := by
      show execChannelStop p s = _
      rw [execChannelStop, hreq]
    have hanswer : ∀ st, s.channelStop p b = s.answer p st none [] →
        ∃ t, exec (.channelStop p) s = .next t ∧ AnsweredOnly s t p st none [] := fun st hrow => by
      refine ⟨_, hexec, ?_⟩
      rw [hrow, State.asOneAction_answer]
      exact State.answer_answeredOnly hsv st none []
    refine ⟨fun hb => hanswer _ (State.channelStop_badChannel hb), fun c hc => ⟨fun ho => hanswer _ (State.channelStop_notOwner hc ho),
      fun ho => ⟨fun ha hnofault => ⟨_, hexec, ?_⟩, fun hs => hanswer _ (State.channelStop_aborting hc ho hs),
        fun he => hanswer _ (State.channelStop_ended hc ho ((ChanState.ended_iff _).mpr he))⟩⟩⟩
    refine State.stop_active hsv ho hnofault ?_
    rw [State.channelStop_active hc ho ((ChanState.active_iff _).mpr ha)]
  · have hexec : exec (.channelRelease p) s = .next (s.channelRelease p b) := by
      show execChannelRelease p s = _
      rw [execChannelRelease, hreq]
    have hanswer : ∀ st, s.channelRelease p b = s.answer p st none [] →
        ∃ t, exec (.channelRelease p) s = .next t ∧ AnsweredOnly s t p st none [] := fun st hrow => by
      refine ⟨_, hexec, ?_⟩
      rw [hrow]
      exact State.answer_answeredOnly hsv st none []
    refine ⟨fun hb => hanswer _ (State.channelRelease_badChannel hb), fun c hc =>
      ⟨fun ho => hanswer _ (State.channelRelease_notOwner hc ho), fun ho => ⟨fun hbusy => hanswer _ (State.channelRelease_busy hc ho ?_),
        fun he => ⟨_, hexec, State.release_ended hsv c (State.channelRelease_ended hc ho ((ChanState.ended_iff _).mpr he))⟩⟩⟩⟩
    rcases hbusy with hs | hs | hs | hs <;> rw [hs] <;> decide

end Sys2Proof.Machine
end

section
/-! SUPPORT. O48: the Channel Engine's port-down claim (R106), channel by channel. -/

namespace Sys2Proof.Machine

/-! ### One channel at its owner's port-down event (Table 5.10) -/

theorem State.chanPortDown_soft_active {s : State} {c : Channel} (ha : (s.chan c).state.active = true) :
    s.chanPortDown .soft c = s.faultRun c .portDown (s.chan c).index none := by
  unfold State.chanPortDown State.faultRun
  rcases (ChanState.active_iff _).mp ha with hs | hs | hs <;> simp only [hs]

theorem State.chanPortDown_hard_active {s : State} {c : Channel} (ha : (s.chan c).state.active = true) :
    s.chanPortDown .hard c
      = (s.setChan c ((s.chan c).record .portDown (s.chan c).index none)).enterAborting c .unbind := by
  have hrecord : s.faultWith c .unbind .portDown (s.chan c).index none
      = (s.setChan c ((s.chan c).record .portDown (s.chan c).index none)).enterAborting c .unbind := rfl
  rw [← hrecord]
  unfold State.chanPortDown
  rcases (ChanState.active_iff _).mp ha with hs | hs | hs <;> simp only [hs]

/-- The phases of a run (R89). -/
theorem ChanState.phase (st : ChanState) : st = .idle ∨ st.active = true ∨ st = .aborting ∨ st.ended = true := by
  cases st <;> decide

theorem State.chanPortDown_idle {s : State} {c : Channel} (hs : (s.chan c).state = .idle) (loss : Loss) :
    s.chanPortDown loss c = s := by
  unfold State.chanPortDown
  cases loss <;> simp [hs]

theorem State.chanPortDown_soft_inactive {s : State} {c : Channel} (ha : (s.chan c).state.active = false) :
    s.chanPortDown .soft c = s := by
  rcases (s.chan c).state.phase with hs | hs | hs | he
  · exact State.chanPortDown_idle hs _
  · rw [ha] at hs
    cases hs
  · simp only [State.chanPortDown, hs]
  · unfold State.chanPortDown
    rcases (ChanState.ended_iff _).mp he with hs | hs | hs <;> simp only [hs]

theorem State.chanPortDown_hard_aborting {s : State} {c : Channel} (hs : (s.chan c).state = .aborting) :
    s.chanPortDown .hard c = (s.setChan c { s.chan c with endMode := some .unbind }).finishAborting c := by
  unfold State.chanPortDown
  simp [hs]

theorem State.chanPortDown_hard_ended {s : State} {c : Channel} (he : (s.chan c).state.ended = true) :
    s.chanPortDown .hard c = s.setChan c ChannelContext.reset := by
  unfold State.chanPortDown
  rcases (ChanState.ended_iff _).mp he with hs | hs | hs <;> simp only [hs]

/-! ### Channel by channel -/

/-- Channel c is as it was: its context, its waiting access, and whether anything of it is in flight. -/
structure RunAsBefore (c : Channel) (s t : State) : Prop where
  chan : t.chan c = s.chan c
  waitingAccess : t.waitingAccess c = s.waitingAccess c
  inFlight : t.inFlight c = s.inFlight c

theorem RunAsBefore.refl (c : Channel) (s : State) : RunAsBefore c s s := ⟨rfl, rfl, rfl⟩

theorem RunAsBefore.trans {c : Channel} {s t u : State} (h : RunAsBefore c s t) (h' : RunAsBefore c t u) :
    RunAsBefore c s u :=
  ⟨h'.chan.trans h.chan, h'.waitingAccess.trans h.waitingAccess, h'.inFlight.trans h.inFlight⟩

theorem RunOnly.runAsBefore {c d : Channel} {s t : State} (h : RunOnly d s t) (hc : c ≠ d) : RunAsBefore c s t :=
  ⟨h.chan c hc, h.waitingAccess_other hc, h.inFlight (by rw [h.chan c hc])⟩

theorem RunAsBefore.chansPortDown {c : Channel} {loss : Loss} {l : List Channel} (hc : c ∉ l) (s : State) :
    RunAsBefore c s (l.foldl (fun t d => t.chanPortDown loss d) s) := by
  induction l generalizing s with
  | nil => exact .refl c s
  | cons d rest ih =>
    rw [List.mem_cons, not_or] at hc
    exact ((RunOnly.chanPortDown s loss d).runAsBefore hc.1).trans (ih hc.2 _)

/-! ### The events handed -/

theorem State.hand_events_prefix (s : State) (l : List Handed) : s.events <+: (s.hand l).events := by
  rw [State.hand_events]
  split
  · exact List.prefix_refl _
  · exact List.prefix_append ..

theorem State.finishAborting_events_prefix (s : State) (c : Channel) : s.events <+: (s.finishAborting c).events := by
  unfold State.finishAborting
  split
  · split
    · exact List.prefix_refl _
    · unfold State.handOwner
      split
      · exact State.hand_events_prefix (s.setChan c _) _
      · exact List.prefix_refl _
  · exact List.prefix_refl _

theorem State.faultWith_events_prefix (s : State) (c : Channel) (m : EndMode) (code : FaultCode) (i : Nat) (a : Option Nat) :
    s.events <+: (s.faultWith c m code i a).events := by
  have hends := State.finishAborting_events_prefix
    ((s.setChan c { s.chan c with fault := some ⟨code, i, a⟩, index := i }).withdrawn c m) c
  rw [State.withdrawn_events] at hends
  rw [State.faultWith, State.enterAborting_eq]
  exact hends

/-- What a channel hands at a soft loss joins what waits. -/
theorem State.chanPortDown_soft_events (s : State) (c : Channel) : s.events <+: (s.chanPortDown .soft c).events := by
  cases ha : (s.chan c).state.active with
  | true =>
    rw [State.chanPortDown_soft_active ha]
    exact s.faultWith_events_prefix ..
  | false =>
    rw [State.chanPortDown_soft_inactive ha]

/-- Nobody is told of a run that a hard loss ends (R106). -/
theorem State.chanPortDown_hard_events (s : State) (c : Channel) : (s.chanPortDown .hard c).events = s.events := by
  rcases (s.chan c).state.phase with hs | ha | hs | he
  · rw [State.chanPortDown_idle hs]
  · rw [State.chanPortDown_hard_active ha, State.enterAborting_unbind_events, State.setChan_events]
  · rw [State.chanPortDown_hard_aborting hs, State.finishAborting]
    split
    · simp
    · rfl
  · rw [State.chanPortDown_hard_ended he, State.setChan_events]

theorem State.chansPortDown_soft_events (l : List Channel) (s : State) :
    s.events <+: (l.foldl (fun t d => t.chanPortDown .soft d) s).events := by
  induction l generalizing s with
  | nil => exact List.prefix_refl _
  | cons d rest ih => exact (s.chanPortDown_soft_events d).trans (ih _)

theorem State.chansPortDown_hard_events (l : List Channel) (s : State) :
    (l.foldl (fun t d => t.chanPortDown .hard d) s).events = s.events := by
  induction l generalizing s with
  | nil => rfl
  | cons d rest ih => exact (ih _).trans (s.chanPortDown_hard_events d)

/-- An event among those that an action handed is in its one list (R137). -/
theorem State.asOneAction_hands {s t : State} {new : List (List Handed)} {e : Handed} (h : t.events = s.events ++ new)
    (he : e ∈ new.flatten) : ∃ batch, (s.asOneAction t).events = s.events ++ [batch] ∧ e ∈ batch := by
  refine ⟨new.flatten, ?_, he⟩
  rw [State.asOneAction_events, h, List.drop_left, joined, if_neg (List.ne_nil_of_mem he)]

/-! ### The claim taken -/

theorem State.chansPortDown_claimsOf (s : State) (p : Port) (loss : Loss) (q : Port) :
    (s.chansPortDown p loss).claimsOf q = s.claimsOf q := by
  unfold State.chansPortDown
  generalize s.boundTo p = l
  induction l generalizing s with
  | nil => rfl
  | cons d rest ih => exact (ih _).trans ((RunOnly.chanPortDown s loss d).claimsOf q)

/-- Each channel of a port takes the event once, in a state in which it is as before the claim; after it, it stays as it is. -/
theorem State.chansPortDown_at {s : State} {p : Port} {c : Channel} (ho : (s.chan c).owner = some p) (loss : Loss) :
    ∃ v : State, RunAsBefore c s v ∧ RunAsBefore c (v.chanPortDown loss c) (s.chansPortDown p loss)
      ∧ (loss = .soft → s.events <+: v.events
        ∧ (v.chanPortDown loss c).events <+: (s.chansPortDown p loss).events) := by
  have hnodup : (s.boundTo p).Nodup := List.Nodup.filter _ (by decide)
  obtain ⟨front, back, hsplit⟩ := List.append_of_mem ((State.mem_boundTo s p c).mpr ho)
  rw [hsplit] at hnodup
  obtain ⟨_, hback, hfront⟩ := List.nodup_append.mp hnodup
  have hfrontc : c ∉ front := fun hm => hfront c hm c List.mem_cons_self rfl
  have hbackc : c ∉ back := (List.nodup_cons.mp hback).1
  refine ⟨front.foldl (fun t d => t.chanPortDown loss d) s, .chansPortDown hfrontc s, ?_, fun hsoft => ?_⟩
  · rw [State.chansPortDown, hsplit, List.foldl_append, List.foldl_cons]
    exact .chansPortDown hbackc _
  · subst hsoft
    rw [State.chansPortDown, hsplit, List.foldl_append, List.foldl_cons]
    exact ⟨State.chansPortDown_soft_events .., State.chansPortDown_soft_events ..⟩

/-- A channel of another port is not concerned. -/
theorem State.chansPortDown_other {s : State} {p : Port} {c : Channel} (ho : (s.chan c).owner ≠ some p) (loss : Loss) :
    RunAsBefore c s (s.chansPortDown p loss) :=
  .chansPortDown (fun hm => ho ((State.mem_boundTo s p c).mp hm)) s

/-- A fault taken, seen from a state with the same run before it and one with the same run after it. -/
theorem FaultTaken.of_same {s v w t : State} {c : Channel} {code : FaultCode} {i : Nat} {a : Option Nat}
    (h : FaultTaken v w c code i a) (hv : RunAsBefore c s v) (ht : RunAsBefore c w t) : FaultTaken s t c code i a := by
  unfold FaultTaken at h ⊢
  rw [ht.chan, ht.waitingAccess, ← hv.chan]
  exact h

/-- A run that was active when its port went down softly has faulted with PORT_DOWN (R106). -/
theorem State.softLoss_active {u : State} {p : Port} {c : Channel} (ho : (u.chan c).owner = some p)
    (ha : (u.chan c).state.active = true) {t : State} (ht : t = u.asOneAction (u.chansPortDown p .soft)) :
    FaultTaken u t c .portDown (u.chan c).index none
      ∧ (u.inFlight c = true → (t.chan c).state = .aborting)
      ∧ (u.inFlight c = false → (t.chan c).state = .faulted ∧ ∃ batch, t.events = u.events ++ [batch]
          ∧ (p, .channelEnd c (.faulted .portDown) (u.chan c).bytesMoved) ∈ batch) := by
  obtain ⟨v, hv, hafter, hevents⟩ := State.chansPortDown_at ho .soft
  obtain ⟨⟨earlier, hearlier⟩, ⟨later, hlater⟩⟩ := hevents rfl
  have hruns := State.faultRun_faultsRun (s := v) (c := c) (p := p) (by rw [hv.chan]; exact ho) .portDown (v.chan c).index none
  rw [← State.chanPortDown_soft_active (by rw [hv.chan]; exact ha)] at hruns
  have hsame : RunAsBefore c (v.chanPortDown .soft c) t := by
    rw [ht]
    exact ⟨hafter.chan, hafter.waitingAccess, hafter.inFlight⟩
  obtain ⟨htaken, _, hdrains, hends⟩ := hruns
  rw [hv.inFlight] at hdrains hends
  rw [hv.chan] at htaken hends
  refine ⟨htaken.of_same hv hsame, fun hf => ?_, fun hf => ?_⟩
  · rw [hsame.chan]
    exact (hdrains hf).1
  · obtain ⟨hfaulted, _, hend⟩ := hends hf
    rw [hsame.chan]
    refine ⟨hfaulted, ?_⟩
    rw [ht]
    refine State.asOneAction_hands (new := earlier
      ++ [[] ++ [(p, .channelEnd c (.faulted .portDown) (u.chan c).bytesMoved)]] ++ later) ?_ (by simp)
    rw [← hlater, hend, ← hearlier]
    simp

/-! ### A hard loss -/

theorem State.chanPortDown_hard_active_chan {s : State} {c : Channel} (ha : (s.chan c).state.active = true) :
    (s.chanPortDown .hard c).chan c
      = if s.inFlight c = true then ((s.chan c).record .portDown (s.chan c).index none).drain .unbind
        else ChannelContext.reset := by
  have hflight : (s.setChan c ((s.chan c).record .portDown (s.chan c).index none)).inFlight c = s.inFlight c :=
    (RunOnly.setChan ..).inFlight (by rw [State.setChan_chan_self]; rfl)
  rw [State.chanPortDown_hard_active ha, State.enterAborting_chan, hflight, State.setChan_chan_self]
  rfl

theorem State.chanPortDown_hard_aborting_chan {s : State} {c : Channel} (hs : (s.chan c).state = .aborting)
    (hw : s.waitingAccess c = none) :
    (s.chanPortDown .hard c).chan c
      = if s.inFlight c = true then { s.chan c with endMode := some .unbind } else ChannelContext.reset := by
  have hflight : (s.setChan c { s.chan c with endMode := some .unbind }).inFlight c = s.inFlight c :=
    (RunOnly.setChan ..).inFlight (by rw [State.setChan_chan_self])
  have hchan := s.setChan_chan_self c { s.chan c with endMode := some .unbind }
  rw [State.chanPortDown_hard_aborting hs]
  cases hf : s.inFlight c with
  | true =>
    rw [State.finishAborting_of_inFlight (hflight.trans hf), hchan]
    rfl
  | false =>
    rw [State.finishAborting_unbind (by rw [hchan]; exact hs) (hflight.trans hf) hw (by rw [hchan]), State.setChan_chan_self]
    rfl

theorem State.chanPortDown_hard_ended_chan {s : State} {c : Channel} (he : (s.chan c).state.ended = true) :
    (s.chanPortDown .hard c).chan c = ChannelContext.reset := by
  rw [State.chanPortDown_hard_ended he, State.setChan_chan_self]

/-- Nothing of a run that was active waits at the arbiter after the event (R100). -/
theorem State.chanPortDown_active_waitingAccess {s : State} {c : Channel} (ha : (s.chan c).state.active = true) (loss : Loss) :
    (s.chanPortDown loss c).waitingAccess c = none := by
  cases loss with
  | soft =>
    rw [State.chanPortDown_soft_active ha]
    exact State.enterAborting_waitingAccess ..
  | hard =>
    rw [State.chanPortDown_hard_active ha]
    exact State.enterAborting_waitingAccess ..

/-! ### O48 -/

/-- The port-down claim at the front of a Link Controller's list, taken. -/
theorem exec_channelPortDown {s : State} {p : Port} {loss : Loss} {rest : List ChannelClaim}
    (h : s.claimsOf p = .portDown loss :: rest) :
    exec (.channelPortDown p) s
      = .next ((s.setClaims p rest).asOneAction ((s.setClaims p rest).chansPortDown p loss)) := by
  show execChannelPortDown p s = _
  rw [execChannelPortDown, h]
  refine (if_pos rfl).trans (congrArg Host.Outcome.next ?_)
  rw [State.takeClaim, h]
  rfl

/-- Settles O48, for each channel by the state it takes the event in, the others' turns leaving its run as it is. -/
theorem channelPortDownByState : Obligations.ChannelPortDownByState := by
  intro s u p loss rest hclaims hu
  have hexec := exec_channelPortDown hclaims
  have hclaimsOf : u.claimsOf p = rest := by
    rw [hu]
    exact State.setClaims_claimsOf_self ..
  have hchan : ∀ c, s.chan c = u.chan c := fun c => by rw [hu, State.setClaims_chan]
  have hwait : ∀ c, s.waitingAccess c = u.waitingAccess c := fun c => by rw [hu, State.setClaims_waitingAccess]
  have hevents : s.events = u.events := by rw [hu, State.setClaims_events]
  rw [← hu] at hexec
  refine ⟨_, hexec, (EngineOnly.chansPortDown ..).asOneAction, ?_, fun hloss => ?_, fun c ho => ?_, fun c ho => ?_⟩
  · rw [← hclaimsOf]
    exact State.chansPortDown_claimsOf ..
  · subst hloss
    rw [hevents]
    exact State.asOneAction_events_of_same (State.chansPortDown_hard_events ..)
  · rw [hchan, hwait]
    rw [hchan] at ho
    have hsame := State.chansPortDown_other ho loss
    exact ⟨hsame.chan, hsame.waitingAccess⟩
  · rw [hchan] at ho ⊢
    rw [hwait, hevents]
    obtain ⟨v, hv, hafter, _⟩ := State.chansPortDown_at ho loss
    have hctx : ∀ ctx, (v.chanPortDown loss c).chan c = ctx → (u.chansPortDown p loss).chan c = ctx := fun _ =>
      hafter.chan.trans
    refine ⟨fun ha => ⟨?_, fun hsoft => ?_, fun hhard hf => hctx _ ?_, fun hhard hf => ?_⟩, fun hs hnone =>
      ⟨fun hsoft => hctx _ ?_, fun hhard hf => hctx _ ?_, fun hhard hf => hctx _ ?_⟩,
      fun he => ⟨fun hsoft => hctx _ ?_, fun hhard => hctx _ ?_⟩⟩
    · exact hafter.waitingAccess.trans (State.chanPortDown_active_waitingAccess (by rw [hv.chan]; exact ha) loss)
    · subst hsoft
      exact State.softLoss_active ho ha rfl
    · subst hhard
      rw [State.chanPortDown_hard_active_chan (by rw [hv.chan]; exact ha), hv.inFlight, hf]
      rfl
    · subst hhard
      have hdrains := State.chanPortDown_hard_active_chan (s := v) (c := c) (by rw [hv.chan]; exact ha)
      rw [hv.inFlight, hf, if_pos rfl, hv.chan] at hdrains
      have hfinal : (u.asOneAction (u.chansPortDown p .hard)).chan c = _ := hctx _ hdrains
      rw [hfinal]
      exact ⟨rfl, rfl, rfl⟩
    · subst hsoft
      rw [State.chanPortDown_soft_inactive (by rw [hv.chan, hs]; rfl), hv.chan]
    · subst hhard
      rw [State.chanPortDown_hard_aborting_chan (by rw [hv.chan]; exact hs) (hv.waitingAccess.trans hnone), hv.inFlight, hf,
        if_pos rfl, hv.chan]
    · subst hhard
      rw [State.chanPortDown_hard_aborting_chan (by rw [hv.chan]; exact hs) (hv.waitingAccess.trans hnone), hv.inFlight, hf]
      rfl
    · subst hsoft
      rw [State.chanPortDown_soft_inactive (by rw [hv.chan]; exact ChanState.not_active_of_ended he), hv.chan]
    · subst hhard
      exact State.chanPortDown_hard_ended_chan (by rw [hv.chan]; exact he)

end Sys2Proof.Machine
end

section
/-! SUPPORT. How data begins to move in a descriptor (R94 to R96, R111 to R114): what the movement hands to the Link Controller and
presents at the arbiter, and a descriptor that becomes current. -/

namespace Sys2Proof.Machine

/-! ### Nothing handed is taken back -/

/-- No event is handed, and every hub request handed at port p stays handed. -/
structure KeepsHanded (p : Port) (s t : State) : Prop where
  events : t.events = s.events
  handed : ∀ r, HubRequestHanded s p r → HubRequestHanded t p r

theorem KeepsHanded.refl (p : Port) (s : State) : KeepsHanded p s s := ⟨rfl, fun _ => id⟩

theorem KeepsHanded.trans {p : Port} {s t u : State} (h : KeepsHanded p s t) (h' : KeepsHanded p t u) : KeepsHanded p s u :=
  ⟨h'.events.trans h.events, fun r hr => h'.handed r (h.handed r hr)⟩

theorem KeepsHanded.setChan (p : Port) (s : State) (c : Channel) (ctx : ChannelContext) : KeepsHanded p s (s.setChan c ctx) :=
  ⟨rfl, fun _ => id⟩

theorem KeepsHanded.setWaiting (p : Port) (s : State) (c : Channel) (a : Option ChannelAccess) :
    KeepsHanded p s (s.setWaiting c a) := ⟨rfl, fun _ => id⟩

theorem KeepsHanded.handHub (p : Port) (s : State) (r : HubRequest) : KeepsHanded p s (s.handHub r) := by
  refine ⟨?_, fun q hq => hq.handHub r⟩
  unfold State.handHub
  split <;> rfl

theorem KeepsHanded.giveSlots (p : Port) (s : State) : KeepsHanded p s (s.giveSlots p) :=
  ⟨s.giveSlots_events p, fun _ hr => hr.giveSlots⟩

theorem KeepsHanded.createFetch (p : Port) (s : State) (c : Channel) (d : Descriptor) : KeepsHanded p s (s.createFetch c d) :=
  (KeepsHanded.setChan ..).trans (.handHub ..)

theorem KeepsHanded.createFetches (p : Port) (s : State) (c : Channel) (d : Descriptor) (n : Nat) :
    KeepsHanded p s (s.createFetches c d n) := by
  induction n generalizing s with
  | zero => exact .refl p s
  | succ n ih =>
    unfold State.createFetches
    split
    · exact (KeepsHanded.createFetch ..).trans (ih _)
    · exact .refl p s

theorem KeepsHanded.presentFirst (p : Port) (s : State) (c : Channel) : KeepsHanded p s (s.presentFirst c) := by
  unfold State.presentFirst
  split
  · split
    · exact (KeepsHanded.setChan ..).trans (.setWaiting ..)
    · exact .refl p s
  · exact .refl p s

theorem KeepsHanded.createRead (p : Port) (s : State) (c : Channel) (d : Descriptor)
    (f : Option Handle → Chunk → ChannelAccess) : KeepsHanded p s (s.createRead c d f) :=
  (KeepsHanded.setChan ..).trans (.setWaiting ..)

theorem KeepsHanded.presentNext (p : Port) (s : State) (c : Channel) (d : Descriptor) :
    KeepsHanded p s (s.presentNext c d) := by
  unfold State.presentNext
  split
  · exact .presentFirst ..
  · split
    · exact .createRead ..
    · exact .refl p s
  · split
    · exact .createRead ..
    · exact .presentFirst ..
  · split
    · exact (KeepsHanded.setChan ..).trans (.presentFirst ..)
    · exact .presentFirst ..

theorem KeepsHanded.createChunks (p : Port) (s : State) (c : Channel) (d : Descriptor) :
    KeepsHanded p s (s.createChunks c d) := by
  unfold State.createChunks
  split
  · split
    · exact .createFetches ..
    · exact .refl p s
  all_goals exact .refl p s

theorem KeepsHanded.work (p : Port) (s : State) (c : Channel) : KeepsHanded p s (s.work c) := by
  unfold State.work
  split
  · exact .refl p s
  · dsimp only
    split
    · exact (KeepsHanded.createChunks ..).trans (.presentNext ..)
    · exact .createChunks ..

theorem KeepsHanded.handLookahead (p : Port) (s : State) (c : Channel) : KeepsHanded p s (s.handLookahead c) :=
  (KeepsHanded.setChan ..).trans (.handHub ..)

/-! ### Chunks and their FETCHes (R113) -/

@[simp] theorem State.createFetch_waitingAccess (s : State) (c : Channel) (d : Descriptor) :
    (s.createFetch c d).waitingAccess c = s.waitingAccess c := by
  simp [State.createFetch]

@[simp] theorem State.createFetches_waitingAccess (s : State) (c : Channel) (d : Descriptor) (n : Nat) :
    (s.createFetches c d n).waitingAccess c = s.waitingAccess c := by
  induction n generalizing s with
  | zero => rfl
  | succ n ih =>
    unfold State.createFetches
    split
    · rw [ih, State.createFetch_waitingAccess]
    · rfl

theorem State.createChunks_waitingAccess (s : State) (c : Channel) (d : Descriptor) :
    (s.createChunks c d).waitingAccess c = s.waitingAccess c := by
  unfold State.createChunks
  split
  · split
    · exact State.createFetches_waitingAccess ..
    · rfl
  all_goals rfl

/-- Of TO_STORE, a new chunk is REQUESTED (step 1 of R117). -/
theorem nextChunk_toStore {d : Descriptor} (hk : d.kind = .toStore) (pos : Nat) :
    nextChunk d pos = ⟨d.store + pos, d.far + BitVec.ofNat 32 pos, lengthAt d pos, [], .requested⟩ := by
  rw [nextChunk, ← chunkLen_eq_lengthAt]
  simp [hk, chunkFar]

/-- A new chunk's FETCH is handed to the channel's port. -/
theorem State.createFetch_handed {s : State} {c : Channel} {p : Port} {d : Descriptor} (ho : (s.chan c).owner = some p) :
    HubRequestHanded (s.createFetch c d) p
      ⟨c, .chunk (nextChunk d (s.chan c).position).store,
        .fetch (nextChunk d (s.chan c).position).far (nextChunk d (s.chan c).position).len⟩ := by
  refine HubRequestHanded.handHub_self (r := ⟨c, _, _⟩) ?_
  rw [State.setChan_chan_self]
  exact ho

/-- Every chunk of the list is REQUESTED, its FETCH handed to port p (R117). -/
def State.Fetching (s : State) (c : Channel) (p : Port) : Prop :=
  ∀ k ∈ (s.chan c).chunks, k.state = .requested ∧ HubRequestHanded s p ⟨c, .chunk k.store, .fetch k.far k.len⟩

theorem State.Fetching.createFetches {s : State} {c : Channel} {p : Port} {d : Descriptor} (h : s.Fetching c p)
    (ho : (s.chan c).owner = some p) (hk : d.kind = .toStore) (n : Nat) : (s.createFetches c d n).Fetching c p := by
  induction n generalizing s with
  | zero => exact h
  | succ n ih =>
    unfold State.createFetches
    split
    · refine ih (fun k hmem => ?_) ?_
      · rw [State.createFetch_chan] at hmem
        rcases List.mem_append.mp hmem with hold | hnew
        · exact ⟨(h k hold).1, (KeepsHanded.createFetch ..).handed _ (h k hold).2⟩
        · rw [List.mem_singleton.mp hnew]
          exact ⟨by rw [nextChunk_toStore hk], State.createFetch_handed ho⟩
      · rw [State.createFetch_chan]
        exact ho
    · exact h

/-- TO_STORE's new chunks join the end of the list, all REQUESTED. -/
theorem State.createFetches_chunks (s : State) (c : Channel) {d : Descriptor} (hk : d.kind = .toStore) (n : Nat) :
    ∃ new, ((s.createFetches c d n).chan c).chunks = (s.chan c).chunks ++ new ∧ ∀ k ∈ new, k.state = .requested := by
  induction n generalizing s with
  | zero => exact ⟨[], (List.append_nil _).symm, nofun⟩
  | succ n ih =>
    unfold State.createFetches
    split
    · obtain ⟨new, hnew, hall⟩ := ih (s.createFetch c d)
      refine ⟨nextChunk d (s.chan c).position :: new, ?_, ?_⟩
      · rw [hnew, State.createFetch_chan, ChannelContext.addChunk]
        simp
      · rw [List.forall_mem_cons]
        exact ⟨by rw [nextChunk_toStore hk], hall⟩
    · exact ⟨[], (List.append_nil _).symm, nofun⟩

/-! ### What is presented (R114) -/

theorem RunOnly.accessPresented {c : Channel} {s t : State} (h : RunOnly c s t) (hw : t.waitingAccess c = s.waitingAccess c) :
    t.accessPresented c = s.accessPresented c := by
  simp only [State.accessPresented, State.accessGranted, State.grantedTo, hw, h.inProgress, h.outcomeOf]

theorem State.waitingAccess_of_not_presented {s : State} {c : Channel} (h : s.accessPresented c = false) :
    s.waitingAccess c = none := by
  simp only [State.accessPresented, Bool.or_eq_false_iff, Option.isSome_eq_false_iff, Option.isNone_iff_eq_none] at h
  exact h.1

/-- TO_STORE presents its first chunk's write, whatever the position. -/
theorem accessToPresent_toStore {d : Descriptor} (hk : d.kind = .toStore) (pos : Nat) (chunks : List Chunk)
    (g : Option Handle) : accessToPresent d pos chunks g
      = chunks.head?.bind fun k => if k.state = .dataHeld then some (writeAccess g k) else none := by
  unfold accessToPresent
  cases chunks with
  | nil => simp [hk]
  | cons k rest => simp [hk, writeAccess]

/-- A first chunk whose data has not come presents nothing. -/
theorem State.presentFirst_of_requested {s : State} {c : Channel} (h : ∀ k ∈ (s.chan c).chunks, k.state = .requested) :
    s.presentFirst c = s := by
  unfold State.presentFirst
  split
  · next k rest hchunks =>
    have hreq := h k (by rw [hchunks]; exact List.mem_cons_self)
    exact if_neg (by rw [hreq]; decide)
  · rfl

/-- The movement of a RUNNING channel with no access presented: it creates what chunks it may, and presents the next access. -/
theorem State.work_running {s : State} {c : Channel} {d : Descriptor} (hs : (s.chan c).state = .running)
    (hd : (s.chan c).current = some d) (hfree : s.accessPresented c = false) :
    s.work c = (s.createChunks c d).presentNext c d := by
  have hstate : ((s.createChunks c d).chan c).state = .running := by
    rw [(State.createChunks_dataOnly s c d).state]
    exact hs
  have hnone : (s.createChunks c d).accessPresented c = false := by
    rw [(RunOnly.createChunks s c d).accessPresented (State.createChunks_waitingAccess ..)]
    exact hfree
  rw [State.work, hd]
  exact if_pos ⟨hstate, by rw [hnone]; decide⟩

/-- With no chunk whose data has come, TO_STORE creates chunks and presents nothing. -/
theorem State.work_fetching {s : State} {c : Channel} {p : Port} {d : Descriptor} (hs : (s.chan c).state = .running)
    (hd : (s.chan c).current = some d) (hk : d.kind = .toStore) (ho : (s.chan c).owner = some p) (h : s.Fetching c p) :
    s.work c = s.createFetches c d 4 := by
  have hcreate : s.createChunks c d = s.createFetches c d 4 := by
    rw [State.createChunks, hk]
    exact if_pos (.inl hs)
  have hpresent : (s.createFetches c d 4).presentNext c d = s.createFetches c d 4 := by
    rw [State.presentNext, hk]
    exact State.presentFirst_of_requested fun k hmem => (h.createFetches ho hk 4 k hmem).1
  rw [State.work, hd]
  show (if ((s.createChunks c d).chan c).state = .running ∧ ¬(s.createChunks c d).accessPresented c = true
    then (s.createChunks c d).presentNext c d else s.createChunks c d) = _
  rw [hcreate, hpresent, ite_self]

/-- A RUNNING channel with no access presented moves on (R113, R114). -/
theorem State.work_movesOn {s : State} {c : Channel} {p : Port} {d : Descriptor} (hs : (s.chan c).state = .running)
    (hd : (s.chan c).current = some d) (ho : (s.chan c).owner = some p) (hfree : s.accessPresented c = false) :
    MovesOn (s.work c) c p d (s.chan c).position (s.chan c).chunks (s.chan c).guard := by
  have hnone := State.waitingAccess_of_not_presented hfree
  have hguard : ((s.createChunks c d).chan c).guard = (s.chan c).guard := by rw [State.createChunks_dataOnly s c d]
  rw [State.work_running hs hd hfree]
  refine ⟨?_, fun hk hlen hpos => (KeepsHanded.presentNext ..).handed _ ?_⟩
  · rw [State.presentNext_waitingAccess _ _ _ ((State.createChunks_waitingAccess ..).trans hnone), hguard]
    by_cases hk : d.kind = .toStore
    · have hcreate : s.createChunks c d = s.createFetches c d 4 := by
        rw [State.createChunks, hk]
        exact if_pos (.inl hs)
      obtain ⟨new, hnew, hall⟩ := s.createFetches_chunks c hk 4
      rw [accessToPresent_toStore hk, accessToPresent_toStore hk, hcreate, hnew]
      cases (s.chan c).chunks with
      | cons k rest => rfl
      | nil =>
        cases new with
        | nil => rfl
        | cons k rest => simp [hall k List.mem_cons_self]
    · have hcreate : s.createChunks c d = s := by
        unfold State.createChunks
        split
        · next hto => exact absurd hto hk
        all_goals rfl
      rw [hcreate]
  · have hcreate : s.createChunks c d = (s.createFetch c d).createFetches c d 3 := by
      rw [State.createChunks, hk]
      exact (if_pos (.inl hs)).trans (if_pos ⟨hlen, hpos⟩)
    have hhanded := State.createFetch_handed (d := d) ho
    rw [nextChunk_toStore hk] at hhanded
    rw [hcreate]
    exact (KeepsHanded.createFetches ..).handed _ hhanded

end Sys2Proof.Machine
end

section
/-! SUPPORT. O42: a descriptor becomes current, the next-descriptor field decides, and the replies to a descriptor's FETCH (R93 to R96). -/

namespace Sys2Proof.Machine

/-! ### A descriptor's data begins to move -/

/-- From s, where channel c of port p has descriptor d at position 0, to t its data has begun to move: the next access is presented unless
one was, and TO_STORE with an empty list has handed the FETCH of each of its chunks. -/
structure DataBegun (s t : State) (c : Channel) (p : Port) (d : Descriptor) : Prop where
  moves : s.accessPresented c = false → MovesOn t c p d 0 (s.chan c).chunks (s.chan c).guard
  fetches : d.kind = .toStore → (s.chan c).chunks = [] → t.waitingAccess c = s.waitingAccess c
    ∧ (0 < d.count → (t.chan c).chunks ≠ [])
    ∧ ∀ k ∈ (t.chan c).chunks, HubRequestHanded t p ⟨c, .chunk k.store, .fetch k.far k.len⟩

/-- It has begun from any state with the same list, guard and accesses. -/
theorem DataBegun.of_same {s u t : State} {c : Channel} {p : Port} {d : Descriptor} (h : DataBegun u t c p d)
    (hr : RunOnly c s u) (hw : u.waitingAccess c = s.waitingAccess c) (hk : (u.chan c).chunks = (s.chan c).chunks)
    (hg : (u.chan c).guard = (s.chan c).guard) : DataBegun s t c p d := by
  refine ⟨fun hf => ?_, fun hd hnil => ?_⟩
  · rw [← hk, ← hg]
    exact h.moves ((hr.accessPresented hw).trans hf)
  · rw [← hw]
    exact h.fetches hd (hk.trans hnil)

/-- It stays begun where nothing handed or presented is taken back and every chunk keeps its place. -/
theorem DataBegun.kept {s t v : State} {c : Channel} {p : Port} {d : Descriptor} (h : DataBegun s t c p d)
    (hk : KeepsHanded p t v) (hw : v.waitingAccess c = t.waitingAccess c)
    (hplaces : (v.chan c).chunks.map Chunk.place = (t.chan c).chunks.map Chunk.place) : DataBegun s v c p d := by
  refine ⟨fun hf => ?_, fun hd hnil => ?_⟩
  · obtain ⟨haccess, hfetch⟩ := h.moves hf
    exact ⟨hw.trans haccess, fun hkind hlen hpos => hk.handed _ (hfetch hkind hlen hpos)⟩
  · obtain ⟨hwait, hsome, hall⟩ := h.fetches hd hnil
    refine ⟨hw.trans hwait, fun hcount hempty => hsome hcount ?_, fun k hmem => ?_⟩
    · rw [hempty] at hplaces
      exact List.map_eq_nil_iff.mp hplaces.symm
    · have hplace : k.place ∈ (t.chan c).chunks.map Chunk.place := by
        rw [← hplaces]
        exact List.mem_map_of_mem hmem
      obtain ⟨j, hj, hsame⟩ := List.mem_map.mp hplace
      simp only [Chunk.place, Prod.mk.injEq] at hsame
      obtain ⟨hstore, hfar, hlen⟩ := hsame
      rw [← hstore, ← hfar, ← hlen]
      exact hk.handed _ (hall j hj)

theorem State.work_dataBegun {s : State} {c : Channel} {p : Port} {d : Descriptor} (hs : (s.chan c).state = .running)
    (hd : (s.chan c).current = some d) (ho : (s.chan c).owner = some p) (hpos : (s.chan c).position = 0) :
    DataBegun s (s.work c) c p d := by
  refine ⟨fun hf => ?_, fun hk hnil => ?_⟩
  · have hmoves := State.work_movesOn hs hd ho hf
    rw [hpos] at hmoves
    exact hmoves
  · have hfetching : s.Fetching c p := fun k hmem => by
      rw [hnil] at hmem
      cases hmem
    rw [State.work_fetching hs hd hk ho hfetching]
    refine ⟨State.createFetches_waitingAccess .., fun hcount => ?_, fun k hmem => (hfetching.createFetches ho hk 4 k hmem).2⟩
    have hfirst : s.createFetches c d 4 = (s.createFetch c d).createFetches c d 3 :=
      if_pos ⟨by rw [hnil]; decide, by rw [hpos]; exact hcount⟩
    obtain ⟨new, hnew, _⟩ := (s.createFetch c d).createFetches_chunks c hk 3
    rw [hfirst, hnew, State.createFetch_chan, ChannelContext.addChunk]
    simp

/-! ### A descriptor becomes current (R94 to R96) -/

theorem State.handLookahead_handed {s : State} {c : Channel} {p : Port} (ho : (s.chan c).owner = some p) :
    HubRequestHanded (s.handLookahead c) p
      ⟨c, .lookahead, .fetch ((s.chan c).descriptorAddress ((s.chan c).index + 1)) 16⟩ := by
  refine HubRequestHanded.handHub_self (r := ⟨c, _, _⟩) ?_
  rw [State.setChan_chan_self]
  exact ho

theorem State.handLookahead_waitingAccess (s : State) (c : Channel) :
    (s.handLookahead c).waitingAccess c = s.waitingAccess c := by
  simp [State.handLookahead]

theorem ChannelContext.DataOnly.setNext {a b : ChannelContext} (h : a.DataOnly b) (n : Option Lookahead) :
    ({ a with next := n } : ChannelContext).DataOnly { b with next := n } := by
  unfold ChannelContext.DataOnly at h ⊢
  rw [h]

/-- The context that a descriptor, become current at an index, leaves before any data moves: with its lookahead under way unless it is
LAST (R95). -/
def ChannelContext.begun (ctx : ChannelContext) (d : Descriptor) (i : Nat) : ChannelContext :=
  { ctx.begin d i with next := if d.last then none else some .fetching }

/-- From s to t descriptor d became current at index i in channel c of port p, and its data has begun to move. -/
structure RunBegun (s t : State) (c : Channel) (p : Port) (d : Descriptor) (i : Nat) : Prop where
  context : ((s.chan c).begun d i).DataOnly (t.chan c)
  events : t.events = s.events
  lookahead : d.last = false →
    HubRequestHanded t p ⟨c, .lookahead, .fetch ((s.chan c).descriptorAddress (i + 1)) 16⟩
  data : DataBegun s t c p d

theorem State.becomeCurrent_runBegun {s : State} {c : Channel} {p : Port} (ho : (s.chan c).owner = some p) {d : Descriptor}
    {i : Nat} (hi : d.last = true ∨ i ≠ 255) : RunBegun s (s.becomeCurrent c d i) c p d i := by
  have hchan := s.setChan_chan_self c ((s.chan c).begin d i)
  have hrun := RunOnly.setChan s c ((s.chan c).begin d i)
  have hevents := s.setChan_events c ((s.chan c).begin d i)
  have hwait := s.setChan_waitingAccess c ((s.chan c).begin d i) c
  rw [State.becomeCurrent_eq]
  generalize s.setChan c ((s.chan c).begin d i) = b at hchan hrun hevents hwait
  have hstate : (b.chan c).state = .running := by rw [hchan]; rfl
  have hcurrent : (b.chan c).current = some d := by rw [hchan]; rfl
  have howner : (b.chan c).owner = some p := by rw [hchan]; exact ho
  have hposition : (b.chan c).position = 0 := by rw [hchan]; rfl
  have hdata : DataBegun s (b.work c) c p d :=
    (State.work_dataBegun hstate hcurrent howner hposition).of_same hrun hwait (by rw [hchan]; rfl) (by rw [hchan]; rfl)
  have hworked := State.work_dataOnly b c
  cases hlast : d.last with
  | true =>
    rw [if_pos rfl]
    refine ⟨?_, (KeepsHanded.work p b c).events.trans hevents, fun hl => by simp [hlast] at hl, hdata⟩
    rw [ChannelContext.begun, hlast, if_pos rfl]
    rw [hchan] at hworked
    exact hworked
  | false =>
    have hbegun : (s.chan c).begun d i = { b.chan c with next := some .fetching } := by
      rw [ChannelContext.begun, hlast, hchan]
      rfl
    have hindex : i ≠ 255 := hi.resolve_left (by rw [hlast]; decide)
    rw [if_neg (by decide), if_neg hindex]
    split
    · have hahead := State.handLookahead_chan b c
      have hhanded := State.handLookahead_handed howner
      have hkept := KeepsHanded.handLookahead p b c
      have hsame := State.handLookahead_waitingAccess b c
      have hruns := RunOnly.handLookahead b c
      generalize b.handLookahead c = a at hahead hhanded hkept hsame hruns
      have hworks := KeepsHanded.work p a c
      refine ⟨?_, hworks.events.trans (hkept.events.trans hevents), fun _ => ?_, ?_⟩
      · rw [hbegun, ← hahead]
        exact State.work_dataOnly a c
      · rw [hchan] at hhanded
        exact hworks.handed _ hhanded
      · refine (State.work_dataBegun (s := a) ?_ ?_ ?_ ?_).of_same (hrun.trans hruns) (hsame.trans hwait) ?_ ?_ <;> rw [hahead]
        · exact hstate
        · exact hcurrent
        · exact howner
        · exact hposition
        · rw [hchan]
          rfl
        · rw [hchan]
          rfl
    · have hkept := KeepsHanded.handLookahead p (b.work c) c
      have hahead := State.handLookahead_chan (b.work c) c
      have howner' : ((b.work c).chan c).owner = some p := by
        rw [hworked]
        exact howner
      refine ⟨?_, hkept.events.trans ((KeepsHanded.work p b c).events.trans hevents), fun _ => ?_, ?_⟩
      · rw [hbegun, hahead]
        exact hworked.setNext _
      · have hhanded := State.handLookahead_handed howner'
        rw [hworked, hchan] at hhanded
        exact hhanded
      · exact hdata.kept hkept (State.handLookahead_waitingAccess ..) (by rw [hahead])

/-- Slots given touch of a context its chunk list alone. -/
theorem State.giveSlots_dataOnly (s : State) (p : Port) (c : Channel) : (s.chan c).DataOnly ((s.giveSlots p).chan c) := by
  have hchan := s.giveSlots_chan p c
  have hposition : ((s.giveSlots p).chan c).position = (s.chan c).position := by rw [hchan]
  rw [ChannelContext.DataOnly, hposition]
  exact hchan

theorem RunBegun.giveSlots {s t : State} {c : Channel} {p : Port} {d : Descriptor} {i : Nat} (h : RunBegun s t c p d i) :
    RunBegun s (t.giveSlots p) c p d i :=
  ⟨h.context.trans (State.giveSlots_dataOnly ..), (State.giveSlots_events ..).trans h.events,
    fun hl => (h.lookahead hl).giveSlots, h.data.kept (.giveSlots ..) (State.giveSlots_waitingAccess ..)
      (State.giveSlots_places ..)⟩

/-- A run begun over a next-descriptor field that it replaces. -/
theorem RunBegun.of_setNext {s t : State} {c : Channel} {p : Port} {d : Descriptor} {i : Nat} {n : Option Lookahead}
    (h : RunBegun (s.setChan c { s.chan c with next := n }) t c p d i) : RunBegun s t c p d i := by
  have hchan := s.setChan_chan_self c { s.chan c with next := n }
  have hdata := h.data.of_same (.setChan ..) rfl (by rw [hchan]) (by rw [hchan])
  obtain ⟨hcontext, hevents, hlookahead, _⟩ := h
  rw [hchan] at hcontext hlookahead
  exact ⟨hcontext, hevents, hlookahead, hdata⟩

theorem RunBegun.becameCurrent {s t : State} {c : Channel} {p : Port} {d : Descriptor} {i : Nat} (h : RunBegun s t c p d i) :
    BecameCurrent t c p d i ∧ (t.chan c).bytesMoved = (s.chan c).bytesMoved := by
  have hlookahead := h.lookahead
  rw [BecameCurrent, h.context]
  exact ⟨⟨rfl, rfl, rfl, rfl, hlookahead⟩, rfl⟩

/-- Descriptor 255 that is not LAST: the list is too long (R95). -/
theorem State.becomeCurrent_tooLong {s : State} {c : Channel} {p : Port} (ho : (s.chan c).owner = some p) {d : Descriptor}
    (hlast : d.last = false) : FaultsRun s (s.becomeCurrent c d 255) c p .listTooLong 255 none [] := by
  have hchan := s.setChan_chan_self c ((s.chan c).begin d 255)
  have hfaults := State.faultRun_faultsRun (s := s.setChan c ((s.chan c).begin d 255)) (c := c) (p := p)
    (by rw [hchan]; exact ho) .listTooLong 255 none
  rw [State.becomeCurrent_eq, hlast, if_neg (by decide), if_pos rfl]
  exact hfaults.of_same (.setChan ..) (.setChan ..) (by rw [hchan]; rfl) (by rw [hchan]; rfl) rfl

/-! ### The next-descriptor field decides (step 3 of R96) -/

theorem State.advance_valid {s : State} {c : Channel} {d : Descriptor} (h : (s.chan c).next = some (.valid d)) :
    s.advance c = s.becomeCurrent c d ((s.chan c).index + 1) := by
  rw [State.advance, h]

theorem State.advance_invalid {s : State} {c : Channel} {code : FaultCode} (h : (s.chan c).next = some (.invalid code)) :
    s.advance c = s.faultRun c code ((s.chan c).index + 1) none := by
  rw [State.advance, h]

/-- A context whose data is done has no chunk (R96). -/
theorem ChannelContext.chunks_of_dataDone {ctx : ChannelContext} (h : ctx.dataDone = true) : ctx.chunks = [] := by
  unfold ChannelContext.dataDone at h
  split at h
  · simp only [Bool.and_eq_true, List.isEmpty_iff] at h
    exact h.1
  · cases h

/-- A run whose data is done and whose lookahead's value n comes now, goes on by it in the same action. -/
theorem State.setNext_advancesBy {u t : State} {c : Channel} {p : Port} {n : Lookahead} (ho : (u.chan c).owner = some p)
    (hdone : (u.chan c).dataDone = true) (hn : n ≠ .fetching)
    (ht : t = u.asOneAction (((u.setChan c { u.chan c with next := some n }).advance c).giveSlots p)) :
    AdvancesBy u t c p (u.chan c).index n [] := by
  have hchunks := ChannelContext.chunks_of_dataDone hdone
  have hchan := u.setChan_chan_self c { u.chan c with next := some n }
  have hnext : ((u.setChan c { u.chan c with next := some n }).chan c).next = some n := by rw [hchan]
  have hindex : ((u.setChan c { u.chan c with next := some n }).chan c).index = (u.chan c).index := by rw [hchan]
  have howner : ((u.setChan c { u.chan c with next := some n }).chan c).owner = some p := by
    rw [hchan]
    exact ho
  have hfaults : ∀ {v code i}, FaultsRun (u.setChan c { u.chan c with next := some n }) v c p code i none [] →
      FaultsRun u (u.asOneAction (v.giveSlots p)) c p code i none [] := fun h =>
    ((h.of_same (.setChan ..) (.setChan ..) (by rw [hchan]) (by rw [hchan]) rfl).giveSlots p).asOneAction
  refine ⟨?_, fun e he hlast => ?_, fun e he hlast hi => ?_, fun code he => ?_, fun he => absurd he hn⟩
  · rw [ht]
    exact (((EngineOnly.setChan ..).trans (.advance ..)).trans (.giveSlots ..)).asOneAction
  · subst he
    have hbegun := (State.becomeCurrent_runBegun howner (i := (u.chan c).index + 1) hlast).giveSlots.of_setNext
    rw [State.advance_valid hnext, hindex, State.asOneAction_of_events_same hbegun.events] at ht
    rw [ht]
    refine ⟨hbegun.becameCurrent.1, hbegun.becameCurrent.2, ?_, fun hfree => ?_⟩
    · rw [hbegun.events, joined_nil]
    · rw [← hchunks]
      exact hbegun.data.moves hfree
  · subst he
    rw [State.advance_valid hnext, hindex, hi] at ht
    rw [ht]
    exact hfaults (State.becomeCurrent_tooLong howner hlast)
  · subst he
    rw [State.advance_invalid hnext, hindex] at ht
    rw [ht]
    exact hfaults (State.faultRun_faultsRun howner ..)

/-! ### The ending at the front of a Link Controller's claims -/

theorem State.takeClaim_ending {s : State} {p : Port} {r : HubRequest} {how : Ending} {rest : List ChannelClaim}
    (h : s.claimsOf p = .ending r how :: rest) :
    s.takeClaim p = (s.setClaims p rest).asOneAction (((s.setClaims p rest).takeEnding r how).giveSlots p) := by
  rw [State.takeClaim, h]
  rfl

theorem State.takeEnding_claimsOf (s : State) (p q : Port) (r : HubRequest) (how : Ending) :
    (s.asOneAction ((s.takeEnding r how).giveSlots p)).claimsOf q = s.claimsOf q :=
  (State.giveSlots_claimsOf ..).trans ((RunOnly.takeEnding s r how).claimsOf q)

theorem EngineOnly.endingTaken (s : State) (p : Port) (r : HubRequest) (how : Ending) :
    EngineOnly s (s.asOneAction ((s.takeEnding r how).giveSlots p)) :=
  ((EngineOnly.takeEnding ..).trans (.giveSlots ..)).asOneAction

/-- A LOADING channel takes the ending of descriptor 0's FETCH (R94). -/
theorem State.takeEnding_first {s : State} {c : Channel} (hs : (s.chan c).state = .loading) (op : HubOp) (how : Ending) :
    s.takeEnding ⟨c, .first, op⟩ how = s.firstEnding c how := by
  have hactive : (s.chan c).state.active = true := by
    rw [hs]
    rfl
  refine (if_neg (by rw [hs]; decide)).trans ((if_pos hactive).trans ?_)
  exact if_pos hs

/-- An active channel waiting for it takes the ending of a lookahead (R95). -/
theorem State.takeEnding_lookahead {s : State} {c : Channel} (ha : (s.chan c).state.active = true)
    (hn : (s.chan c).next = some .fetching) (op : HubOp) (how : Ending) :
    s.takeEnding ⟨c, .lookahead, op⟩ how = s.lookaheadEnding c how := by
  have haborting : (s.chan c).state ≠ .aborting := fun hs => by
    rw [hs] at ha
    cases ha
  exact (if_neg haborting).trans ((if_pos ha).trans (if_pos hn))

theorem decodeDescriptor_count_pos {ws : List Word} {d : Descriptor} (h : decodeDescriptor ws = some d) : 0 < d.count := by
  unfold decodeDescriptor at h
  split at h
  · split at h
    · split at h
      · next k _ hv =>
        cases h
        simp only [descriptorValid, Bool.and_eq_true, decide_eq_true_eq] at hv
        obtain ⟨⟨⟨⟨⟨⟨⟨_, hcount⟩, _⟩, _⟩, _⟩, _⟩, _⟩, _⟩ := hv
        dsimp only
        omega
      · cases h
    · cases h
  · cases h

/-! ### O42 -/

/-- Descriptor 0 of a run has become current: what R94 and R114 ask of its first movement. -/
theorem RunBegun.movesFirst {s t : State} {c : Channel} {p : Port} {d : Descriptor} {i : Nat} (h : RunBegun s t c p d i)
    (hnil : (s.chan c).chunks = []) (hcount : 0 < d.count) :
    (d.kind = .fromStore → s.accessPresented c = false → t.waitingAccess c
        = some ⟨d.store, ⟨d.store, .read (min (64 - d.store % 64) d.count / 4), (s.chan c).guard⟩⟩)
      ∧ (d.kind = .storeCopy → s.accessPresented c = false → t.waitingAccess c = some ⟨d.store, ⟨d.far.toNat,
          .read (min (min (64 - d.store % 64) d.count) (64 - d.far.toNat % 64) / 4), (s.chan c).guard⟩⟩)
      ∧ (d.kind = .storeFill → s.accessPresented c = false → t.waitingAccess c = some ⟨d.store, ⟨d.store,
          .write (List.replicate (min (64 - d.store % 64) d.count / 4) d.far), (s.chan c).guard⟩⟩) := by
  have haccess : s.accessPresented c = false → t.waitingAccess c = accessToPresent d 0 [] (s.chan c).guard := fun hfree => by
    rw [← hnil]
    exact (h.data.moves hfree).1
  refine ⟨fun hk hfree => ?_, fun hk hfree => ?_, fun hk hfree => ?_⟩ <;> rw [haccess hfree]
  all_goals simp [accessToPresent, lengthAt, hk, hcount]

/-- The reply to the FETCH of descriptor 0, taken from the claims (R93, R94). -/
theorem exec_descriptorReply {s u : State} {p : Port} {c : Channel} {op : HubOp} {how : Ending} {rest : List ChannelClaim}
    (h : s.claimsOf p = .ending ⟨c, .first, op⟩ how :: rest) (hu : u = s.setClaims p rest)
    (hhow : how = .replyFailed ∨ ∃ data, how = .replyOk data) (hs : (s.chan c).state = .loading) :
    ∃ t, exec (.descriptorReply p) s = .next t ∧ EngineOnly u t ∧ t.claimsOf p = rest
      ∧ t = u.asOneAction ((u.firstEnding c how).giveSlots p) := by
  have htest : replyTo HubRequest.isFirst (s.claimsOf p) = true := by
    rw [h]
    rcases hhow with rfl | ⟨data, rfl⟩ <;> rfl
  have hloading : (u.chan c).state = .loading := by
    rw [hu, State.setClaims_chan]
    exact hs
  have hexec : exec (.descriptorReply p) s = .next (s.takeClaim p) := if_pos htest
  rw [State.takeClaim_ending h, ← hu] at hexec
  refine ⟨_, hexec, .endingTaken .., ?_, ?_⟩
  · rw [State.takeEnding_claimsOf, hu, State.setClaims_claimsOf_self]
  · rw [State.takeEnding_first hloading]

/-- The reply to a lookahead's FETCH, taken from the claims (R95). -/
theorem exec_lookaheadReply {s u : State} {p : Port} {c : Channel} {op : HubOp} {how : Ending} {rest : List ChannelClaim}
    (h : s.claimsOf p = .ending ⟨c, .lookahead, op⟩ how :: rest) (hu : u = s.setClaims p rest)
    (hhow : how = .replyFailed ∨ ∃ data, how = .replyOk data) (ha : (s.chan c).state.active = true)
    (hn : (s.chan c).next = some .fetching) :
    ∃ t, exec (.lookaheadReply p) s = .next t ∧ EngineOnly u t ∧ t.claimsOf p = rest
      ∧ t = u.asOneAction ((u.lookaheadEnding c how).giveSlots p) := by
  have htest : replyTo HubRequest.isLookahead (s.claimsOf p) = true := by
    rw [h]
    rcases hhow with rfl | ⟨data, rfl⟩ <;> rfl
  have hchan : u.chan c = s.chan c := by rw [hu, State.setClaims_chan]
  have hexec : exec (.lookaheadReply p) s = .next (s.takeClaim p) := if_pos htest
  rw [State.takeClaim_ending h, ← hu] at hexec
  refine ⟨_, hexec, .endingTaken .., ?_, ?_⟩
  · rw [State.takeEnding_claimsOf, hu, State.setClaims_claimsOf_self]
  · rw [State.takeEnding_lookahead (by rw [hchan]; exact ha) (by rw [hchan]; exact hn)]

theorem lookaheadOf_valid {data : List Word} {d : Descriptor} (h : decodeDescriptor data = some d) :
    lookaheadOf (.replyOk data) = .valid d := by
  rw [lookaheadOf, h]

theorem lookaheadOf_invalid {data : List Word} (h : decodeDescriptor data = none) :
    lookaheadOf (.replyOk data) = .invalid .badDescriptor := by
  rw [lookaheadOf, h]

/-- A reply leaves no lookahead under way. -/
theorem lookaheadOf_ne_fetching {how : Ending} (h : how = .replyFailed ∨ ∃ data, how = .replyOk data) :
    lookaheadOf how ≠ .fetching := by
  rcases h with rfl | ⟨data, rfl⟩
  · exact nofun
  · cases hd : decodeDescriptor data with
    | none =>
      rw [lookaheadOf_invalid hd]
      exact nofun
    | some d =>
      rw [lookaheadOf_valid hd]
      exact nofun

/-- While data of the current descriptor has still to move, the field takes its value and nothing else happens. -/
theorem State.lookaheadEnding_waits {u t : State} {c : Channel} {p : Port} {how : Ending} (hdata : (u.chan c).dataDone = false)
    (ht : t = u.asOneAction ((u.lookaheadEnding c how).giveSlots p)) :
    t.events = u.events ∧ t.arbiter = u.arbiter
      ∧ t.chan c = { u.chan c with next := (t.chan c).next, chunks := (t.chan c).chunks }
      ∧ (t.chan c).next = some (lookaheadOf how) := by
  have hchan := u.setChan_chan_self c { u.chan c with next := some (lookaheadOf how) }
  have hstays : u.lookaheadEnding c how = u.setChan c { u.chan c with next := some (lookaheadOf how) } := by
    refine if_neg ?_
    rw [hchan]
    exact (Bool.not_eq_true _).mpr hdata
  have hevents : ((u.lookaheadEnding c how).giveSlots p).events = u.events := by
    rw [State.giveSlots_events, hstays, State.setChan_events]
  rw [State.asOneAction_of_events_same hevents, hstays] at ht
  have hgiven := State.giveSlots_chan (u.setChan c { u.chan c with next := some (lookaheadOf how) }) p c
  rw [← ht, hchan] at hgiven
  refine ⟨?_, ?_, ?_, ?_⟩
  · rw [ht, State.giveSlots_events, State.setChan_events]
  · rw [ht, State.giveSlots_arbiter, State.setChan_arbiter]
  · rw [hgiven]
  · rw [hgiven]

theorem State.lookaheadEnding_advances {u : State} {c : Channel} (how : Ending) (hdone : (u.chan c).dataDone = true) :
    u.lookaheadEnding c how = (u.setChan c { u.chan c with next := some (lookaheadOf how) }).advance c := by
  refine if_pos ?_
  rw [State.setChan_chan_self]
  exact hdone

/-- A fault of descriptor 0, after the slots are given. -/
theorem State.faultRun_endsAction {u : State} {c : Channel} {p : Port} (ho : (u.chan c).owner = some p) (code : FaultCode)
    (i : Nat) : FaultsRun u (u.asOneAction ((u.faultRun c code i none).giveSlots p)) c p code i none [] :=
  ((State.faultRun_faultsRun ho ..).giveSlots p).asOneAction

/-- Settles O42, reply by reply: descriptor 0 read or not, and the lookahead by whether the run waits for it. -/
theorem descriptorRepliesAreTaken : Obligations.DescriptorRepliesAreTaken := by
  refine ⟨fun s u p c op data rest hclaims hu hs ho hnil => ?_, fun s u p c op rest hclaims hu hs ho => ?_,
    fun s u p c op how rest hclaims hu hhow ha hn ho => ?_⟩
  all_goals have hchan : u.chan c = s.chan c := by rw [hu, State.setClaims_chan]
  all_goals rw [← hchan] at ho
  · obtain ⟨t, hexec, hengine, hrest, ht⟩ := exec_descriptorReply hclaims hu (.inr ⟨data, rfl⟩) hs
    refine ⟨t, hexec, hengine, hrest, fun d hd => ?_, fun hd => ?_⟩
    · have hfirst : u.firstEnding c (.replyOk data) = u.becomeCurrent c d 0 := by
        simp only [State.firstEnding, hd]
      have hbegun := (State.becomeCurrent_runBegun ho (d := d) (.inr (by decide : (0 : Nat) ≠ 255))).giveSlots
      rw [hfirst, State.asOneAction_of_events_same hbegun.events] at ht
      rw [← ht] at hbegun
      have hcount := decodeDescriptor_count_pos hd
      obtain ⟨⟨hstate, hcurrent, hindex, hnext, _⟩, hbytes⟩ := hbegun.becameCurrent
      have hmoves := hbegun.movesFirst (by rw [hchan]; exact hnil) hcount
      obtain ⟨_, hevents, hlookahead, _, hfetches⟩ := hbegun
      rw [hchan] at hbytes hmoves hlookahead hfetches
      rw [hu] at hmoves hfetches hevents
      refine ⟨hstate, hcurrent, hindex, hbytes, hevents, hnext, hlookahead, fun hk => ?_, hmoves⟩
      obtain ⟨hwait, hsome, hall⟩ := hfetches hk hnil
      exact ⟨hwait, hsome hcount, hall⟩
    · have hfirst : u.firstEnding c (.replyOk data) = u.faultRun c .badDescriptor 0 none := by
        simp only [State.firstEnding, hd]
      rw [ht, hfirst]
      exact State.faultRun_endsAction ho ..
  · obtain ⟨t, hexec, _, hrest, ht⟩ := exec_descriptorReply hclaims hu (.inl rfl) hs
    refine ⟨t, hexec, hrest, ?_⟩
    rw [ht]
    exact State.faultRun_endsAction ho ..
  · obtain ⟨t, hexec, hengine, hrest, ht⟩ := exec_lookaheadReply hclaims hu hhow ha hn
    refine ⟨t, hexec, hengine, hrest, fun hdata => ?_, fun hdone => ?_⟩
    · rw [← hchan] at hdata ⊢
      obtain ⟨hevents, harbiter, hctx, hnext⟩ := State.lookaheadEnding_waits hdata ht
      rw [hu] at hevents harbiter
      refine ⟨hevents, harbiter, hctx, fun data d he hd => ?_, fun data he hd => ?_, fun he => ?_⟩ <;> rw [hnext, he]
      · rw [lookaheadOf_valid hd]
      · rw [lookaheadOf_invalid hd]
      · rfl
    · rw [← hchan] at hdone ⊢
      rw [State.lookaheadEnding_advances how hdone] at ht
      have hadvances := State.setNext_advancesBy ho hdone (lookaheadOf_ne_fetching hhow) ht
      refine ⟨fun data d he hd => ?_, fun data he hd => ?_, fun he => ?_⟩ <;> rw [he] at hadvances
      · rw [lookaheadOf_valid hd] at hadvances
        exact hadvances
      · rw [lookaheadOf_invalid hd] at hadvances
        exact hadvances
      · exact hadvances

end Sys2Proof.Machine
end

section
/-! SUPPORT. O13 and O47: a stall that ends in a fault (R125), and the retries that a release announcement brings (R124). -/

namespace Sys2Proof.Machine

/-! ### The expiry of a stall (R125) -/

theorem exec_stallExpiry {s : State} {c : Channel} {r : StallRecord} (hs : (s.chan c).state = .stalled)
    (hr : (s.chan c).stall = some r) (ht : r.limit ≤ r.time) :
    exec (.stallExpiry c) s
      = .next (s.asOneAction (s.faultRun c .lockTimeout (s.chan c).index (some r.refused.access.addr))) := by
  show execStallExpiry c s = _
  simp only [execStallExpiry, hs, hr]
  exact if_pos ht

/-- Settles O13: the fault that ends the stall is CHANNEL_FAULT as for every other cause (R98, R101). -/
theorem stallExpiryFaultsTheRun : Obligations.StallExpiryFaultsTheRun := by
  intro s c p r hs hr ht ho
  obtain ⟨htaken, hengine, hdrains, hends⟩ :=
    (State.faultRun_faultsRun ho .lockTimeout (s.chan c).index (some r.refused.access.addr)).asOneAction
  refine ⟨_, exec_stallExpiry hs hr ht, htaken, hengine, fun hf => ?_, hends⟩
  rw [joined_nil] at hdrains
  exact hdrains hf

/-! ### One channel's retry (R124) -/

/-- The context of a STALLED channel that presents its refused access again. -/
def ChannelContext.retried (ctx : ChannelContext) (st : StallRecord) : ChannelContext :=
  if st.refused.access.op.isWrite then ctx.setChunkState st.refused.chunk .writing else ctx

theorem State.retryStalled_covered {s : State} {c : Channel} {r : GranuleRange} {st : StallRecord}
    (hs : (s.chan c).state = .stalled) (hst : (s.chan c).stall = some st)
    (hr : r.first ≤ st.granule ∧ st.granule < r.first + r.count) (hfree : s.accessPresented c = false) :
    s.retryStalled r c = (s.setChan c ((s.chan c).retried st)).setWaiting c (some st.refused) := by
  have hcovers : r.covers st.granule = true := by
    simpa [GranuleRange.covers] using hr
  have hcond : r.covers st.granule = true ∧ ¬s.accessPresented c = true := ⟨hcovers, by rw [hfree]; decide⟩
  simp only [State.retryStalled, hs, hst, if_pos hcond, ChannelContext.retried]
  split
  · rfl
  · rw [State.setChan_same]

theorem State.retryStalled_uncovered {s : State} {c : Channel} {r : GranuleRange}
    (h : (s.chan c).state ≠ .stalled ∨ s.accessPresented c = true
      ∨ ∀ st ∈ (s.chan c).stall, ¬(r.first ≤ st.granule ∧ st.granule < r.first + r.count)) : s.retryStalled r c = s := by
  unfold State.retryStalled
  split
  · next st hs hst =>
    refine if_neg fun ⟨hcovers, hfree⟩ => ?_
    rcases h with hne | hpresented | hnone
    · exact hne hs
    · exact hfree hpresented
    · exact hnone st hst (by simpa [GranuleRange.covers] using hcovers)
  · rfl

/-- The chunk of a write presented again is WRITING, and no read changes a chunk. -/
theorem ChannelContext.retried_chunks (ctx : ChannelContext) (st : StallRecord) :
    (st.refused.access.op.isWrite = true → ∀ k ∈ (ctx.retried st).chunks, k.store = st.refused.chunk → k.state = .writing)
      ∧ (st.refused.access.op.isWrite = false → (ctx.retried st).chunks = ctx.chunks) := by
  refine ⟨fun hw k hk hs => ?_, fun hw => ?_⟩ <;> simp only [ChannelContext.retried, hw] at *
  · obtain ⟨j, _, rfl⟩ := List.mem_map.mp hk
    rw [Chunk.store_ite] at hs
    rw [if_pos hs]
  · rfl

theorem ChannelContext.retried_eq (ctx : ChannelContext) (st : StallRecord) :
    ctx.retried st = { ctx with chunks := (ctx.retried st).chunks } := by
  unfold ChannelContext.retried
  split <;> rfl

/-! ### Channel by channel -/

/-- What an announcement finds of channel c is as it was: its context, its waiting access, whether an access is presented. -/
structure RetrySame (c : Channel) (s t : State) : Prop where
  chan : t.chan c = s.chan c
  waitingAccess : t.waitingAccess c = s.waitingAccess c
  presented : t.accessPresented c = s.accessPresented c

theorem RetrySame.trans {c : Channel} {s t u : State} (h : RetrySame c s t) (h' : RetrySame c t u) : RetrySame c s u :=
  ⟨h'.chan.trans h.chan, h'.waitingAccess.trans h.waitingAccess, h'.presented.trans h.presented⟩

theorem RunOnly.accessPresented_other {c d : Channel} {s t : State} (h : RunOnly d s t) (hc : c ≠ d) :
    t.accessPresented c = s.accessPresented c := by
  simp only [State.accessPresented, State.accessGranted, State.grantedTo, h.waitingAccess_other hc, h.inProgress, h.outcomeOf]

theorem RetrySame.foldl {c : Channel} {l : List Channel} (hc : c ∉ l) (s : State) (r : GranuleRange) :
    RetrySame c s (l.foldl (fun t d => t.retryStalled r d) s) := by
  induction l generalizing s with
  | nil => exact ⟨rfl, rfl, rfl⟩
  | cons d rest ih =>
    rw [List.mem_cons, not_or] at hc
    have hrun := RunOnly.retryStalled s r d
    exact RetrySame.trans ⟨hrun.chan c hc.1, hrun.waitingAccess_other hc.1, hrun.accessPresented_other hc.1⟩ (ih hc.2 _)

/-- Each channel takes the announcement once, in a state in which it is as before; after it, it stays as it is. -/
theorem State.retries_at (s : State) (r : GranuleRange) (c : Channel) :
    ∃ v : State, RetrySame c s v ∧ RetrySame c (v.retryStalled r c) (allChannels.foldl (fun t d => t.retryStalled r d) s) := by
  have hmem : c ∈ allChannels := by
    revert c
    decide
  have hnodup : allChannels.Nodup := by decide
  obtain ⟨front, back, hsplit⟩ := List.append_of_mem hmem
  rw [hsplit] at hnodup
  obtain ⟨_, hback, hfront⟩ := List.nodup_append.mp hnodup
  have hfrontc : c ∉ front := fun hm => hfront c hm c List.mem_cons_self rfl
  refine ⟨front.foldl (fun t d => t.retryStalled r d) s, .foldl hfrontc s r, ?_⟩
  rw [hsplit, List.foldl_append, List.foldl_cons]
  exact .foldl (List.nodup_cons.mp hback).1 _ r

/-- Of the state, only channel contexts and the channels' waiting accesses have changed. -/
def RunsAndAccessesOnly (s t : State) : Prop :=
  t = { s with channels := t.channels, arbiter := { s.arbiter with waiting := t.arbiter.waiting } }

theorem RunsAndAccessesOnly.trans {s t u : State} (h : RunsAndAccessesOnly s t) (h' : RunsAndAccessesOnly t u) :
    RunsAndAccessesOnly s u := by
  unfold RunsAndAccessesOnly at *
  rw [h] at h'
  exact h'

theorem RunsAndAccessesOnly.retryStalled (s : State) (r : GranuleRange) (c : Channel) :
    RunsAndAccessesOnly s (s.retryStalled r c) := by
  unfold RunsAndAccessesOnly State.retryStalled
  split
  · split
    · split <;> rfl
    · rfl
  · rfl

theorem RunsAndAccessesOnly.retries (s : State) (r : GranuleRange) (l : List Channel) :
    RunsAndAccessesOnly s (l.foldl (fun t c => t.retryStalled r c) s) := by
  induction l generalizing s with
  | nil => rfl
  | cons c rest ih => exact (RunsAndAccessesOnly.retryStalled s r c).trans (ih _)

/-! ### O47 -/

/-- Settles O47, for each channel in its own turn, the others' turns leaving it as it is. -/
theorem announcementRetriesTheStalled : Obligations.AnnouncementRetriesTheStalled := by
  intro s r rest ha
  have hexec : exec .releaseAnnouncement s
      = .next (allChannels.foldl (fun t c => t.retryStalled r c) { s with announcements := rest }) := by
    show execReleaseAnnouncement s = _
    rw [execReleaseAnnouncement, ha]
  refine ⟨_, hexec, RunsAndAccessesOnly.retries { s with announcements := rest } r allChannels, fun c => ?_⟩
  obtain ⟨v, hbefore, hafter⟩ := State.retries_at { s with announcements := rest } r c
  have hchan : v.chan c = s.chan c := hbefore.chan
  have hpresented : v.accessPresented c = s.accessPresented c := hbefore.presented
  rw [hafter.chan, hafter.waitingAccess]
  refine ⟨fun st hs hst hlow hhigh hfree => ?_, fun huncovered => ?_⟩
  · rw [State.retryStalled_covered (st := st) (by rw [hchan]; exact hs) (by rw [hchan]; exact hst) ⟨hlow, hhigh⟩
      (hpresented.trans hfree), State.setWaiting_waitingAccess_self, State.setWaiting_chan, State.setChan_chan_self, hchan]
    exact ⟨rfl, (s.chan c).retried_eq st, (s.chan c).retried_chunks st⟩
  · rw [State.retryStalled_uncovered (by rw [hchan, hpresented]; exact huncovered)]
    exact ⟨hbefore.waitingAccess, hchan⟩

end Sys2Proof.Machine
end

section
/-! SUPPORT. A claim or an outcome that a channel takes, what the movement of data has done by the end of the action (R113, R114), and
which chunks the slots given in it leave as they are (R116, R118). -/

namespace Sys2Proof.Machine

/-! ### The claim or the outcome taken -/

/-- The command is the one that takes this ending of the request from port p's Link Controller (R94, R95, R117, R118, R127, R128). -/
def TakesEnding (cmd : Instr) (p : Port) (r : HubRequest) (how : Ending) : Prop :=
  cmd = .channelHubTimeout p ∧ how = .timeout ∨ cmd = .hubRequestDrop p ∧ how = .dropped
    ∨ (how = .replyFailed ∨ ∃ data, how = .replyOk data)
      ∧ (cmd = .descriptorReply p ∧ r.purpose = .first ∨ cmd = .lookaheadReply p ∧ r.purpose = .lookahead
        ∨ cmd = .chunkFetchReply p ∧ r.purpose.chunk?.isSome = true ∧ r.op.isFetch = true
        ∨ cmd = .chunkStoreReply p ∧ r.purpose.chunk?.isSome = true ∧ r.op.isStore = true)

theorem replyTo_ending {test : HubRequest → Bool} {r : HubRequest} {how : Ending} {rest : List ChannelClaim} (ht : test r = true)
    (hhow : how = .replyFailed ∨ ∃ data, how = .replyOk data) : replyTo test (.ending r how :: rest) = true := by
  rcases hhow with rfl | ⟨data, rfl⟩ <;> exact ht

theorem HubRequest.isChunkFetch_of {r : HubRequest} (hp : r.purpose.chunk?.isSome = true) (ho : r.op.isFetch = true) :
    r.isChunkFetch = true := by
  obtain ⟨_, purpose, op⟩ := r
  cases purpose with
  | first | lookahead => cases hp
  | chunk st =>
    cases op with
    | fetch _ _ => rfl
    | store _ _ => cases ho

theorem HubRequest.isChunkStore_of {r : HubRequest} (hp : r.purpose.chunk?.isSome = true) (ho : r.op.isStore = true) :
    r.isChunkStore = true := by
  obtain ⟨_, purpose, op⟩ := r
  cases purpose with
  | first | lookahead => cases hp
  | chunk st =>
    cases op with
    | fetch _ _ => cases ho
    | store _ _ => rfl

/-- Each command takes the ending of its kind from the front of the claims. -/
theorem exec_takeClaim {cmd : Instr} {s : State} {p : Port} {r : HubRequest} {how : Ending} {rest : List ChannelClaim}
    (hcmd : TakesEnding cmd p r how) (h : s.claimsOf p = .ending r how :: rest) : exec cmd s = .next (s.takeClaim p) := by
  rcases hcmd with ⟨rfl, rfl⟩ | ⟨rfl, rfl⟩ | ⟨hhow, hreply⟩
  · exact if_pos (by rw [h]; rfl)
  · exact if_pos (by rw [h]; rfl)
  · have htaken : ∀ {test : HubRequest → Bool}, test r = true → replyTo test (s.claimsOf p) = true := fun ht => by
      rw [h]
      exact replyTo_ending ht hhow
    rcases hreply with ⟨rfl, hpurpose⟩ | ⟨rfl, hpurpose⟩ | ⟨rfl, hpurpose, hop⟩ | ⟨rfl, hpurpose, hop⟩
    · exact if_pos (htaken (decide_eq_true hpurpose))
    · exact if_pos (htaken (decide_eq_true hpurpose))
    · exact if_pos (htaken (HubRequest.isChunkFetch_of hpurpose hop))
    · exact if_pos (htaken (HubRequest.isChunkStore_of hpurpose hop))

/-- What such a command does, with the slots that are given in the same action (R116). -/
theorem exec_takesEnding {cmd : Instr} {s u : State} {p : Port} {r : HubRequest} {how : Ending} {rest : List ChannelClaim}
    (hcmd : TakesEnding cmd p r how) (h : s.claimsOf p = .ending r how :: rest) (hu : u = s.setClaims p rest) :
    ∃ t, exec cmd s = .next t ∧ EngineOnly u t ∧ t.claimsOf p = rest
      ∧ t = u.asOneAction ((u.takeEnding r how).giveSlots p) := by
  have hexec := exec_takeClaim hcmd h
  rw [State.takeClaim_ending h, ← hu] at hexec
  refine ⟨_, hexec, .endingTaken .., ?_, rfl⟩
  rw [State.takeEnding_claimsOf, hu, State.setClaims_claimsOf_self]

/-- The outcome of a channel's access, taken by a channel of port p. -/
theorem exec_takesOutcome {s u : State} {p : Port} {c : Channel} {a : ChannelAccess} {o : AccessOutcome}
    (h : s.outcomeOf c = some (a, o)) (hu : u = s.setOutcome c none) (ho : (s.chan c).owner = some p) :
    ∃ t, exec (.channelAccessOutcome c) s = .next t ∧ EngineOnly u t ∧ t.outcomeOf c = none
      ∧ t = u.asOneAction ((u.takeOutcome c a o).giveSlots p) := by
  have hexec : exec (.channelAccessOutcome c) s = .next (u.asOneAction ((u.takeOutcome c a o).giveSlots p)) := by
    show execChannelAccessOutcome c s = _
    rw [execChannelAccessOutcome, h, ho, hu]
    rfl
  refine ⟨_, hexec, ((EngineOnly.takeOutcome ..).trans (.giveSlots ..)).asOneAction, ?_, rfl⟩
  have harbiter : (((u.takeOutcome c a o).giveSlots p)).outcomeOf c = u.outcomeOf c := by
    rw [State.outcomeOf, State.giveSlots_arbiter]
    exact (RunOnly.takeOutcome u c a o).outcomeOf c
  refine harbiter.trans ?_
  rw [hu, State.setOutcome_outcomeOf_self]

theorem State.takeEnding_active {s : State} {r : HubRequest} (ha : (s.chan r.chan).state.active = true) (how : Ending) :
    s.takeEnding r how = s.activeEnding r.chan r how := by
  have haborting : (s.chan r.chan).state ≠ .aborting := fun hs => by
    rw [hs] at ha
    cases ha
  exact (if_neg haborting).trans (if_pos ha)

theorem State.takeEnding_aborting {s : State} {r : HubRequest} (hs : (s.chan r.chan).state = .aborting) (how : Ending) :
    s.takeEnding r how = s.endingInAbort r.chan r how := if_pos hs

theorem State.takeOutcome_moving {s : State} {c : Channel} (hs : (s.chan c).state = .running ∨ (s.chan c).state = .stalled)
    (a : ChannelAccess) (o : AccessOutcome) : s.takeOutcome c a o = s.activeOutcome c a o := by
  rcases hs with hs | hs <;> simp only [State.takeOutcome, hs]

theorem State.takeOutcome_aborting {s : State} {c : Channel} (hs : (s.chan c).state = .aborting) (a : ChannelAccess)
    (o : AccessOutcome) : s.takeOutcome c a o = s.outcomeInAbort c a o := by
  simp only [State.takeOutcome, hs]

/-- A fault that a claim or an outcome brings, at the end of its action. -/
theorem State.faultRun_atEnd {u : State} {c : Channel} {p : Port} (ho : (u.chan c).owner = some p) (code : FaultCode) (i : Nat)
    (a : Option Nat) : FaultsRun u (u.asOneAction ((u.faultRun c code i a).giveSlots p)) c p code i a [] :=
  ((State.faultRun_faultsRun ho code i a).giveSlots p).asOneAction

/-! ### The movement of data, by the end of the action -/

/-- A channel that is not RUNNING, or has an access presented, presents none. -/
theorem State.work_waitingAccess_of_busy {s : State} {c : Channel}
    (h : (s.chan c).state ≠ .running ∨ s.accessPresented c = true) : (s.work c).waitingAccess c = s.waitingAccess c := by
  unfold State.work
  split
  · rfl
  · next d _ =>
    have hsame := State.createChunks_waitingAccess s c d
    have hstate := (State.createChunks_dataOnly s c d).state
    have hpresented := (RunOnly.createChunks s c d).accessPresented hsame
    dsimp only
    rw [if_neg, hsame]
    rintro ⟨hrun, hfree⟩
    rw [hstate] at hrun
    rw [hpresented] at hfree
    exact h.elim (fun hne => hne hrun) hfree

theorem MovesOn.giveSlots {t : State} {c : Channel} {p : Port} {d : Descriptor} {pos : Nat} {chunks : List Chunk}
    {g : Option Handle} (h : MovesOn t c p d pos chunks g) : MovesOn (t.giveSlots p) c p d pos chunks g :=
  ⟨(State.giveSlots_waitingAccess ..).trans h.1, fun hk hlen hpos => (h.2 hk hlen hpos).giveSlots⟩

/-- From w, channel c of port p has moved its data on in descriptor d, and the action has ended in t. -/
structure WorkDone (w t : State) (c : Channel) (p : Port) (d : Descriptor) : Prop where
  events : t.events = w.events
  context : (w.chan c).DataOnly (t.chan c)
  moves : (w.chan c).state = .running → w.accessPresented c = false →
    MovesOn t c p d (w.chan c).position (w.chan c).chunks (w.chan c).guard
  waits : (w.chan c).state ≠ .running ∨ w.accessPresented c = true → t.waitingAccess c = w.waitingAccess c
  handed : ∀ r, HubRequestHanded w p r → HubRequestHanded t p r

theorem State.work_done {w t : State} {c : Channel} {p : Port} {d : Descriptor} (hd : (w.chan c).current = some d)
    (ho : (w.chan c).owner = some p) (ht : t = w.asOneAction ((w.work c).giveSlots p)) : WorkDone w t c p d := by
  have hkept := (KeepsHanded.work p w c).trans (.giveSlots ..)
  rw [State.asOneAction_of_events_same hkept.events] at ht
  rw [ht]
  exact ⟨hkept.events, (State.work_dataOnly ..).trans (State.giveSlots_dataOnly ..),
    fun hs hfree => (State.work_movesOn hs hd ho hfree).giveSlots,
    fun hbusy => (State.giveSlots_waitingAccess ..).trans (State.work_waitingAccess_of_busy hbusy), hkept.handed⟩

/-! ### Slots given where no STORE of the channel waits -/

/-- A slot given to another request than the channel's STORE leaves the channel as it is. -/
theorem State.noteSlotGiven_chan_of_not_store {s : State} {r : HubRequest} {c : Channel} (h : r.chan = c → r.op.isStore = false) :
    (s.noteSlotGiven r).chan c = s.chan c := by
  unfold State.noteSlotGiven
  split
  · next hop _ =>
    refine State.setChan_chan_other _ _ fun hc => ?_
    have hfetch := h hc.symm
    rw [hop] at hfetch
    cases hfetch
  · rfl

theorem NoStoreWaits.giveSlots_chan {s : State} {p : Port} {c : Channel} (h : NoStoreWaits s p c) :
    (s.giveSlots p).chan c = s.chan c := by
  suffices hn : ∀ n, (s.giveSlotsUpTo p n).chan c = s.chan c from hn 8
  intro n
  induction n generalizing s with
  | zero => rfl
  | succ n ih =>
    unfold State.giveSlotsUpTo
    split
    · next lc r hg =>
      obtain ⟨_, k, e, rest, _, _, hwait, hlc⟩ := LinkController.giveSlot_eq_some hg
      have hleft : NoStoreWaits ((s.setLink p lc).noteSlotGiven r) p c := fun d q hq => by
        refine h d q ?_
        rw [State.noteSlotGiven_link, State.setLink_link_self, hlc] at hq
        by_cases hd : d = e
        · subst hd
          rw [hwait]
          exact List.mem_cons_of_mem r (by simpa using hq)
        · simpa [Vector.getElem_set_ne, Fin.val_ne_of_ne (Ne.symm hd)] using hq
      refine (ih hleft).trans (State.noteSlotGiven_chan_of_not_store fun hc => h e r ?_ hc)
      rw [hwait]
      exact List.mem_cons_self
    · rfl

/-- A channel without chunks stays as it is. -/
theorem State.giveSlots_chan_of_nil {s : State} {c : Channel} (h : (s.chan c).chunks = []) (p : Port) :
    (s.giveSlots p).chan c = s.chan c := by
  rw [State.giveSlots_chan, State.giveSlots_chunks_nil h, ← h]

theorem State.giveSlot_eq_none {s : State} {p : Port} (h : ∀ v, ¬GivesOne p s v) : (s.link p).giveSlot = none := by
  cases hg : (s.link p).giveSlot with
  | none => rfl
  | some given => exact absurd (State.givesOne_of_giveSlot (lc := given.1) (r := given.2) hg) (h _)

theorem State.giveSlots_of_giveSlot_none {s : State} {p : Port} (h : (s.link p).giveSlot = none) : s.giveSlots p = s := by
  simp [State.giveSlots, State.giveSlotsUpTo, h]

/-- A FETCH handed is no STORE that waits. -/
theorem NoStoreWaits.handHub {s : State} {p : Port} {c : Channel} (h : NoStoreWaits s p c) {r : HubRequest}
    (hr : r.op.isStore = false) : NoStoreWaits (s.handHub r) p c := fun d q hq hc => by
  by_cases hd : d = r.chan
  · subst hd
    rw [State.handHub_waiting] at hq
    split at hq
    · rcases List.mem_append.mp hq with hold | hnew
      · exact h _ q hold hc
      · rw [List.mem_singleton.mp hnew, hr]
    · exact h _ q hq hc
  · rw [(RunOnly.handHub s r).waiting_other hd] at hq
    exact h d q hq hc

theorem NoStoreWaits.createFetches {s : State} {p : Port} {c : Channel} (h : NoStoreWaits s p c) (d : Descriptor) (n : Nat) :
    NoStoreWaits (s.createFetches c d n) p c := by
  induction n generalizing s with
  | zero => exact h
  | succ n ih =>
    unfold State.createFetches
    split
    · exact ih (NoStoreWaits.handHub (s := s.setChan c _) h rfl)
    · exact h

theorem State.presentFirst_link (s : State) (c : Channel) (p : Port) : (s.presentFirst c).link p = s.link p := by
  unfold State.presentFirst
  split
  · split <;> rfl
  · rfl

/-! ### A chunk whose data has come (R117) -/

/-- The chunk at a store address, of a length, holds data: ready to be written, or being written. -/
def ChannelContext.Holds (ctx : ChannelContext) (store len : Nat) (data : List Word) : Prop :=
  ∃ k ∈ ctx.chunks, k.store = store ∧ k.len = len ∧ k.buffer = data ∧ (k.state = .dataHeld ∨ k.state = .writing)

theorem ChannelContext.Holds.fillChunk {ctx : ChannelContext} {k : Chunk} (hk : k ∈ ctx.chunks) (data : List Word) :
    (ctx.fillChunk k.store data .dataHeld).Holds k.store k.len data := by
  refine ⟨_, List.mem_map_of_mem hk, ?_⟩
  rw [if_pos rfl]
  exact ⟨rfl, rfl, rfl, .inl rfl⟩

/-- Presenting the first chunk's write keeps what every chunk holds. -/
theorem ChannelContext.Holds.presentFirst {s : State} {c : Channel} {store len : Nat} {data : List Word}
    (h : (s.chan c).Holds store len data) : ((s.presentFirst c).chan c).Holds store len data := by
  unfold State.presentFirst
  split
  · next first _ _ =>
    split
    · obtain ⟨k, hk, hstore, hlen, hbuffer, hstate⟩ := h
      rw [State.setWaiting_chan, State.setChan_chan_self]
      refine ⟨_, List.mem_map_of_mem hk, ?_⟩
      split
      · exact ⟨hstore, hlen, hbuffer, .inr rfl⟩
      · exact ⟨hstore, hlen, hbuffer, hstate⟩
    · exact h
  · exact h

/-- The movement of a TO_STORE descriptor keeps what every chunk holds, and hands no STORE. -/
theorem State.work_toStore {s : State} {c : Channel} {p : Port} {d : Descriptor} (hd : (s.chan c).current = some d)
    (hk : d.kind = .toStore) {store len : Nat} {data : List Word} (h : (s.chan c).Holds store len data)
    (hn : NoStoreWaits s p c) : ((s.work c).chan c).Holds store len data ∧ NoStoreWaits (s.work c) p c := by
  have hcreated : ((s.createChunks c d).chan c).Holds store len data ∧ NoStoreWaits (s.createChunks c d) p c := by
    rw [State.createChunks, hk]
    dsimp only
    split
    · obtain ⟨new, hnew, _⟩ := s.createFetches_chunks c hk 4
      obtain ⟨k, hmem, hholds⟩ := h
      exact ⟨⟨k, by rw [hnew]; exact List.mem_append_left _ hmem, hholds⟩, hn.createFetches d 4⟩
    · exact ⟨h, hn⟩
  have hpresents : (s.createChunks c d).presentNext c d = (s.createChunks c d).presentFirst c := by
    rw [State.presentNext, hk]
  rw [State.work, hd]
  dsimp only
  split
  · rw [hpresents]
    refine ⟨hcreated.1.presentFirst, fun e q hq => hcreated.2 e q ?_⟩
    rw [State.presentFirst_link] at hq
    exact hq
  · exact hcreated

end Sys2Proof.Machine
end

section
/-! SUPPORT. A chunk retired (R112), and what follows it in the same action: the movement goes on, the run is COMPLETE (R97), or the
next-descriptor field decides (R96). -/

namespace Sys2Proof.Machine

/-! ### The chunk that leaves the list (R112) -/

theorem ChannelContext.retire_of_chunkAt {ctx : ChannelContext} {store : Nat} {k : Chunk} (h : ctx.chunkAt store = some k) :
    ctx.retire store = { ctx with chunks := ctx.chunks.filter fun j => j.store ≠ store, bytesMoved := ctx.bytesMoved + k.len } := by
  have htest : (fun j : Chunk => j.store != store) = fun j => decide (j.store ≠ store) := by
    funext j
    rw [Bool.eq_iff_iff, bne_iff_ne, decide_eq_true_iff]
  simp only [ChannelContext.retire, h, htest]

/-- A chunk after which the descriptor's data is done was the last of the list. -/
theorem ChannelContext.retire_of_done {ctx : ChannelContext} {store : Nat} {k : Chunk} (h : ctx.chunkAt store = some k)
    (hdone : (ctx.retire store).dataDone = true) :
    ctx.retire store = { ctx with chunks := [], bytesMoved := ctx.bytesMoved + k.len } := by
  have hnil := ChannelContext.chunks_of_dataDone hdone
  rw [ChannelContext.retire_of_chunkAt h] at hnil ⊢
  dsimp only at hnil
  rw [hnil]

theorem State.progress_of_working {w : State} {c : Channel} {d : Descriptor} (hd : (w.chan c).current = some d)
    (hdata : (w.chan c).dataDone = false) : w.progress c = w.work c := by
  simp [State.progress, hd, hdata]

theorem State.progress_of_done {w : State} {c : Channel} {d : Descriptor} (hd : (w.chan c).current = some d)
    (hdone : (w.chan c).dataDone = true) : w.progress c = w.descriptorDone c d := by
  simp [State.progress, hd, hdone]

/-! ### The events of a descriptor that is done -/

/-- The CHANNEL_MARK that a descriptor with NOTIFY hands when its data is done (step 1 of R96). -/
def Descriptor.marks (d : Descriptor) (p : Port) (c : Channel) (i : Nat) : List Handed :=
  if d.notify then [(p, .channelMark c i)] else []

theorem State.descriptorDone_eq {w : State} {c : Channel} {p : Port} (ho : (w.chan c).owner = some p) (d : Descriptor) :
    w.descriptorDone c d = if d.last then (w.hand (d.marks p c (w.chan c).index)).completeRun c
      else (w.hand (d.marks p c (w.chan c).index)).advance c := by
  unfold State.descriptorDone Descriptor.marks
  cases d.notify with
  | true => simp only [State.handOwner, ho, if_true]
  | false => rfl

/-- Marks and the event of the run's end are one action's. -/
theorem State.asOneAction_events_of_end {s t : State} {marks : List Handed} {e : Handed}
    (h : t.events = joined s.events marks ++ [[e]]) : (s.asOneAction t).events = s.events ++ [marks ++ [e]] := by
  rw [State.asOneAction_events, h]
  cases marks with
  | nil => simp [joined_cons]
  | cons m rest => simp [joined_cons]

/-! ### The run is COMPLETE (R97) -/

/-- The context of a run that is COMPLETE. -/
def ChannelContext.completed (ctx : ChannelContext) : ChannelContext :=
  { ctx with state := .complete, current := none, next := none, position := 0, stall := none }

theorem State.completeRun_eq {s : State} {c : Channel} {p : Port} (ho : (s.chan c).owner = some p) :
    s.completeRun c = (s.setChan c (s.chan c).completed).hand [(p, .channelEnd c .complete (s.chan c).bytesMoved)] := by
  have howner : ((s.setChan c (s.chan c).completed).chan c).owner = some p := by
    rw [State.setChan_chan_self]
    exact ho
  show (s.setChan c (s.chan c).completed).handOwner c _ = _
  rw [State.handOwner, howner]

/-- The last descriptor's data is done: the context by the end of the action, and the events of the action. -/
theorem State.descriptorDone_completes {w t : State} {c : Channel} {p : Port} {d : Descriptor} (ho : (w.chan c).owner = some p)
    (hk : (w.chan c).chunks = []) (hlast : d.last = true)
    (ht : t = w.asOneAction ((w.descriptorDone c d).giveSlots p)) :
    t.chan c = (w.chan c).completed
      ∧ t.events = w.events ++ [d.marks p c (w.chan c).index ++ [(p, .channelEnd c .complete (w.chan c).bytesMoved)]] := by
  have hdone : w.descriptorDone c d = ((w.hand (d.marks p c (w.chan c).index)).setChan c (w.chan c).completed).hand
      [(p, .channelEnd c .complete (w.chan c).bytesMoved)] := by
    rw [State.descriptorDone_eq ho, if_pos hlast]
    exact State.completeRun_eq (s := w.hand (d.marks p c (w.chan c).index)) ho
  have hchan : (w.descriptorDone c d).chan c = (w.chan c).completed := by
    rw [hdone, State.hand_chan, State.setChan_chan_self]
  rw [ht]
  refine ⟨(State.giveSlots_chan_of_nil (by rw [hchan]; exact hk) p).trans hchan, State.asOneAction_events_of_end ?_⟩
  rw [State.giveSlots_events, hdone]
  rfl

/-! ### The run goes on by its next-descriptor field (step 3 of R96) -/

/-- A fault of a run whose marks were handed before it, in the same action. -/
theorem FaultsRun.of_marked {w t : State} {c : Channel} {p : Port} {code : FaultCode} {i : Nat} {a : Option Nat}
    {marks : List Handed} (h : FaultsRun (w.hand marks) t c p code i a []) :
    FaultsRun w (w.asOneAction t) c p code i a marks := by
  obtain ⟨htaken, hengine, hdrains, hends⟩ := h
  have hflight : (w.hand marks).inFlight c = w.inFlight c := (RunOnly.hand w c marks).inFlight rfl
  rw [hflight] at hdrains hends
  refine ⟨htaken, ((EngineOnly.hand w marks).trans hengine).asOneAction, fun hf => ?_, fun hf => ?_⟩
  · obtain ⟨hstate, hevents⟩ := hdrains hf
    rw [joined_nil] at hevents
    exact ⟨hstate, State.asOneAction_events_of_joined hevents⟩
  · obtain ⟨hstate, hchunks, hevents⟩ := hends hf
    exact ⟨hstate, hchunks, State.asOneAction_events_of_end hevents⟩

/-- A run whose descriptor's data is done, its marks handed, goes on by its next-descriptor field in the same action. -/
theorem State.advance_advancesBy {w t : State} {c : Channel} {p : Port} {n : Lookahead} {marks : List Handed}
    (ho : (w.chan c).owner = some p) (hk : (w.chan c).chunks = []) (hn : (w.chan c).next = some n)
    (ht : t = w.asOneAction (((w.hand marks).advance c).giveSlots p)) : AdvancesBy w t c p (w.chan c).index n marks := by
  have hnext : ((w.hand marks).chan c).next = some n := hn
  have howner : ((w.hand marks).chan c).owner = some p := ho
  have hfaults : ∀ {v code i}, FaultsRun (w.hand marks) v c p code i none [] →
      FaultsRun w (w.asOneAction (v.giveSlots p)) c p code i none marks := fun h => (h.giveSlots p).of_marked
  refine ⟨?_, fun e he hlast => ?_, fun e he hlast hi => ?_, fun code he => ?_, fun he => ?_⟩
  · rw [ht]
    exact (((EngineOnly.hand ..).trans (.advance ..)).trans (.giveSlots ..)).asOneAction
  all_goals subst he
  · have hbegun := (State.becomeCurrent_runBegun howner (i := (w.chan c).index + 1) hlast).giveSlots
    rw [State.advance_valid hnext] at ht
    rw [ht]
    refine ⟨hbegun.becameCurrent.1, hbegun.becameCurrent.2, State.asOneAction_events_of_joined hbegun.events, fun hfree => ?_⟩
    rw [← hk]
    exact hbegun.data.moves hfree
  · rw [State.advance_valid hnext, State.hand_chan, hi] at ht
    rw [ht]
    exact hfaults (State.becomeCurrent_tooLong howner hlast)
  · rw [State.advance_invalid hnext] at ht
    rw [ht]
    exact hfaults (State.faultRun_faultsRun howner ..)
  · have hwaits : (w.hand marks).advance c = w.hand marks := by rw [State.advance, hnext]
    rw [hwaits] at ht
    rw [ht]
    exact ⟨State.giveSlots_chan_of_nil (s := w.hand marks) hk p, State.giveSlots_waitingAccess ..,
      State.asOneAction_events_of_joined (State.giveSlots_events ..)⟩

/-! ### After a chunk is retired -/

/-- What follows in the same action once a chunk has left the list, from w in which it has: in t the movement has gone
on, the run is COMPLETE, or it has gone on by its next-descriptor field (R96, R97, R113, R114). -/
structure ProgressDone (w t : State) (c : Channel) (p : Port) (d : Descriptor) : Prop where
  works : (w.chan c).dataDone = false → WorkDone w t c p d
  completes : (w.chan c).dataDone = true → d.last = true → t.chan c = (w.chan c).completed
    ∧ t.events = w.events ++ [d.marks p c (w.chan c).index ++ [(p, .channelEnd c .complete (w.chan c).bytesMoved)]]
  advances : ∀ n, (w.chan c).dataDone = true → d.last = false → (w.chan c).next = some n →
    AdvancesBy w t c p (w.chan c).index n (d.marks p c (w.chan c).index)

theorem State.progress_done {w t : State} {c : Channel} {p : Port} {d : Descriptor} (hd : (w.chan c).current = some d)
    (ho : (w.chan c).owner = some p) (ht : t = w.asOneAction ((w.progress c).giveSlots p)) : ProgressDone w t c p d := by
  refine ⟨fun hdata => ?_, fun hdone hlast => ?_, fun n hdone hlast hn => ?_⟩
  · rw [State.progress_of_working hd hdata] at ht
    exact State.work_done hd ho ht
  all_goals
    have hk := ChannelContext.chunks_of_dataDone hdone
    rw [State.progress_of_done hd hdone] at ht
  · exact State.descriptorDone_completes ho hk hlast ht
  · rw [State.descriptorDone_eq ho, if_neg (by rw [hlast]; decide)] at ht
    exact State.advance_advancesBy ho hk hn ht

end Sys2Proof.Machine
end

section
/-! SUPPORT. O43: the replies to a chunk's FETCH and STORE (R117, R118, Table 6.4). -/

namespace Sys2Proof.Machine

/-! ### The reply to a chunk's FETCH (R117) -/

/-- A TO_STORE chunk's data has come: the chunk holds it, and a RUNNING channel with no access presented presents the write of its
first chunk. -/
theorem State.fetchReply_fills {u t : State} {c : Channel} {p : Port} {d : Descriptor} {k : Chunk} {data : List Word}
    (ho : (u.chan c).owner = some p) (hd : (u.chan c).current = some d) (hkind : d.kind = .toStore)
    (hk : k ∈ (u.chan c).chunks) (hn : NoStoreWaits u p c)
    (ht : t = u.asOneAction ((u.chunkFetchEnding c k.store (.replyOk data)).giveSlots p)) :
    t.events = u.events ∧ (t.chan c).state = (u.chan c).state ∧ (t.chan c).bytesMoved = (u.chan c).bytesMoved
      ∧ (t.chan c).Holds k.store k.len data
      ∧ ((u.chan c).state = .running → u.accessPresented c = false → (u.chan c).chunks.head? = some k →
          t.waitingAccess c = some ⟨k.store, ⟨k.store, .write data, (u.chan c).guard⟩⟩)
      ∧ ((u.chan c).state = .stalled ∨ u.accessPresented c = true → t.waitingAccess c = u.waitingAccess c) := by
  have hchan := u.setChan_chan_self c ((u.chan c).fillChunk k.store data .dataHeld)
  have hending : u.chunkFetchEnding c k.store (.replyOk data)
      = (u.setChan c ((u.chan c).fillChunk k.store data .dataHeld)).work c := rfl
  have hwait : NoStoreWaits (u.setChan c ((u.chan c).fillChunk k.store data .dataHeld)) p c := hn
  have hpresented : (u.setChan c ((u.chan c).fillChunk k.store data .dataHeld)).accessPresented c = u.accessPresented c := rfl
  have hsame := u.setChan_waitingAccess c ((u.chan c).fillChunk k.store data .dataHeld) c
  have hevents := u.setChan_events c ((u.chan c).fillChunk k.store data .dataHeld)
  have haction : t = (u.setChan c ((u.chan c).fillChunk k.store data .dataHeld)).asOneAction
      (((u.setChan c ((u.chan c).fillChunk k.store data .dataHeld)).work c).giveSlots p) := ht
  generalize u.setChan c ((u.chan c).fillChunk k.store data .dataHeld) = w at *
  have hcurrent : (w.chan c).current = some d := by rw [hchan]; exact hd
  obtain ⟨hsilent, hcontext, hmoves, hwaits, _⟩ := State.work_done hcurrent (p := p) (by rw [hchan]; exact ho) haction
  obtain ⟨hholds, hfree⟩ := State.work_toStore hcurrent hkind
    (by rw [hchan]; exact ChannelContext.Holds.fillChunk hk data) hwait
  have hfinal : t.chan c = (w.work c).chan c := by
    rw [haction]
    exact hfree.giveSlots_chan
  rw [hpresented, hchan] at hmoves hwaits
  rw [hchan] at hcontext
  refine ⟨hsilent.trans hevents, by rw [hcontext]; rfl, by rw [hcontext]; rfl, by rw [hfinal]; exact hholds,
    fun hs hno hhead => ?_, fun hbusy => ?_⟩
  · rw [(hmoves hs hno).1, accessToPresent_toStore hkind, ChannelContext.fillChunk, List.head?_map, hhead]
    simp [writeAccess]
  · refine (hwaits (hbusy.imp_left fun hs => ?_)).trans hsame
    rw [show ((u.chan c).fillChunk k.store data .dataHeld).state = .stalled from hs]
    decide

/-! ### The reply to a chunk's STORE (R118) -/

/-- A FROM_STORE chunk's STORE was answered OK: the chunk is retired, and the action goes on from there. -/
theorem State.storeReply_retires {u t : State} {c : Channel} {p : Port} {d : Descriptor} {store : Nat} {data : List Word}
    (ho : (u.chan c).owner = some p) (hd : (u.chan c).current = some d)
    (ht : t = u.asOneAction ((u.chunkStoreEnding c store (.replyOk data)).giveSlots p)) :
    ProgressDone (u.setChan c ((u.chan c).retire store)) t c p d := by
  refine State.progress_done ?_ ?_ ht <;> rw [State.setChan_chan_self, ChannelContext.retire_eq]
  · exact hd
  · exact ho

/-- Settles O43, reply by reply: a chunk's data has come; a chunk is retired and the run moves on, is COMPLETE, or advances; or the
master failed the request. -/
theorem chunkRepliesMoveTheChunkOn : Obligations.ChunkRepliesMoveTheChunkOn := by
  refine ⟨fun s u p c d k st a n how rest hclaims hu hs ho hd hkind hk hst hn => ?_,
    fun s u p c d k st a words how rest hclaims hu hs ho hd hkind hk => ?_⟩
  all_goals
    have hactive : (u.chan c).state.active = true := by
      rw [hu]
      exact ChanState.active_of_moving hs
    have howner : (u.chan c).owner = some p := by rw [hu]; exact ho
    have hfails : ∀ {t}, t = u.asOneAction ((u.faultRun c .masterError (u.chan c).index (some st)).giveSlots p) →
        FaultsRun u t c p .masterError (u.chan c).index (some st) [] := fun ht => ht ▸ State.faultRun_atEnd howner ..
  · have htakes : (how = .replyFailed ∨ ∃ data, how = .replyOk data) →
        TakesEnding (.chunkFetchReply p) p ⟨c, .chunk st, .fetch a n⟩ how := fun hhow =>
      .inr (.inr ⟨hhow, .inr (.inr (.inl ⟨rfl, rfl, rfl⟩))⟩)
    refine ⟨fun data hhow => ?_, fun hhow => ?_⟩ <;> subst hhow
    · obtain ⟨t, hexec, hengine, hrest, ht⟩ := exec_takesEnding (htakes (.inr ⟨data, rfl⟩)) hclaims hu
      rw [State.takeEnding_active hactive] at ht
      subst hst hu
      have hfills := State.fetchReply_fills howner hd hkind hk hn ht
      exact ⟨t, hexec, hengine, hrest, hfills⟩
    · obtain ⟨t, hexec, _, hrest, ht⟩ := exec_takesEnding (htakes (.inl rfl)) hclaims hu
      rw [State.takeEnding_active hactive] at ht
      subst hu
      exact ⟨t, hexec, hrest, hfails ht⟩
  · have htakes : (how = .replyFailed ∨ ∃ data, how = .replyOk data) →
        TakesEnding (.chunkStoreReply p) p ⟨c, .chunk st, .store a words⟩ how := fun hhow =>
      .inr (.inr ⟨hhow, .inr (.inr (.inr ⟨rfl, rfl, rfl⟩))⟩)
    refine ⟨fun data hhow => ?_, fun hhow => ?_⟩ <;> subst hhow
    · obtain ⟨t, hexec, hengine, hrest, ht⟩ := exec_takesEnding (htakes (.inr ⟨data, rfl⟩)) hclaims hu
      rw [State.takeEnding_active hactive] at ht
      subst hu
      obtain ⟨hworks, hcompletes, hadvances⟩ := State.storeReply_retires (data := data) howner hd ht
      refine ⟨t, hexec, hengine, hrest, fun hdata => ?_, fun hdone hlast => ?_, fun n hdone hlast hnext => ?_⟩
      all_goals rw [State.setChan_chan_self] at hworks hcompletes hadvances
      · obtain ⟨hevents, hcontext, hmoves, hwaits, _⟩ := hworks hdata
        rw [State.setChan_chan_self, State.setClaims_chan, ChannelContext.retire_of_chunkAt hk] at hcontext hmoves hwaits
        refine ⟨hevents, by rw [hcontext], by rw [hcontext], hmoves, fun hbusy => hwaits (hbusy.imp_left fun hstalled => ?_)⟩
        rw [show (s.chan c).state = .stalled from hstalled]
        decide
      · obtain ⟨hctx, hevents⟩ := hcompletes hdone hlast
        rw [State.setClaims_chan, ChannelContext.retire_of_done hk hdone] at hctx hevents
        rw [hctx]
        exact ⟨rfl, rfl, rfl, rfl, hevents⟩
      · have hgoes := hadvances n hdone hlast (by rw [ChannelContext.retire_eq]; exact hnext)
        rw [State.setClaims_chan, ChannelContext.retire_of_done hk hdone] at hgoes
        exact hgoes
    · obtain ⟨t, hexec, _, hrest, ht⟩ := exec_takesEnding (htakes (.inl rfl)) hclaims hu
      rw [State.takeEnding_active hactive] at ht
      subst hu
      exact ⟨t, hexec, hrest, hfails ht⟩

end Sys2Proof.Machine
end

section
/-! SUPPORT. O44: timeouts and drops of hub requests (R127, R128), and what an ABORTING channel takes (R100, R101, Table 5.6). -/

namespace Sys2Proof.Machine

/-! ### The drain goes on, or ends -/

/-- An ABORTING channel whose action changed its chunks and the bytes moved, with no access waiting: it drains on, or ends (R101). -/
theorem State.finishAborting_drainsOn {u t : State} {c : Channel} {p : Port} {moved : Nat} {ks : List Chunk}
    (hs : (u.chan c).state = .aborting) (ho : (u.chan c).owner = some p) (hw : u.waitingAccess c = none)
    (ht : t = u.asOneAction (((u.setChan c { u.chan c with
      chunks := ks, bytesMoved := (u.chan c).bytesMoved + moved }).finishAborting c).giveSlots p)) :
    DrainsOn u t c p moved := by
  have hchan := u.setChan_chan_self c { u.chan c with chunks := ks, bytesMoved := (u.chan c).bytesMoved + moved }
  have hrun := RunOnly.setChan u c { u.chan c with chunks := ks, bytesMoved := (u.chan c).bytesMoved + moved }
  have hevents := u.setChan_events c { u.chan c with chunks := ks, bytesMoved := (u.chan c).bytesMoved + moved }
  have hengine := EngineOnly.setChan u c { u.chan c with chunks := ks, bytesMoved := (u.chan c).bytesMoved + moved }
  have hnone := (u.setChan_waitingAccess c { u.chan c with
    chunks := ks, bytesMoved := (u.chan c).bytesMoved + moved } c).trans hw
  generalize u.setChan c { u.chan c with chunks := ks, bytesMoved := (u.chan c).bytesMoved + moved } = v at *
  have hflight : v.inFlight c = u.inFlight c := hrun.inFlight (by rw [hchan])
  have hstate : (v.chan c).state = .aborting := by rw [hchan]; exact hs
  refine ⟨?_, fun hf => ?_, fun hf hm => ?_, fun hf hm => ?_⟩
  · rw [ht]
    exact ((hengine.trans (.finishAborting ..)).trans (.giveSlots ..)).asOneAction
  · rw [State.finishAborting_of_inFlight (hflight.trans hf), State.asOneAction_of_events_same
      ((State.giveSlots_events ..).trans hevents)] at ht
    rw [ht, State.giveSlots_chan, State.giveSlots_events, hchan]
    exact ⟨hs, hevents, rfl, rfl, rfl⟩
  · have hreset := v.setChan_chan_self c ChannelContext.reset
    have hsilent : ((v.setChan c ChannelContext.reset).giveSlots p).events = u.events :=
      (State.giveSlots_events ..).trans hevents
    rw [State.finishAborting_unbind hstate (hflight.trans hf) hnone (by rw [hchan]; exact hm),
      State.asOneAction_of_events_same hsilent] at ht
    rw [ht, State.giveSlots_chan_of_nil (by rw [hreset]; rfl)]
    exact ⟨hreset, hsilent⟩
  · have hends := State.finishAborting_keep (p := p) hstate (hflight.trans hf) hnone (by rw [hchan]; exact hm)
      (by rw [hchan]; exact ho)
    have hended : (v.chan c).ended = { v.chan c with
        state := (u.chan c).abortState, current := none, position := 0, chunks := [], endMode := none } := by
      rw [ChannelContext.ended, if_neg (by rw [hchan, hm]; decide), hchan]
      rfl
    have hfinal : (v.finishAborting c).chan c = (v.chan c).ended := by
      rw [hends, State.hand_chan, State.setChan_chan_self]
    have hlast : t.chan c = (v.chan c).ended := by
      rw [ht]
      exact (State.giveSlots_chan_of_nil (by rw [hfinal, hended]) p).trans hfinal
    have htold : t.events = u.events ++ [[(p, .channelEnd c (u.chan c).abortOutcome ((u.chan c).bytesMoved + moved))]] := by
      rw [ht, State.asOneAction_events_of_joined
        (l := [(p, .channelEnd c (u.chan c).abortOutcome ((u.chan c).bytesMoved + moved))]), joined_cons]
      rw [State.giveSlots_events, hends, hchan, joined_cons, ← hevents]
      rfl
    rw [hlast, hended, hchan, htold]
    refine ⟨rfl, rfl, rfl, rfl, rfl, fun f hfault => ?_, fun hfault => ?_⟩
    all_goals simp only [ChannelContext.abortState, ChannelContext.abortOutcome, hfault]
    all_goals exact ⟨trivial, trivial⟩

/-! ### What an ABORTING channel takes (Table 5.6) -/

theorem ChannelContext.retire_bytesMoved (ctx : ChannelContext) (store : Nat) :
    (ctx.retire store).bytesMoved = ctx.bytesMoved + ((ctx.chunkAt store).map fun k => k.len).getD 0 := by
  unfold ChannelContext.retire
  cases ctx.chunkAt store <;> rfl

/-- An ending taken in ABORTING changes the chunk list, adds what it moved, and asks whether the drain is over. -/
theorem State.endingInAbort_eq (u : State) (c : Channel) (r : HubRequest) (how : Ending) :
    ∃ ks, u.endingInAbort c r how = (u.setChan c { u.chan c with
      chunks := ks, bytesMoved := (u.chan c).bytesMoved + movedByEnding (u.chan c) r how }).finishAborting c := by
  unfold State.endingInAbort
  split
  · next data _ _ store hop hpurpose =>
    have hmoved : movedByEnding (u.chan c) r (.replyOk data) = (((u.chan c).chunkAt store).map fun k => k.len).getD 0 := by
      simp [movedByEnding, hop, hpurpose, Purpose.chunk?]
    refine ⟨(u.chan c).chunks.filter fun j => j.store != store, ?_⟩
    rw [ChannelContext.retire_eq, ChannelContext.retire_bytesMoved, hmoved]
  · next how _ _ _ hother =>
    have hnothing : movedByEnding (u.chan c) r how = 0 := by
      unfold movedByEnding
      split
      · next data a words store hop hchunk =>
        cases hpurpose : r.purpose with
        | chunk st => exact absurd hpurpose (hother data a words st rfl hop)
        | first | lookahead => rw [hpurpose] at hchunk; cases hchunk
      · rfl
    refine ⟨(u.chan c).chunks, ?_⟩
    rw [hnothing, Nat.add_zero, State.setChan_same]

/-- An outcome taken in ABORTING, likewise. -/
theorem State.outcomeInAbort_eq (u : State) (c : Channel) (a : ChannelAccess) (o : AccessOutcome) :
    ∃ ks, u.outcomeInAbort c a o = (u.setChan c { u.chan c with
      chunks := ks, bytesMoved := (u.chan c).bytesMoved + movedByOutcome (u.chan c) a o }).finishAborting c := by
  have hsame : movedByOutcome (u.chan c) a o = 0 → u.finishAborting c = (u.setChan c { u.chan c with
      chunks := (u.chan c).chunks, bytesMoved := (u.chan c).bytesMoved + movedByOutcome (u.chan c) a o }).finishAborting c :=
    fun hnothing => by rw [hnothing, Nat.add_zero, State.setChan_same]
  unfold State.outcomeInAbort
  split
  · next data swapped =>
    split
    · next hwrite =>
      have hmoved : movedByOutcome (u.chan c) a (.done data swapped)
          = (((u.chan c).chunkAt a.chunk).map fun k => k.len).getD 0 := by
        simp [movedByOutcome, hwrite]
      refine ⟨(u.chan c).chunks.filter fun j => j.store != a.chunk, ?_⟩
      rw [ChannelContext.retire_eq, ChannelContext.retire_bytesMoved, hmoved]
    · next hread => exact ⟨_, hsame (by simp [movedByOutcome, hread])⟩
  · next hother =>
    refine ⟨_, hsame ?_⟩
    unfold movedByOutcome
    split
    · next data swapped _ => exact absurd rfl (hother data swapped)
    · rfl

/-! ### Timeouts and drops (R127, R128) -/

/-- A timeout of a chunk's FETCH or STORE (R127). -/
theorem State.activeEnding_chunk_timeout (s : State) (c : Channel) (st : Nat) (op : HubOp) :
    s.activeEnding c ⟨c, .chunk st, op⟩ .timeout = s.faultRun c .masterTimeout (s.chan c).index (some st) := by
  cases op <;> rfl

/-- A drop leaves a run that is not ABORTING to the port-down claim that follows it (R128). -/
theorem State.takeEnding_dropped {s : State} {r : HubRequest} (h : (s.chan r.chan).state ≠ .aborting) :
    s.takeEnding r .dropped = s := by
  refine (if_neg h).trans ?_
  split
  · unfold State.activeEnding
    split
    · exact ite_self s
    · split
      · next hn =>
        have hfetching : ({ s.chan r.chan with next := some .fetching } : ChannelContext) = s.chan r.chan := by rw [← hn]
        have hwaits : s.advance r.chan = s := by rw [State.advance, hn]
        show (if ((s.setChan r.chan { s.chan r.chan with next := some .fetching }).chan r.chan).dataDone = true
          then (s.setChan r.chan { s.chan r.chan with next := some .fetching }).advance r.chan
          else s.setChan r.chan { s.chan r.chan with next := some .fetching }) = s
        rw [hfetching, State.setChan_same, hwaits, ite_self]
      · rfl
    · rfl
    · rfl
  · rfl

/-! ### O44 -/

/-- Settles O44: timeouts by what the request was for, drops, and what an ABORTING channel takes. -/
theorem timeoutsAndDropsAreTaken : Obligations.TimeoutsAndDropsAreTaken := by
  refine ⟨fun s u p c op rest hclaims hu hs ho => ?_, fun s u p c st op rest hclaims hu hs ho => ?_,
    fun s u p c op rest hclaims hu ha hn ho => ?_, fun s p r rest hclaims hs hdown => ?_,
    fun s u p cmd r how rest hclaims hu hs ho hw hcmd => ?_, fun s u p c a o hout hu hs ho hw => ?_⟩
  · obtain ⟨t, hexec, _, hrest, ht⟩ := exec_takesEnding (.inl ⟨rfl, rfl⟩) hclaims hu
    subst hu
    rw [State.takeEnding_first (s := s.setClaims p rest) hs] at ht
    exact ⟨t, hexec, hrest, ht ▸ State.faultRun_atEnd (u := s.setClaims p rest) ho ..⟩
  · obtain ⟨t, hexec, _, hrest, ht⟩ := exec_takesEnding (.inl ⟨rfl, rfl⟩) hclaims hu
    subst hu
    rw [State.takeEnding_active (s := s.setClaims p rest) (r := ⟨c, .chunk st, op⟩) (ChanState.active_of_moving hs),
      State.activeEnding_chunk_timeout] at ht
    exact ⟨t, hexec, hrest, ht ▸ State.faultRun_atEnd (u := s.setClaims p rest) ho ..⟩
  · obtain ⟨t, hexec, hengine, hrest, ht⟩ := exec_takesEnding (.inl ⟨rfl, rfl⟩) hclaims hu
    subst hu
    rw [State.takeEnding_lookahead (s := s.setClaims p rest) ha hn] at ht
    refine ⟨t, hexec, hrest, hengine, fun hdata => ?_, fun hdone => ?_⟩
    · obtain ⟨hevents, _, hctx, hnext⟩ := State.lookaheadEnding_waits (u := s.setClaims p rest) hdata ht
      exact ⟨hevents, hnext, by rw [hctx]; rfl⟩
    · rw [State.lookaheadEnding_advances (u := s.setClaims p rest) .timeout hdone] at ht
      exact State.setNext_advancesBy (u := s.setClaims p rest) ho hdone nofun ht
  · obtain ⟨t, hexec, _, _, ht⟩ := exec_takesEnding (.inr (.inl ⟨rfl, rfl⟩)) hclaims rfl
    rw [State.takeEnding_dropped (s := s.setClaims p rest) hs, State.giveSlots_of_not_up (s.setClaims p rest) p hdown,
      State.asOneAction_of_events_same rfl] at ht
    rw [hexec, ht]
  · obtain ⟨t, hexec, _, hrest, ht⟩ := exec_takesEnding hcmd hclaims hu
    subst hu
    obtain ⟨ks, hends⟩ := (s.setClaims p rest).endingInAbort_eq r.chan r how
    rw [State.takeEnding_aborting (s := s.setClaims p rest) hs, hends] at ht
    exact ⟨t, hexec, hrest, State.finishAborting_drainsOn hs ho hw ht⟩
  · obtain ⟨t, hexec, _, htaken, ht⟩ := exec_takesOutcome hout hu ho
    subst hu
    obtain ⟨ks, hends⟩ := (s.setOutcome c none).outcomeInAbort_eq c a o
    rw [State.takeOutcome_aborting (s := s.setOutcome c none) hs, hends] at ht
    exact ⟨t, hexec, htaken, State.finishAborting_drainsOn hs ho hw ht⟩

end Sys2Proof.Machine
end

section
/-! SUPPORT. O45: a channel's access that was refused (R121 to R123, R126). -/

namespace Sys2Proof.Machine

/-! ### The refusals of Table 6.3 -/

/-- The context of a channel that an OTHER_PORT refusal stalls, or finds STALLED (R123, R124). -/
def ChannelContext.stalledBy (ctx : ChannelContext) (a : ChannelAccess) (r : StallRecord) : ChannelContext :=
  { ctx with
    state := .stalled, stall := some r
    chunks := if a.access.op.isWrite then
      ctx.chunks.map fun k => if k.store = a.chunk then { k with state := .dataHeld } else k
      else ctx.chunks }

theorem State.stallChannel_eq_setChan (s : State) (c : Channel) (a : ChannelAccess) :
    s.stallChannel c a = s.setChan c ((s.chan c).stalledBy a (s.stallRecord c a)) := by
  rw [State.stallChannel_eq, ChannelContext.stalledBy]
  split <;> rfl

theorem State.activeOutcome_stalls {s : State} {c : Channel} {a : ChannelAccess} {d : Descriptor}
    (hd : (s.chan c).current = some d) (hhalt : d.haltOnLock = false) (k : LockSlot) :
    s.activeOutcome c a (.lockRefused k .otherPort) = s.stallChannel c a := by
  simp [State.activeOutcome, State.lockRefusedChannel, hd, hhalt]

/-- Every other failure is a fault, with its code (Table 6.3, R126). -/
theorem State.activeOutcome_faults {s : State} {c : Channel} {a : ChannelAccess} {d : Descriptor} {o : AccessOutcome}
    {code : FaultCode} (hd : (s.chan c).current = some d)
    (hcode : o = .guardFailed ∧ code = .guardLost ∨ (∃ k, o = .lockRefused k .ownPort) ∧ code = .selfLocked
      ∨ (∃ k, o = .lockRefused k .otherPort) ∧ d.haltOnLock = true ∧ code = .locked
      ∨ o = .dataError ∧ code = .dataError ∨ o = .poisoned ∧ code = .poisoned) :
    s.activeOutcome c a o = s.faultRun c code (s.chan c).index (some a.access.addr) := by
  rcases hcode with ⟨rfl, rfl⟩ | ⟨⟨k, rfl⟩, rfl⟩ | ⟨⟨k, rfl⟩, hhalt, rfl⟩ | ⟨rfl, rfl⟩ | ⟨rfl, rfl⟩
  · rfl
  · rfl
  · simp [State.activeOutcome, State.lockRefusedChannel, hd, hhalt]
  · rfl
  · rfl

/-! ### A stall, by the end of the action -/

/-- A channel stalled, and the slots given after it: with no STORE of it that waits, or with no slot to give, its chunks stay as the
refusal left them (R116, R118, R123). -/
theorem State.stalls_atEnd {u t : State} {c : Channel} {p : Port} {a : ChannelAccess}
    (ht : t = u.asOneAction ((u.stallChannel c a).giveSlots p)) :
    t.waitingAccess c = u.waitingAccess c ∧ t.events = u.events
      ∧ t.chan c = { (u.chan c).stalledBy a (u.stallRecord c a) with chunks := (t.chan c).chunks }
      ∧ SlotsGiven p (u.setChan c ((u.chan c).stalledBy a (u.stallRecord c a))) t
      ∧ (NoStoreWaits u p c ∨ (u.link p).giveSlot = none → t.chan c = (u.chan c).stalledBy a (u.stallRecord c a)) := by
  have hchan := u.setChan_chan_self c ((u.chan c).stalledBy a (u.stallRecord c a))
  have hsilent : ((u.setChan c ((u.chan c).stalledBy a (u.stallRecord c a))).giveSlots p).events = u.events :=
    State.giveSlots_events ..
  rw [State.stallChannel_eq_setChan, State.asOneAction_of_events_same hsilent] at ht
  subst ht
  refine ⟨State.giveSlots_waitingAccess .., hsilent, ?_, State.giveSlots_slotsGiven .., fun hstays => ?_⟩
  · have hgiven := State.giveSlots_chan (u.setChan c ((u.chan c).stalledBy a (u.stallRecord c a))) p c
    rw [hchan] at hgiven
    exact hgiven
  · rcases hstays with hn | hnone
    · exact (NoStoreWaits.giveSlots_chan (s := u.setChan c _) hn).trans hchan
    · rw [State.giveSlots_of_giveSlot_none (s := u.setChan c _) hnone, hchan]

/-- Settles O45: the stall, or the fault, that each refusal brings. -/
theorem refusedChunkStallsOrFaults : Obligations.RefusedChunkStallsOrFaults := by
  intro s u p c d a o hout hu hs ho hd
  obtain ⟨t, hexec, hengine, htaken, ht⟩ := exec_takesOutcome hout hu ho
  have hwhole : EngineOnly s u := by
    rw [hu]
    exact .setOutcome ..
  subst hu
  rw [State.takeOutcome_moving (s := s.setOutcome c none) hs] at ht
  refine ⟨fun k hk hhalt => ?_, fun code hcode => ?_⟩
  · subst hk
    rw [State.activeOutcome_stalls (s := s.setOutcome c none) hd hhalt] at ht
    obtain ⟨hwait, hevents, hctx, hslots, hstays⟩ := State.stalls_atEnd ht
    have hrecord : (t.chan c).stall = some ((s.setOutcome c none).stallRecord c a) := by
      rw [hctx]
      rfl
    refine ⟨t, hexec, hwhole.trans hengine, htaken, hwait, hevents, by rw [hctx]; rfl, by rw [hctx]; rfl, fun hnew => ?_,
      fun r hr => ?_, ?_, fun h => ?_⟩
    · rw [hrecord, State.stallRecord, State.setOutcome_chan, hnew]
      rfl
    · rw [hrecord, State.stallRecord, State.setOutcome_chan, hr]
      rfl
    · rw [hrecord]
      exact hslots
    · rw [hstays (h.imp_right (State.giveSlot_eq_none (s := s)))]
      refine ⟨fun hwrite k hk hstore => ?_, fun hread => if_neg (by rw [hread]; decide)⟩
      rw [ChannelContext.stalledBy, if_pos hwrite] at hk
      obtain ⟨j, _, rfl⟩ := List.mem_map.mp hk
      rw [Chunk.store_ite] at hstore
      rw [if_pos hstore]
  · rw [State.activeOutcome_faults (s := s.setOutcome c none) hd hcode] at ht
    exact ⟨t, hexec, htaken, ht ▸ State.faultRun_atEnd (u := s.setOutcome c none) ho ..⟩

end Sys2Proof.Machine
end

section
/-! SUPPORT. O46: a channel's access carried out (R117 to R120, R124). -/

namespace Sys2Proof.Machine

/-! ### The stall ends (R124) -/

/-- A context whose stall, if it had one, has ended. -/
def ChannelContext.unstalled (ctx : ChannelContext) : ChannelContext := { ctx with state := .running, stall := none }

theorem State.endStall_chan (s : State) (c : Channel) : (s.endStall c).chan c = (s.chan c).unstalled :=
  State.setChan_chan_self ..

theorem State.setChan_setChan (s : State) (c : Channel) (x y : ChannelContext) : (s.setChan c x).setChan c y = s.setChan c y := by
  simp [State.setChan]

/-- A write carried out ends the stall and retires its chunk. -/
theorem State.endStall_retire {s : State} {c : Channel} {store : Nat} {k : Chunk} (h : (s.chan c).chunkAt store = some k) :
    (s.endStall c).setChan c (((s.endStall c).chan c).retire store)
      = s.setChan c ((s.chan c).retire store).unstalled := by
  have hat : (s.chan c).unstalled.chunkAt store = some k := h
  rw [State.endStall_chan, State.endStall, State.setChan_setChan, ChannelContext.retire_of_chunkAt h,
    ChannelContext.retire_of_chunkAt hat]
  rfl

/-! ### A write carried out -/

theorem State.carriedOut_write {u t : State} {c : Channel} {p : Port} {d : Descriptor} {k : Chunk} {a : ChannelAccess}
    {data : List Word} {swapped : Option Bool} (ho : (u.chan c).owner = some p) (hd : (u.chan c).current = some d)
    (hk : (u.chan c).chunkAt a.chunk = some k) (hw : a.access.op.isWrite = true)
    (ht : t = u.asOneAction ((u.activeOutcome c a (.done data swapped)).giveSlots p)) :
    ProgressDone (u.setChan c ((u.chan c).retire a.chunk).unstalled) t c p d := by
  have hcarried : u.activeOutcome c a (.done data swapped)
      = (u.setChan c ((u.chan c).retire a.chunk).unstalled).progress c := by
    rw [← State.endStall_retire hk]
    exact if_pos hw
  rw [hcarried] at ht
  refine State.progress_done ?_ ?_ ht <;> rw [State.setChan_chan_self, ChannelContext.retire_eq]
  · exact hd
  · exact ho

/-! ### A read carried out -/

/-- The chunk that a read has filled, in its place in the list: FROM_STORE has read it, STORE_COPY holds its data to write. -/
def ChannelContext.readInto (ctx : ChannelContext) (d : Descriptor) (store : Nat) (data : List Word) : ChannelContext :=
  ctx.fillChunk store data (if d.kind = .fromStore then .readDone else .dataHeld)

/-- A channel whose read has filled its chunk, the chunk's STORE handed where the descriptor is FROM_STORE (R118, R119). -/
def State.readFilled (s : State) (c : Channel) (d : Descriptor) (k : Chunk) (store : Nat) (data : List Word) : State :=
  if d.kind = .fromStore then
    (s.setChan c ((s.chan c).readInto d store data)).handHub ⟨c, .chunk store, .store k.far data⟩
  else s.setChan c ((s.chan c).readInto d store data)

theorem State.chunkCarriedOut_read {s : State} {c : Channel} {d : Descriptor} {k : Chunk} {a : ChannelAccess}
    (hd : (s.chan c).current = some d) (hk : (s.chan c).chunkAt a.chunk = some k) (hr : a.access.op.isWrite = false)
    (data : List Word) : s.chunkCarriedOut c a data = (s.readFilled c d k a.chunk data).work c := by
  unfold State.chunkCarriedOut State.readFilled ChannelContext.readInto
  rw [if_neg (by rw [hr]; decide), hd, hk]
  dsimp only
  split <;> rfl

theorem State.readFilled_chan (s : State) (c : Channel) (d : Descriptor) (k : Chunk) (store : Nat) (data : List Word) :
    (s.readFilled c d k store data).chan c = (s.chan c).readInto d store data := by
  unfold State.readFilled
  split
  · rw [State.handHub_chan, State.setChan_chan_self]
  · exact State.setChan_chan_self ..

theorem RunOnly.readFilled (s : State) (c : Channel) (d : Descriptor) (k : Chunk) (store : Nat) (data : List Word) :
    RunOnly c s (s.readFilled c d k store data) := by
  unfold State.readFilled
  split
  · exact (RunOnly.setChan ..).trans (.handHub _ ⟨c, _, _⟩)
  · exact .setChan ..

theorem KeepsHanded.readFilled (p : Port) (s : State) (c : Channel) (d : Descriptor) (k : Chunk) (store : Nat)
    (data : List Word) : KeepsHanded p s (s.readFilled c d k store data) := by
  unfold State.readFilled
  split
  · exact (KeepsHanded.setChan ..).trans (.handHub ..)
  · exact .setChan ..

theorem State.readFilled_waitingAccess (s : State) (c : Channel) (d : Descriptor) (k : Chunk) (store : Nat)
    (data : List Word) : (s.readFilled c d k store data).waitingAccess c = s.waitingAccess c := by
  unfold State.readFilled
  split <;> simp

/-- FROM_STORE: the STORE of the chunk read is handed (step 2 of R118). -/
theorem State.readFilled_handed {s : State} {c : Channel} {p : Port} {d : Descriptor} (ho : (s.chan c).owner = some p)
    (hk : d.kind = .fromStore) (k : Chunk) (store : Nat) (data : List Word) :
    HubRequestHanded (s.readFilled c d k store data) p ⟨c, .chunk store, .store k.far data⟩ := by
  rw [State.readFilled, if_pos hk]
  refine HubRequestHanded.handHub_self (r := ⟨c, _, _⟩) ?_
  rw [State.setChan_chan_self]
  exact ho

/-- A read carried out ends the stall and fills its chunk, and the movement goes on. -/
theorem State.carriedOut_read {u t : State} {c : Channel} {p : Port} {d : Descriptor} {k : Chunk} {a : ChannelAccess}
    {data : List Word} {swapped : Option Bool} (ho : (u.chan c).owner = some p) (hd : (u.chan c).current = some d)
    (hk : (u.chan c).chunkAt a.chunk = some k) (hr : a.access.op.isWrite = false)
    (ht : t = u.asOneAction ((u.activeOutcome c a (.done data swapped)).giveSlots p)) :
    t.events = u.events ∧ ((u.chan c).readInto d a.chunk data).unstalled.DataOnly (t.chan c)
      ∧ (d.kind = .fromStore → HubRequestHanded t p ⟨c, .chunk a.chunk, .store k.far data⟩)
      ∧ (u.accessPresented c = false →
          MovesOn t c p d (u.chan c).position ((u.chan c).readInto d a.chunk data).chunks (u.chan c).guard) := by
  have hstalled := u.endStall_chan c
  have hrun : RunOnly c u (u.endStall c) := .setChan ..
  have hwait : (u.endStall c).waitingAccess c = u.waitingAccess c := u.setChan_waitingAccess ..
  have hevents : (u.endStall c).events = u.events := u.setChan_events ..
  have howner : ((u.endStall c).chan c).owner = some p := by rw [hstalled]; exact ho
  have hcarried := State.chunkCarriedOut_read (s := u.endStall c) (a := a) (k := k) (d := d) (by rw [hstalled]; exact hd)
    (by rw [hstalled]; exact hk) hr data
  have hchan := (u.endStall c).readFilled_chan c d k a.chunk data
  have hfilled := (RunOnly.readFilled (u.endStall c) c d k a.chunk data)
  have hkept := (KeepsHanded.readFilled p (u.endStall c) c d k a.chunk data).events
  have hsame := (u.endStall c).readFilled_waitingAccess c d k a.chunk data
  have hhanded := fun hkind => State.readFilled_handed (d := d) howner hkind k a.chunk data
  have haction : t = ((u.endStall c).readFilled c d k a.chunk data).asOneAction
      ((((u.endStall c).readFilled c d k a.chunk data).work c).giveSlots p) := by
    rw [ht, State.activeOutcome, hcarried]
    unfold State.asOneAction
    rw [hkept, hevents]
  generalize (u.endStall c).readFilled c d k a.chunk data = w at *
  have hpresented : w.accessPresented c = u.accessPresented c := (hrun.trans hfilled).accessPresented (hsame.trans hwait)
  have hctx : w.chan c = ((u.chan c).readInto d a.chunk data).unstalled := by
    rw [hchan, hstalled]
    rfl
  obtain ⟨hsilent, hcontext, hmoves, _, hstays⟩ := State.work_done (w := w) (d := d) (p := p) (by rw [hctx]; exact hd)
    (by rw [hctx]; exact ho) haction
  rw [hctx] at hcontext hmoves
  rw [hpresented] at hmoves
  exact ⟨hsilent.trans (hkept.trans hevents), hcontext, fun hkind => hstays _ (hhanded hkind), fun hfree => hmoves rfl hfree⟩

/-- The write of a STORE_COPY chunk that was read is what its list of one presents next (R119). -/
theorem accessToPresent_readInto {ctx : ChannelContext} {d : Descriptor} {k : Chunk} {store : Nat} (hkind : d.kind = .storeCopy)
    (hk : ctx.chunkAt store = some k) (hone : ctx.chunks = [k]) (data : List Word) (pos : Nat) (g : Option Handle) :
    accessToPresent d pos (ctx.readInto d store data).chunks g = some ⟨store, ⟨store, .write data, g⟩⟩ := by
  have hstore : k.store = store := by simpa using List.find?_some hk
  simp [accessToPresent, ChannelContext.readInto, ChannelContext.fillChunk, hone, hkind, hstore]

/-- With its outcome taken, a channel has no access presented unless one waits or is granted. -/
theorem State.accessPresented_of_taken {s : State} {c : Channel} (hw : s.waitingAccess c = none) (hg : s.grantedTo c = false) :
    (s.setOutcome c none).accessPresented c = false := by
  have hgranted : (s.setOutcome c none).grantedTo c = false := hg
  have hwaiting : (s.setOutcome c none).waitingAccess c = none := hw
  simp [State.accessPresented, State.accessGranted, hwaiting, hgranted]

/-! ### O46 -/

/-- Settles O46: a write retires its chunk, and what follows is that of any chunk retired; a read fills its chunk, and the movement
goes on. -/
theorem carriedOutChunkMovesOn : Obligations.CarriedOutChunkMovesOn := by
  intro s u p c d k a data swapped hout hu hs ho hd hk
  obtain ⟨t, hexec, hengine, htaken, ht⟩ := exec_takesOutcome hout hu ho
  have hwhole : EngineOnly s u := by
    rw [hu]
    exact .setOutcome ..
  subst hu
  rw [State.takeOutcome_moving (s := s.setOutcome c none) hs] at ht
  refine ⟨t, hexec, hwhole.trans hengine, htaken, fun hw hdata => ?_, fun hw hdone hlast => ?_,
    fun n hw hdone hlast hnext => ?_, fun hr => ?_⟩
  · have hworks := (State.carriedOut_write (u := s.setOutcome c none) ho hd hk hw ht).works
    rw [State.setChan_chan_self] at hworks
    obtain ⟨hevents, hcontext, hmoves, _, _⟩ := hworks hdata
    rw [State.setChan_chan_self, State.setOutcome_chan, ChannelContext.retire_of_chunkAt hk] at hcontext hmoves
    rw [hcontext]
    exact ⟨rfl, rfl, hevents, hd, rfl, fun hfree => hmoves rfl hfree⟩
  · have hcompletes := (State.carriedOut_write (u := s.setOutcome c none) ho hd hk hw ht).completes
    rw [State.setChan_chan_self] at hcompletes
    obtain ⟨hctx, hevents⟩ := hcompletes hdone hlast
    rw [State.setOutcome_chan, ChannelContext.retire_of_done hk hdone] at hctx hevents
    rw [hctx]
    exact ⟨rfl, rfl, rfl, rfl, rfl, rfl, hevents⟩
  · have hadvances := (State.carriedOut_write (u := s.setOutcome c none) ho hd hk hw ht).advances
    rw [State.setChan_chan_self, State.setOutcome_chan, ChannelContext.retire_of_done hk hdone] at hadvances
    rw [ChannelContext.retire_of_done hk hdone] at hdone
    exact hadvances n hdone hlast hnext
  · obtain ⟨hevents, hcontext, hhanded, hmoves⟩ := State.carriedOut_read (u := s.setOutcome c none) ho hd hk hr ht
    rw [hcontext]
    refine ⟨rfl, rfl, hevents, rfl, hhanded, hmoves, fun hkind hone hwait hgranted => ?_⟩
    rw [(hmoves (State.accessPresented_of_taken hwait hgranted)).1]
    exact accessToPresent_readInto hkind hk hone data _ _

end Sys2Proof.Machine
end

section
/-! SUPPORT. Law 7 of a notice queue (R133, R134, R136, R139): what each operation on a queue keeps of it. -/

namespace Sys2Proof.Machine

/-! ### The order of a queue (R133) -/

/-- Behind a PENDING record stand PENDING records alone. -/
theorem sentFirst_iff (q : List NoticeRecord) :
    sentFirst q = true ↔ q.Pairwise fun a b => a.isPending = true → b.isPending = true := by
  induction q with
  | nil => simp [sentFirst]
  | cons r rest ih =>
    rw [List.pairwise_cons, ← ih]
    cases hr : r.isPending with
    | false => simp [sentFirst, hr]
    | true =>
      have hfirst : sentFirst (r :: rest) = true ↔ ∀ b ∈ rest, b.isPending = true := by simp [sentFirst, hr]
      rw [hfirst]
      refine ⟨fun h => ⟨fun b hb _ => h b hb, ih.mpr ?_⟩, fun ⟨h, _⟩ b hb => h b hb rfl⟩
      exact List.pairwise_of_forall_mem_list fun _ _ b hb _ => h b hb

/-! ### Queues made from lawful ones -/

theorem queueLawful.nil (p : Port) : queueLawful p [] := ⟨rfl, Nat.zero_le 4, List.nodup_nil, nofun⟩

/-- Records that leave take nothing from the law. -/
theorem queueLawful.sublist {p : Port} {q q' : List NoticeRecord} (h : queueLawful p q) (hsub : q'.Sublist q) :
    queueLawful p q' := by
  obtain ⟨hfirst, hcount, hnodup, hrecords⟩ := h
  refine ⟨?_, (hsub.filter _).length_le.trans hcount, hnodup.sublist ((hsub.filter _).map _),
    fun r hr => hrecords r (hsub.subset hr)⟩
  rw [sentFirst_iff] at hfirst ⊢
  exact hfirst.sublist hsub

/-- A queue of PENDING records alone, each on a subject of its own. -/
theorem queueLawful.of_pending {p : Port} {q : List NoticeRecord} (hsent : ∀ r ∈ q, r.sent = none)
    (hnodup : (q.map fun r => r.event.subject).Nodup)
    (hrecords : ∀ r ∈ q, r.event.subject ≠ .peer p ∧ 1 ≤ r.occurrences ∧ r.occurrences ≤ 255) : queueLawful p q := by
  have hpending : ∀ r ∈ q, r.isPending = true := fun r hr => (NoticeRecord.isPending_iff r).mpr (hsent r hr)
  have hnone : q.filter (fun r => !r.isPending) = [] := List.filter_eq_nil_iff.mpr fun r hr => by simp [hpending r hr]
  refine ⟨?_, ?_, ?_, hrecords⟩
  · rw [sentFirst_iff]
    exact List.pairwise_of_forall_mem_list fun _ _ b hb _ => hpending b hb
  · simp [sentCount, hnone]
  · rwa [pendingSubjects, List.filter_eq_self.mpr hpending]

/-- Records changed where they stand, each still SENT or PENDING on its subject. -/
theorem queueLawful.map {p : Port} {q : List NoticeRecord} (h : queueLawful p q) {f : NoticeRecord → NoticeRecord}
    (hpending : ∀ r, (f r).isPending = r.isPending) (hsubject : ∀ r, (f r).event.subject = r.event.subject)
    (hoccurrences : ∀ r ∈ q, 1 ≤ (f r).occurrences ∧ (f r).occurrences ≤ 255) : queueLawful p (q.map f) := by
  obtain ⟨hfirst, hcount, hnodup, hrecords⟩ := h
  refine ⟨?_, ?_, ?_, ?_⟩
  · rw [sentFirst_iff] at hfirst ⊢
    simpa [List.pairwise_map, hpending] using hfirst
  · simpa [sentCount, List.filter_map, Function.comp_def, hpending] using hcount
  · simpa [pendingSubjects, List.filter_map, Function.comp_def, hpending, hsubject] using hnodup
  · intro r' hr'
    obtain ⟨r, hr, rfl⟩ := List.mem_map.mp hr'
    exact ⟨hsubject r ▸ (hrecords r hr).1, hoccurrences r hr⟩

/-! ### An event taken (R136) -/

/-- A new record joins the tail, on a subject that has no PENDING record. -/
theorem queueLawful.concat {p : Port} {q : List NoticeRecord} (h : queueLawful p q) {e : NoticeEvent}
    (hpeer : e.subject ≠ .peer p) (hnew : e.subject ∉ pendingSubjects q) : queueLawful p (q ++ [⟨e, 1, none⟩]) := by
  obtain ⟨hfirst, hcount, hnodup, hrecords⟩ := h
  have hsubjects : pendingSubjects (q ++ [⟨e, 1, none⟩]) = pendingSubjects q ++ [e.subject] := by
    simp [pendingSubjects, NoticeRecord.isPending]
  refine ⟨?_, ?_, ?_, ?_⟩
  · rw [sentFirst_iff] at hfirst ⊢
    refine List.pairwise_append.mpr ⟨hfirst, List.pairwise_singleton .., fun a _ b hb _ => ?_⟩
    rw [List.mem_singleton.mp hb]
    rfl
  · simpa [sentCount, NoticeRecord.isPending] using hcount
  · rw [hsubjects]
    exact List.nodup_append.mpr ⟨hnodup, List.nodup_singleton _, fun a ha b hb hab =>
      hnew (List.mem_singleton.mp hb ▸ hab ▸ ha)⟩
  · intro r hr
    rcases List.mem_append.mp hr with hr | hr
    · exact hrecords r hr
    · rw [List.mem_singleton.mp hr]
      exact ⟨hpeer, Nat.le_refl 1, Nat.le_of_ble_eq_true rfl⟩

/-- The PENDING record of a subject takes an event on it where it stands. -/
theorem queueLawful.merge {p : Port} {q : List NoticeRecord} (h : queueLawful p q) (e : NoticeEvent) :
    queueLawful p (q.map fun r => if r.pendingOn e.subject then r.merge e else r) := by
  obtain ⟨_, _, _, hrecords⟩ := id h
  refine h.map (fun r => ?_) (fun r => ?_) fun r hr => ?_
  · split <;> rfl
  · split
    · next hon => exact ((NoticeRecord.pendingOn_iff r _).mp hon).2.symm
    · rfl
  · obtain ⟨_, hrange⟩ := hrecords r hr
    split
    · rw [NoticeRecord.merge_occurrences]
      omega
    · exact hrange

theorem queueLawful.placeEvent {p : Port} {q : List NoticeRecord} (h : queueLawful p q) {e : NoticeEvent}
    (hpeer : e.subject ≠ .peer p) : queueLawful p (placeEvent q e) := by
  by_cases hold : e.subject ∈ pendingSubjects q
  · rw [placeEvent_merge q e hold]
    exact h.merge e
  · rw [placeEvent_new q e hold]
    exact h.concat hpeer hold

/-! ### Sending and acknowledgement (R139, R141) -/

/-- What is offered is the first PENDING record, and fewer than 4 records are SENT (R139). -/
theorem offered_eq_some {q : List NoticeRecord} {r : NoticeRecord} (h : offered q = some r) :
    sentCount q < 4 ∧ r.isPending = true ∧ ∃ front rest, q = front ++ r :: rest ∧ ∀ x ∈ front, x.isPending = false := by
  unfold offered at h
  split at h
  · next hcount =>
    obtain ⟨hr, front, rest, hq, hfront⟩ := List.find?_eq_some_iff_append.mp h
    exact ⟨hcount, hr, front, rest, hq, fun x hx => by simpa using hfront x hx⟩
  · cases h

/-- The record offered becomes SENT, the fourth at most. -/
theorem queueLawful.markSent {p : Port} {q : List NoticeRecord} (h : queueLawful p q) {r : NoticeRecord}
    (hoffered : offered q = some r) (seq : Byte) : queueLawful p (markSent seq q) := by
  obtain ⟨hcount, hr, front, rest, rfl, hfront⟩ := offered_eq_some hoffered
  obtain ⟨hfirst, _, hnodup, hrecords⟩ := h
  have hsent : ({ r with sent := some seq } : NoticeRecord).isPending = false := rfl
  rw [markSent_eq seq front r rest hfront hr]
  refine ⟨?_, ?_, ?_, ?_⟩
  · rw [sentFirst_iff, List.pairwise_append] at hfirst ⊢
    obtain ⟨hbefore, hbehind, _⟩ := hfirst
    refine ⟨hbefore, List.pairwise_cons.mpr ⟨nofun, (List.pairwise_cons.mp hbehind).2⟩, fun a ha b _ hp => ?_⟩
    simp [hfront a ha] at hp
  · have hone : sentCount (front ++ { r with sent := some seq } :: rest) = sentCount (front ++ r :: rest) + 1 := by
      simp [sentCount, hr, hsent, Nat.add_assoc]
    omega
  · refine hnodup.sublist ?_
    simp [pendingSubjects, hr, hsent]
  · intro x hx
    rcases List.mem_append.mp hx with hx | hx
    · exact hrecords x (List.mem_append_left _ hx)
    rcases List.mem_cons.mp hx with rfl | hx
    · exact hrecords r (by simp)
    · exact hrecords x (by simp [hx])

theorem queueLawful.acknowledge {p : Port} {q q' : List NoticeRecord} (h : queueLawful p q) {seq : Byte}
    (hack : acknowledge seq q = some q') : queueLawful p q' := by
  unfold Machine.acknowledge at hack
  split at hack
  · cases hack
    exact h.sublist ((List.drop_sublist ..).trans (List.dropWhile_sublist _))
  · cases hack

/-! ### A port-down event (R142) -/

/-- A list without its later copies holds nothing twice. -/
theorem nodup_eraseDups {α : Type} [BEq α] [LawfulBEq α] (l : List α) : l.eraseDups.Nodup := by
  match l with
  | [] => exact List.nodup_nil
  | a :: rest =>
    rw [List.eraseDups_cons]
    refine List.nodup_cons.mpr ⟨fun ha => ?_, nodup_eraseDups _⟩
    simpa using (List.mem_filter.mp (List.mem_eraseDups.mp ha)).2
termination_by l.length
decreasing_by exact Nat.lt_succ_of_le (List.length_filter_le ..)

theorem queueLawful.rewind {p : Port} {q : List NoticeRecord} (h : queueLawful p q) : queueLawful p (rewind q) := by
  have hsum := rewind_summarises h
  obtain ⟨_, _, _, hrecords⟩ := h
  have htold : ∀ b ∈ Machine.rewind q, ∃ r ∈ q, r.event.subject = b.event.subject := fun b hb =>
    (hsum.any_subject b.event.subject).mp (List.any_eq_true.mpr ⟨b, hb, by simp⟩)
  refine .of_pending hsum.sent (hsum.subjects ▸ nodup_eraseDups _) fun b hb => ?_
  obtain ⟨r, hr, hsubject⟩ := htold b hb
  obtain ⟨hpeer, hone, _⟩ := hrecords r hr
  have hmem : r.occurrences ∈ (q.filter fun x => decide (x.event.subject = b.event.subject)).map fun x => x.occurrences :=
    List.mem_map_of_mem (List.mem_filter.mpr ⟨hr, by simpa using hsubject⟩)
  have hsome := List.single_le_sum (fun _ _ => Nat.zero_le _) _ hmem
  rw [hsum.total b hb]
  exact ⟨hsubject ▸ hpeer, by omega, by omega⟩

end Sys2Proof.Machine
end

section
/-! SUPPORT. No event waits for a port about that port itself (law 7, R134): what the Channel Engine and the Lock Unit hand. -/

namespace Sys2Proof.Machine

/-! ### Events handed -/

/-- Of the events that wait after a change, each waited before it or is about another thing than the port it is for (R134). -/
structure HandsLawful (s t : State) : Prop where
  elsewhere : ∀ h ∈ t.events.flatten, h ∈ s.events.flatten ∨ h.2.subject ≠ .peer h.1

/-- No event of the list is about a port's link (Table 7.2). -/
structure TellsNoPeer (l : List Handed) : Prop where
  subject : ∀ h ∈ l, ∀ q, h.2.subject ≠ .peer q

theorem HandsLawful.of_same {s t : State} (h : t.events = s.events) : HandsLawful s t := ⟨fun _ hx => .inl (h ▸ hx)⟩

theorem HandsLawful.refl (s : State) : HandsLawful s s := .of_same rfl

theorem HandsLawful.trans {s t u : State} (h : HandsLawful s t) (h' : HandsLawful t u) : HandsLawful s u :=
  ⟨fun x hx => (h'.elsewhere x hx).elim (h.elsewhere x) .inr⟩

/-- The events of one more action are those handed with it. -/
theorem mem_flatten_joined (events : List (List Handed)) (new : List Handed) (x : Handed) :
    x ∈ (joined events new).flatten ↔ x ∈ events.flatten ∨ x ∈ new := by
  cases new with
  | nil => simp
  | cons e rest => rw [joined_cons, List.flatten_append, List.mem_append, List.flatten_singleton]

theorem HandsLawful.of_joined {s t : State} {l : List Handed} (h : t.events = joined s.events l)
    (hl : ∀ h ∈ l, h.2.subject ≠ .peer h.1) : HandsLawful s t :=
  ⟨fun x hx => ((mem_flatten_joined s.events l x).mp (h ▸ hx)).imp_right (hl x)⟩

theorem HandsLawful.hand {s : State} {l : List Handed} (hl : ∀ h ∈ l, h.2.subject ≠ .peer h.1) :
    HandsLawful s (s.hand l) := .of_joined rfl hl

theorem TellsNoPeer.ne_peer {l : List Handed} (hl : TellsNoPeer l) : ∀ h ∈ l, h.2.subject ≠ .peer h.1 :=
  fun h hh => hl.subject h hh h.1

/-- Putting an action's events together adds none. -/
theorem HandsLawful.asOneAction {s t : State} (h : HandsLawful s t) : HandsLawful s (s.asOneAction t) := by
  refine ⟨fun x hx => ?_⟩
  rw [State.asOneAction_events, mem_flatten_joined] at hx
  refine hx.elim .inl fun hnew => h.elsewhere x ?_
  obtain ⟨batch, hbatch, hmem⟩ := List.mem_flatten.mp hnew
  exact List.mem_flatten.mpr ⟨batch, List.mem_of_mem_drop hbatch, hmem⟩

theorem HandsLawful.foldl {α : Type} {f : State → α → State} (hf : ∀ s a, HandsLawful s (f s a)) (l : List α) (s : State) :
    HandsLawful s (l.foldl f s) := by
  induction l generalizing s with
  | nil => exact .refl s
  | cons a rest ih => exact (hf s a).trans (ih _)

/-! ### The Channel Engine: the end of a run -/

theorem HandsLawful.setChan (s : State) (c : Channel) (ctx : ChannelContext) : HandsLawful s (s.setChan c ctx) := .of_same rfl

theorem HandsLawful.giveSlots (s : State) (p : Port) : HandsLawful s (s.giveSlots p) := .of_same (s.giveSlots_events p)

theorem HandsLawful.handHub (s : State) (r : HubRequest) : HandsLawful s (s.handHub r) :=
  .of_same (KeepsHanded.handHub 0 s r).events

theorem HandsLawful.answer (s : State) (p : Port) (st : Status) (d : Option Half) (w : List Word) :
    HandsLawful s (s.answer p st d w) := .of_same (s.answer_events p st d w)

theorem HandsLawful.handOwner (s : State) (c : Channel) {e : NoticeEvent} (he : ∀ q, e.subject ≠ .peer q) :
    HandsLawful s (s.handOwner c e) := by
  unfold State.handOwner
  split
  · next p _ => exact .hand (by simpa using he p)
  · exact .refl s

theorem HandsLawful.finishAborting (s : State) (c : Channel) : HandsLawful s (s.finishAborting c) := by
  unfold State.finishAborting
  split
  · split
    · exact .setChan ..
    · exact (HandsLawful.setChan ..).trans (.handOwner _ _ fun _ => nofun)
  · exact .refl s

theorem HandsLawful.enterAborting (s : State) (c : Channel) (m : EndMode) : HandsLawful s (s.enterAborting c m) := by
  rw [State.enterAborting_eq]
  exact (HandsLawful.of_same (s.withdrawn_events c m)).trans (.finishAborting ..)

theorem HandsLawful.faultWith (s : State) (c : Channel) (m : EndMode) (code : FaultCode) (i : Nat) (a : Option Nat) :
    HandsLawful s (s.faultWith c m code i a) := (HandsLawful.setChan ..).trans (.enterAborting ..)

theorem HandsLawful.faultRun (s : State) (c : Channel) (code : FaultCode) (i : Nat) (a : Option Nat) :
    HandsLawful s (s.faultRun c code i a) := .faultWith ..

theorem HandsLawful.completeRun (s : State) (c : Channel) : HandsLawful s (s.completeRun c) :=
  (HandsLawful.setChan ..).trans (.handOwner _ _ fun _ => nofun)

/-! ### The Channel Engine: the movement of data -/

theorem HandsLawful.work (s : State) (c : Channel) : HandsLawful s (s.work c) := .of_same (KeepsHanded.work 0 s c).events

theorem HandsLawful.handLookahead (s : State) (c : Channel) : HandsLawful s (s.handLookahead c) :=
  (HandsLawful.setChan ..).trans (.handHub ..)

theorem HandsLawful.becomeCurrent (s : State) (c : Channel) (d : Descriptor) (i : Nat) :
    HandsLawful s (s.becomeCurrent c d i) := by
  unfold State.becomeCurrent
  dsimp only
  split
  · exact (HandsLawful.setChan ..).trans (.work ..)
  split
  · exact (HandsLawful.setChan ..).trans (.faultRun ..)
  split
  · exact ((HandsLawful.setChan ..).trans (.handLookahead ..)).trans (.work ..)
  · exact ((HandsLawful.setChan ..).trans (.work ..)).trans (.handLookahead ..)

theorem HandsLawful.advance (s : State) (c : Channel) : HandsLawful s (s.advance c) := by
  unfold State.advance
  split
  · exact .becomeCurrent ..
  · exact .faultRun ..
  all_goals exact .refl s

theorem HandsLawful.descriptorDone (s : State) (c : Channel) (d : Descriptor) : HandsLawful s (s.descriptorDone c d) := by
  have hmark : HandsLawful s (if d.notify then s.handOwner c (.channelMark c (s.chan c).index) else s) := by
    split
    · exact .handOwner _ _ fun _ => nofun
    · exact .refl s
  unfold State.descriptorDone
  dsimp only
  split
  · exact hmark.trans (.completeRun ..)
  · exact hmark.trans (.advance ..)

theorem HandsLawful.progress (s : State) (c : Channel) : HandsLawful s (s.progress c) := by
  unfold State.progress
  split
  · split
    · exact .descriptorDone ..
    · exact .work ..
  · exact .refl s

/-! ### The Channel Engine: the claims taken -/

theorem HandsLawful.endingInAbort (s : State) (c : Channel) (r : HubRequest) (how : Ending) :
    HandsLawful s (s.endingInAbort c r how) := by
  unfold State.endingInAbort
  split
  · exact (HandsLawful.setChan ..).trans (.finishAborting ..)
  · exact .finishAborting ..

theorem HandsLawful.firstEnding (s : State) (c : Channel) (how : Ending) : HandsLawful s (s.firstEnding c how) := by
  unfold State.firstEnding
  split
  · split
    · exact .becomeCurrent ..
    · exact .faultRun ..
  · exact .faultRun ..
  · exact .faultRun ..
  · exact .refl s

theorem HandsLawful.lookaheadEnding (s : State) (c : Channel) (how : Ending) :
    HandsLawful s (s.lookaheadEnding c how) := by
  have htaken := HandsLawful.setChan s c { s.chan c with next := some (lookaheadOf how) }
  unfold State.lookaheadEnding
  dsimp only
  split
  · exact htaken.trans (.advance ..)
  · exact htaken

theorem HandsLawful.chunkFetchEnding (s : State) (c : Channel) (st : Nat) (how : Ending) :
    HandsLawful s (s.chunkFetchEnding c st how) := by
  unfold State.chunkFetchEnding
  split
  · exact (HandsLawful.setChan ..).trans (.work ..)
  · exact .faultRun ..
  · exact .faultRun ..
  · exact .refl s

theorem HandsLawful.chunkStoreEnding (s : State) (c : Channel) (st : Nat) (how : Ending) :
    HandsLawful s (s.chunkStoreEnding c st how) := by
  unfold State.chunkStoreEnding
  split
  · exact (HandsLawful.setChan ..).trans (.progress ..)
  · exact .faultRun ..
  · exact .faultRun ..
  · exact .refl s

theorem HandsLawful.activeEnding (s : State) (c : Channel) (r : HubRequest) (how : Ending) :
    HandsLawful s (s.activeEnding c r how) := by
  unfold State.activeEnding
  split
  · split
    · exact .firstEnding ..
    · exact .refl s
  · split
    · exact .lookaheadEnding ..
    · exact .refl s
  · exact .chunkFetchEnding ..
  · exact .chunkStoreEnding ..

theorem HandsLawful.takeEnding (s : State) (r : HubRequest) (how : Ending) : HandsLawful s (s.takeEnding r how) := by
  unfold State.takeEnding
  split
  · exact .endingInAbort ..
  split
  · exact .activeEnding ..
  · exact .refl s

/-- A channel at its owner's port-down event: a soft loss faults an active run, a hard one is told to nobody (R106). -/
theorem HandsLawful.chanPortDown (s : State) (loss : Loss) (c : Channel) : HandsLawful s (s.chanPortDown loss c) := by
  cases loss with
  | hard => exact .of_same (s.chanPortDown_hard_events c)
  | soft =>
    cases ha : (s.chan c).state.active with
    | true =>
      rw [State.chanPortDown_soft_active ha]
      exact .faultWith ..
    | false =>
      rw [State.chanPortDown_soft_inactive ha]
      exact .refl s

theorem HandsLawful.takeClaim (s : State) (p : Port) : HandsLawful s (s.takeClaim p) := by
  unfold State.takeClaim
  split
  · next cl rest _ =>
    refine HandsLawful.trans (t := s.setClaims p rest) (.of_same rfl) ?_
    cases cl with
    | ending r how => exact ((HandsLawful.takeEnding ..).trans (.giveSlots ..)).asOneAction
    | portDown loss => exact (HandsLawful.foldl (fun t c => .chanPortDown t loss c) ..).asOneAction
  · exact .refl s

theorem HandsLawful.takeClaims (s : State) (p : Port) (n : Nat) : HandsLawful s (s.takeClaims p n) := by
  induction n generalizing s with
  | zero => exact .refl s
  | succ n ih => exact (HandsLawful.takeClaim s p).trans (ih _)

/-! ### The Channel Engine: outcomes and announcements -/

theorem HandsLawful.lockRefusedChannel (s : State) (c : Channel) (a : ChannelAccess) (cls : RefusalClass) :
    HandsLawful s (s.lockRefusedChannel c a cls) := by
  unfold State.lockRefusedChannel
  split
  · exact .faultRun ..
  split
  · split
    · exact .faultRun ..
    · exact .setChan ..
  · exact .refl s

theorem HandsLawful.chunkCarriedOut (s : State) (c : Channel) (a : ChannelAccess) (data : List Word) :
    HandsLawful s (s.chunkCarriedOut c a data) := by
  unfold State.chunkCarriedOut
  split
  · exact (HandsLawful.setChan ..).trans (.progress ..)
  split
  · split
    · exact ((HandsLawful.setChan ..).trans (.handHub ..)).trans (.work ..)
    · exact (HandsLawful.setChan ..).trans (.work ..)
  · exact .refl s

theorem HandsLawful.activeOutcome (s : State) (c : Channel) (a : ChannelAccess) (o : AccessOutcome) :
    HandsLawful s (s.activeOutcome c a o) := by
  unfold State.activeOutcome
  split
  · exact (HandsLawful.setChan ..).trans (.chunkCarriedOut ..)
  · exact .faultRun ..
  · exact .lockRefusedChannel ..
  · exact .faultRun ..
  · exact .faultRun ..

theorem HandsLawful.outcomeInAbort (s : State) (c : Channel) (a : ChannelAccess) (o : AccessOutcome) :
    HandsLawful s (s.outcomeInAbort c a o) := by
  unfold State.outcomeInAbort
  split
  · split
    · exact (HandsLawful.setChan ..).trans (.finishAborting ..)
    · exact .finishAborting ..
  · exact .finishAborting ..

theorem HandsLawful.takeOutcome (s : State) (c : Channel) (a : ChannelAccess) (o : AccessOutcome) :
    HandsLawful s (s.takeOutcome c a o) := by
  unfold State.takeOutcome
  split
  · exact .activeOutcome ..
  · exact .activeOutcome ..
  · exact .outcomeInAbort ..
  all_goals exact .refl s

theorem HandsLawful.setOutcome (s : State) (c : Channel) (o : Option (ChannelAccess × AccessOutcome)) :
    HandsLawful s (s.setOutcome c o) := .of_same rfl

theorem HandsLawful.giveOwnerSlots (s : State) (o : Option Port) : HandsLawful s (s.giveOwnerSlots o) := by
  cases o with
  | none => exact .refl s
  | some p => exact .giveSlots ..

theorem HandsLawful.retryStalled (s : State) (r : GranuleRange) (c : Channel) : HandsLawful s (s.retryStalled r c) := by
  unfold State.retryStalled
  split
  · split
    · refine .of_same ?_
      rw [State.setWaiting_events]
      split <;> rfl
    · exact .refl s
  · exact .refl s

/-! ### The Lock Unit -/

theorem TellsNoPeer.nil : TellsNoPeer [] := ⟨fun _ hx => absurd hx List.not_mem_nil⟩

theorem TellsNoPeer.append {l l' : List Handed} (h : TellsNoPeer l) (h' : TellsNoPeer l') : TellsNoPeer (l ++ l') :=
  ⟨fun x hx => (List.mem_append.mp hx).elim (h.subject x) (h'.subject x)⟩

theorem TellsNoPeer.cons {p : Port} {e : NoticeEvent} {l : List Handed} (he : ∀ q, e.subject ≠ .peer q) (h : TellsNoPeer l) :
    TellsNoPeer ((p, e) :: l) :=
  ⟨List.forall_mem_cons.mpr ⟨he, h.subject⟩⟩

/-- News of one lock alone. -/
theorem TellsNoPeer.lock {p : Port} {e : NoticeEvent} {k : LockSlot} (he : e.subject = .lock k) : TellsNoPeer [(p, e)] :=
  .cons (fun q => by rw [he]; nofun) .nil

theorem LockUnit.sweep_tellsNoPeer (u : LockUnit) : TellsNoPeer u.sweep.2 := by
  refine ⟨fun x hx => ?_⟩
  obtain ⟨h, hh⟩ := sweepFrom_events _ _ _ x hx
  rw [hh]
  exact fun _ => nofun

theorem LockUnit.releaseAndSweep_tellsNoPeer (u : LockUnit) (k : LockSlot) {ev : List Handed} (hev : TellsNoPeer ev)
    (r : List GranuleRange) : TellsNoPeer (u.releaseAndSweep k ev r).events := hev.append (LockUnit.sweep_tellsNoPeer _)

theorem LockUnit.lock_tellsNoPeer (u : LockUnit) (p : Port) (r : Claim) (wait : Bool) (limit quota waitDefault : Nat) :
    TellsNoPeer (u.lock p r wait limit quota waitDefault).effect.events := by
  unfold LockUnit.lock LockUnit.lockWaiting
  repeat' split
  all_goals exact .nil

theorem LockUnit.unlock_tellsNoPeer (u : LockUnit) (p : Port) (h : Handle) :
    TellsNoPeer (u.unlock p h).effect.events := by
  unfold LockUnit.unlock
  split
  · exact .nil
  · exact .nil
  · exact .nil
  · split
    · exact u.releaseAndSweep_tellsNoPeer _ .nil _
    · exact .nil
  · split
    · exact u.releaseAndSweep_tellsNoPeer _ .nil _
    · exact .nil

theorem LockUnit.renew_tellsNoPeer (u : LockUnit) (p : Port) (h : Handle) (lease : Nat) :
    TellsNoPeer (u.renew p h lease).effect.events := by
  unfold LockUnit.renew
  repeat' split
  all_goals exact .nil

theorem LockUnit.adopt_tellsNoPeer (u : LockUnit) (p : Port) (h : Handle) : TellsNoPeer (u.adopt p h).effect.events := by
  unfold LockUnit.adopt
  repeat' split
  all_goals exact .nil

theorem LockUnit.reclaim_tellsNoPeer (u : LockUnit) (sup : Port) (h : Handle) :
    TellsNoPeer (u.reclaim sup h).effect.events := by
  unfold LockUnit.reclaim
  repeat' split
  all_goals exact .nil

theorem LockUnit.forceRelease_tellsNoPeer (u : LockUnit) (sup : Port) (k : LockSlot) :
    TellsNoPeer (u.forceRelease sup k).effect.events := by
  unfold LockUnit.forceRelease
  split
  · exact .nil
  all_goals exact u.releaseAndSweep_tellsNoPeer _ (.lock rfl) _

theorem LockUnit.leaseExpiry_tellsNoPeer {u : LockUnit} {k : LockSlot} {e : LockEffect} (h : u.leaseExpiry k = some e) :
    TellsNoPeer e.events := by
  unfold LockUnit.leaseExpiry at h
  split at h
  · split at h
    · cases h
      exact u.releaseAndSweep_tellsNoPeer _ (.lock rfl) _
    · cases h
  · cases h

theorem LockUnit.waitExpiry_tellsNoPeer {u : LockUnit} {k : LockSlot} {e : LockEffect} (h : u.waitExpiry k = some e) :
    TellsNoPeer e.events := by
  unfold LockUnit.waitExpiry at h
  split at h
  · split at h
    · cases h
      exact u.releaseAndSweep_tellsNoPeer _ (.lock rfl) _
    · cases h
  · cases h

theorem LockUnit.orphanExpiry_tellsNoPeer {u : LockUnit} {sup : Port} {k : LockSlot} {e : LockEffect}
    (h : u.orphanExpiry sup k = some e) : TellsNoPeer e.events := by
  unfold LockUnit.orphanExpiry at h
  split at h
  · split at h
    · cases h
      refine u.releaseAndSweep_tellsNoPeer _ (.cons ?_ (.lock rfl)) _
      exact fun _ => nofun
    · cases h
  · cases h

theorem LockUnit.removeWaiting_tellsNoPeer (u : LockUnit) (p : Port) : TellsNoPeer (u.removeWaiting p).2 := by
  unfold LockUnit.removeWaiting
  split
  · exact .lock rfl
  · exact .nil

theorem LockUnit.orphanAll_tellsNoPeer (u : LockUnit) (loss : Loss) (hold : Nat) (sup : Port) (l : List LockSlot) :
    TellsNoPeer (u.orphanAll loss hold sup l).2 := by
  induction l generalizing u with
  | nil => exact .nil
  | cons k rest ih =>
    refine TellsNoPeer.append ?_ (ih _)
    unfold LockUnit.orphan
    split
    · exact .lock rfl
    · exact .nil

theorem LockUnit.breakAll_tellsNoPeer (u : LockUnit) (sup : Port) (l : List LockSlot) :
    TellsNoPeer (u.breakAll sup l).events := by
  induction l generalizing u with
  | nil => exact .nil
  | cons k rest ih =>
    refine TellsNoPeer.append ?_ (ih _)
    unfold LockUnit.breakHeld
    split
    · exact .cons (fun _ => nofun) (.lock rfl)
    · exact .nil

theorem LockUnit.loseEntries_tellsNoPeer (u : LockUnit) (p : Port) (loss : Loss) (hold : Nat) (sup : Port) :
    TellsNoPeer (u.loseEntries p loss hold sup).events := by
  unfold LockUnit.loseEntries
  dsimp only
  split
  · exact (u.removeWaiting_tellsNoPeer p).append (LockUnit.breakAll_tellsNoPeer ..)
  · exact (u.removeWaiting_tellsNoPeer p).append (LockUnit.orphanAll_tellsNoPeer ..)

theorem LockUnit.portDown_tellsNoPeer (u : LockUnit) (p : Port) (loss : Loss) (hold : Nat) (sup : Port) :
    TellsNoPeer (u.portDown p loss hold sup).events := by
  have hlost := u.loseEntries_tellsNoPeer p loss hold sup
  unfold LockUnit.portDown
  dsimp only
  split
  · exact hlost.append (LockUnit.sweep_tellsNoPeer _)
  · exact hlost

end Sys2Proof.Machine
end

section
/-! SUPPORT. O57: which operations of the hub keep law 7 of the notice queues; first those that the commands are made of. -/

namespace Sys2Proof.Machine

/-! ### Changes that keep the law -/

/-- A change that keeps every notice queue lawful, and no event waiting for a port about that port itself (R134). -/
structure NoticesKept (s t : State) : Prop where
  lawful : s.noticesLawful → t.noticesLawful

theorem NoticesKept.refl (s : State) : NoticesKept s s := ⟨id⟩

theorem NoticesKept.trans {s t u : State} (h : NoticesKept s t) (h' : NoticesKept t u) : NoticesKept s u :=
  ⟨fun hs => h'.lawful (h.lawful hs)⟩

/-- Queues that stay or become lawful ones, and events lawfully handed. -/
theorem NoticesKept.of_queues {s t : State} (hq : ∀ p, queueLawful p (s.queue p) → queueLawful p (t.queue p))
    (he : HandsLawful s t) : NoticesKept s t := by
  refine ⟨fun ⟨hqueues, hevents⟩ => ⟨fun p => hq p (hqueues p), fun batch hbatch h hh => ?_⟩⟩
  rcases he.elsewhere h (List.mem_flatten.mpr ⟨batch, hbatch, hh⟩) with hold | hnew
  · obtain ⟨old, hold, hmem⟩ := List.mem_flatten.mp hold
    exact hevents old hold h hmem
  · exact hnew

theorem NoticesKept.of_hands {s t : State} (hn : t.notices = s.notices) (he : HandsLawful s t) : NoticesKept s t := by
  refine .of_queues (fun p => ?_) he
  rw [State.queue, State.queue, hn]
  exact id

theorem NoticesKept.of_left {s t : State} (hn : t.notices = s.notices) (he : t.events = s.events) : NoticesKept s t :=
  .of_hands hn (.of_same he)

/-- The Channel Engine has no part in the queues. -/
theorem NoticesKept.ofEngine {s t : State} (h : EngineOnly s t) (he : HandsLawful s t) : NoticesKept s t := by
  obtain ⟨_, _, _, _, _, _, _, _, _, hnotices, _⟩ := h.kept
  exact .of_hands hnotices he

theorem NoticesKept.setLink (s : State) (p : Port) (lc : LinkController) : NoticesKept s (s.setLink p lc) := .of_left rfl rfl

theorem NoticesKept.setChan (s : State) (c : Channel) (ctx : ChannelContext) : NoticesKept s (s.setChan c ctx) :=
  .of_left rfl rfl

theorem NoticesKept.setArbiter (s : State) (a : Arbiter) : NoticesKept s (s.setArbiter a) := .of_left rfl rfl

theorem NoticesKept.setSettings (s : State) (t : Settings) : NoticesKept s (s.setSettings t) := .of_left rfl rfl

theorem NoticesKept.hand {s : State} {l : List Handed} (hl : ∀ h ∈ l, h.2.subject ≠ .peer h.1) : NoticesKept s (s.hand l) :=
  .of_hands rfl (.hand hl)

theorem NoticesKept.answer (s : State) (p : Port) (st : Status) (d : Option Half) (w : List Word) :
    NoticesKept s (s.answer p st d w) := .ofEngine (.answer ..) (.answer ..)

theorem NoticesKept.giveSlots (s : State) (p : Port) : NoticesKept s (s.giveSlots p) := .ofEngine (.giveSlots ..) (.giveSlots ..)

theorem NoticesKept.takeClaim (s : State) (p : Port) : NoticesKept s (s.takeClaim p) := .ofEngine (.takeClaim ..) (.takeClaim ..)

/-! ### The Notice Unit -/

theorem NoticesKept.setQueue {s : State} {p : Port} {q : List NoticeRecord}
    (h : queueLawful p (s.queue p) → queueLawful p q) : NoticesKept s (s.setQueue p q) := by
  refine .of_queues (fun r hr => ?_) (.of_same rfl)
  by_cases hrp : r = p
  · subst hrp
    rw [State.setQueue_queue_self]
    exact h hr
  · rwa [State.setQueue_queue_other _ _ hrp]

/-- An event that is not about the port it is for is taken. -/
theorem NoticesKept.takeEvent (s : State) {p : Port} {e : NoticeEvent} (he : e.subject ≠ .peer p) :
    NoticesKept s (s.takeEvent p e) := by
  unfold State.takeEvent
  split
  · exact .setQueue fun h => h.placeEvent he
  · exact .refl s

theorem NoticesKept.sendNotice (s : State) (p : Port) : NoticesKept s (s.sendNotice p) := by
  unfold State.sendNotice
  split
  · next r hr => exact (NoticesKept.setQueue fun h => h.markSent hr _).trans (.of_left rfl rfl)
  · exact .refl s

theorem NoticesKept.takeNoticePortDown (s : State) (p : Port) : NoticesKept s (s.takeNoticePortDown p) := by
  unfold State.takeNoticePortDown
  split
  · exact .refl s
  · exact (NoticesKept.setQueue queueLawful.rewind).trans (.of_left rfl rfl)
  · exact (NoticesKept.setQueue fun _ => .nil p).trans (.of_left rfl rfl)

/-- The event taken is one that waited; the others go on waiting. -/
theorem HandsLawful.dropEvent {s : State} {k : Nat} {h : Handed} {rest : List Handed} (hk : s.events[k]? = some (h :: rest)) :
    HandsLawful s { s with events := dropEvent k rest s.events } := by
  have hwaits : h :: rest ∈ s.events := List.mem_of_getElem? hk
  refine ⟨fun x hx => .inl ?_⟩
  obtain ⟨batch, hbatch, hmem⟩ := List.mem_flatten.mp hx
  show x ∈ s.events.flatten
  simp only [Machine.dropEvent] at hbatch
  split at hbatch
  · exact List.mem_flatten.mpr ⟨batch, List.mem_of_mem_eraseIdx hbatch, hmem⟩
  · rcases List.mem_or_eq_of_mem_set hbatch with hold | rfl
    · exact List.mem_flatten.mpr ⟨batch, hold, hmem⟩
    · exact List.mem_flatten.mpr ⟨_, hwaits, List.mem_cons_of_mem h hmem⟩

/-! ### The Lock Unit -/

theorem NoticesKept.lockEffect {s : State} {e : LockEffect} (h : TellsNoPeer e.events) : NoticesKept s (s.lockEffect e) :=
  .of_hands rfl (.of_joined (s.lockEffect_events e) h.ne_peer)

theorem NoticesKept.lockAnswer {s : State} {a : LockAnswer} (h : TellsNoPeer a.effect.events) (p : Port) :
    NoticesKept s (s.lockAnswer p a) := (NoticesKept.lockEffect h).trans (.answer ..)

theorem NoticesKept.expire {s : State} {o : Option LockEffect} (h : ∀ e, o = some e → TellsNoPeer e.events) :
    NoticesKept s (s.expire o) := by
  cases o with
  | none => exact .refl s
  | some e => exact .lockEffect (h e rfl)

theorem NoticesKept.takeLockPortDown (s : State) (p : Port) : NoticesKept s (s.takeLockPortDown p) := by
  unfold State.takeLockPortDown
  split
  · exact .refl s
  · exact (NoticesKept.lockEffect (LockUnit.portDown_tellsNoPeer ..)).trans (.of_left rfl rfl)

/-! ### A port goes down, and comes up -/

/-- News of a port for the other ports alone is not about the port it is for (R145). -/
theorem subject_ne_of_otherPorts {p : Port} {e : NoticeEvent} (he : e.subject = .peer p) :
    ∀ h ∈ (otherPorts p).map fun q => (q, e), h.2.subject ≠ .peer h.1 := by
  intro h hh
  obtain ⟨q, hq, rfl⟩ := List.mem_map.mp hh
  have hother : q ≠ p := by simpa [otherPorts] using (List.mem_filter.mp hq).2
  rw [he]
  exact fun hpeer => hother (Subject.peer.inj hpeer).symm

theorem NoticesKept.portDownEvent (s : State) (p : Port) (dest : LinkState) (cause : DownCause) (loss : Loss) :
    NoticesKept s (s.portDownEvent p dest cause loss) := by
  have hdropped : NoticesKept s ((s.setLink p ((s.link p).lose dest cause)).dropAll p) := by
    rw [State.dropAll_frame]
    exact .of_left rfl rfl
  unfold State.portDownEvent
  generalize (s.setLink p ((s.link p).lose dest cause)).dropAll p = t at hdropped
  have hclaimed : NoticesKept t (t.handPortDown p loss) := .of_left rfl rfl
  exact (hdropped.trans hclaimed).trans (.hand (subject_ne_of_otherPorts rfl))

theorem NoticesKept.takeArbiterPortDown (s : State) (p : Port) : NoticesKept s (s.takeArbiterPortDown p) := by
  by_cases h : (s.portDown p).arbiter = true
  · rw [State.takeArbiterPortDown_eq h]
    exact .of_left rfl rfl
  · rw [State.takeArbiterPortDown, if_neg h]
    exact .refl s

theorem NoticesKept.settlePort (s : State) (p : Port) : NoticesKept s (s.settlePort p) :=
  (((NoticesKept.takeLockPortDown s p).trans (.takeArbiterPortDown ..)).trans (.ofEngine (.takeClaims ..) (.takeClaims ..))).trans
    (.takeNoticePortDown ..)

theorem NoticesKept.portUpEvent (s : State) (p : Port) : NoticesKept s (s.portUpEvent p) :=
  (((NoticesKept.settlePort s p).trans (.setLink ..)).trans (.hand (subject_ne_of_otherPorts rfl))).trans (.giveSlots ..)

/-! ### The links -/

theorem NoticesKept.endRequest (s : State) (p : Port) (h : HubSlot) (r : HubRequest) (how : Ending) :
    NoticesKept s (s.endRequest p h r how) := by
  refine NoticesKept.trans (t := (s.setLink p ((s.link p).freeSlotOf h)).claim p (.ending r how)) ?_ (.giveSlots ..)
  exact .of_left rfl rfl

theorem NoticesKept.linkFails (s : State) (p : Port) (cause : DownCause) : NoticesKept s (s.linkFails p cause) := by
  unfold State.linkFails
  split
  · exact .portDownEvent ..
  · exact .setLink ..
  all_goals exact .refl s

theorem NoticesKept.receiveHello (s : State) (p : Port) : NoticesKept s (s.receiveHello p) := by
  unfold State.receiveHello
  split
  · split
    · exact .of_left rfl rfl
    · exact .refl s
  · exact .of_left rfl rfl
  all_goals exact .refl s

theorem NoticesKept.takeReady (s : State) (p : Port) (n : Nat) : NoticesKept s (s.takeReady p n) := by
  have htaken := NoticesKept.setLink s p { s.link p with slotsAllowed := n, readyTaken := some true }
  unfold State.takeReady
  dsimp only
  split
  · exact htaken.trans (.portUpEvent ..)
  · exact htaken

theorem NoticesKept.receiveReady (s : State) (p : Port) (word : Word) : NoticesKept s (s.receiveReady p word) := by
  unfold State.receiveReady
  split
  · split
    · exact .refl s
    split
    · exact .setLink ..
    · exact .takeReady ..
  all_goals exact .refl s

theorem NoticesKept.receiveRequest (s : State) (p : Port) (pkt : Packet) : NoticesKept s (s.receiveRequest p pkt) := by
  unfold State.receiveRequest
  split
  · split
    · exact .portDownEvent ..
    split
    · exact .portDownEvent ..
    · exact .setLink ..
  · exact .setLink ..
  all_goals exact .refl s

theorem NoticesKept.receiveFetchReply (s : State) (p : Port) (tag : Byte) (payload : List Word) :
    NoticesKept s (s.receiveFetchReply p tag payload) := by
  unfold State.receiveFetchReply
  split
  · split
    · exact .endRequest ..
    · exact .refl s
  · exact .setLink ..
  all_goals exact .refl s

theorem NoticesKept.receiveStoreReply (s : State) (p : Port) (tag : Byte) (payload : List Word) :
    NoticesKept s (s.receiveStoreReply p tag payload) := by
  unfold State.receiveStoreReply
  split
  · split
    · exact .endRequest ..
    · exact .refl s
  · exact .setLink ..
  all_goals exact .refl s

theorem NoticesKept.receivePacket (s : State) (p : Port) (pkt : Packet) : NoticesKept s (s.receivePacket p pkt) := by
  unfold State.receivePacket
  split
  · exact .receiveFetchReply ..
  · exact .receiveStoreReply ..
  · exact .receiveHello ..
  · exact .receiveReady ..
  · exact .receiveRequest ..

theorem NoticesKept.sendResponse (s : State) (p : Port) : NoticesKept s (s.sendResponse p) := by
  unfold State.sendResponse
  split
  · exact .of_left rfl rfl
  · exact .refl s

theorem NoticesKept.sendHubRequest (s : State) (p : Port) : NoticesKept s (s.sendHubRequest p) := by
  unfold State.sendHubRequest
  split
  · split
    · exact .of_left rfl rfl
    · exact .refl s
  · exact .refl s

theorem NoticesKept.assertPrst (s : State) (p : Port) : NoticesKept s (s.assertPrst p) := by
  have hpin := NoticesKept.setLink s p { s.link p with prst := true }
  unfold State.assertPrst
  dsimp only
  split
  · exact hpin.trans (.portDownEvent ..)
  · exact hpin.trans (.setLink ..)
  · exact hpin.trans (.setLink ..)
  all_goals exact hpin

theorem NoticesKept.releasePrst (s : State) (p : Port) : NoticesKept s (s.releasePrst p) := by
  have hpin := NoticesKept.setLink s p { s.link p with prst := false }
  unfold State.releasePrst
  dsimp only
  split
  · exact hpin.trans (.setLink ..)
  all_goals exact hpin

theorem NoticesKept.fenceLink (s : State) (q : Port) : NoticesKept s (s.fenceLink q) := by
  unfold State.fenceLink
  split
  · exact .portDownEvent ..
  · exact .setLink ..
  · exact .setLink ..
  · exact .setLink ..
  · exact .refl s

theorem NoticesKept.unfenceLink (s : State) (q : Port) : NoticesKept s (s.unfenceLink q) := by
  unfold State.unfenceLink
  split
  · exact .setLink ..
  all_goals exact .refl s

/-! ### Channel requests and settings -/

theorem NoticesKept.channelStart (s : State) (p : Port) (chan : Byte) (list : Word) (guard : Option Handle) :
    NoticesKept s (s.channelStart p chan list guard) := by
  unfold State.channelStart
  split
  · exact .answer ..
  split
  · exact .answer ..
  split
  · exact .answer ..
  split
  · exact .answer ..
  · exact (NoticesKept.ofEngine (((EngineOnly.setChan ..).trans (.handHub ..)).trans (.giveSlots ..))
      (((HandsLawful.setChan ..).trans (.handHub ..)).trans (.giveSlots ..))).trans (.answer ..)

/-- CHANNEL_STOP in one action: a stopped run's CHANNEL_END is the one news it can hand (R103). -/
theorem NoticesKept.channelStop (s : State) (p : Port) (chan : Byte) :
    NoticesKept s (s.asOneAction (s.channelStop p chan)) := by
  have hanswer : ∀ st, NoticesKept s (s.asOneAction (s.answer p st none [])) := fun st =>
    .ofEngine (EngineOnly.answer ..).asOneAction (HandsLawful.answer ..).asOneAction
  unfold State.channelStop
  split
  · exact hanswer _
  split
  · exact hanswer _
  split
  · exact .ofEngine ((EngineOnly.enterAborting ..).trans (.answer ..)).asOneAction
      ((HandsLawful.enterAborting ..).trans (.answer ..)).asOneAction
  split
  · exact hanswer _
  · exact hanswer _

theorem NoticesKept.channelRelease (s : State) (p : Port) (chan : Byte) : NoticesKept s (s.channelRelease p chan) := by
  unfold State.channelRelease
  split
  · exact .answer ..
  split
  · exact .answer ..
  split
  · exact (NoticesKept.setChan ..).trans (.answer ..)
  · exact .answer ..

theorem NoticesKept.channelQuery (s : State) (p : Port) (chan : Byte) : NoticesKept s (s.channelQuery p chan) := by
  unfold State.channelQuery
  split
  · exact .answer ..
  · exact .answer ..

theorem NoticesKept.writeSupervisor (s : State) (p q : Port) : NoticesKept s (s.writeSupervisor p q) := by
  unfold State.writeSupervisor
  split
  · exact .answer ..
  split
  · exact (NoticesKept.setSettings ..).trans (.answer ..)
  · exact .answer ..

/-! ### Store accesses -/

theorem NoticesKept.presentDirect (s : State) (p : Port) (addr : Word) (len : Option Word) :
    NoticesKept s (s.presentDirect p addr len) := by
  unfold State.presentDirect
  split
  · exact .answer ..
  · exact .setLink ..

theorem NoticesKept.endDiscarded (s : State) (p : Port) : NoticesKept s (s.endDiscarded p) := by
  have hidle := NoticesKept.setLink s p (s.link p).discardService
  unfold State.endDiscarded
  dsimp only
  split
  · exact hidle.trans (.portUpEvent ..)
  · exact hidle

theorem NoticesKept.deliver (s : State) (p : Port) (m : Member) (a : ChannelAccess) (o : AccessOutcome) :
    NoticesKept s (s.deliver p m a o) := by
  cases m with
  | dispatcher =>
    show NoticesKept s (s.deliverDirect p o)
    unfold State.deliverDirect
    split
    · split
      · exact .endDiscarded ..
      · exact .answer ..
    · exact .refl s
  | chan c => exact .of_left rfl rfl

theorem NoticesKept.startAccess (s : State) (p : Port) (m : Member) (a : ChannelAccess) :
    NoticesKept s (s.startAccess p m a) := by
  have htake : NoticesKept s (s.takeAccess p m) := by cases m <;> exact .of_left rfl rfl
  unfold State.startAccess
  dsimp only
  split
  · exact htake.trans (.deliver ..)
  · exact htake.trans (.setArbiter ..)

theorem NoticesKept.grantPort (s : State) (p : Port) (isPriority : Bool) : NoticesKept s (s.grantPort p isPriority) := by
  unfold State.grantPort
  split
  · split
    · exact (NoticesKept.setArbiter ..).trans (.startAccess ..)
    · exact .refl s
  · exact .refl s

theorem NoticesKept.grantNext (s : State) : NoticesKept s s.grantNext := by
  unfold State.grantNext
  split
  · exact .grantPort ..
  split
  · exact .grantPort ..
  · exact .refl s

/-- STORE_POISON is about the store (step 2 of R4). -/
theorem NoticesKept.handPoison (s : State) (a : StoreAccess) (met : Bool) : NoticesKept s (s.handPoison a met) := by
  unfold State.handPoison
  split
  · exact .hand (TellsNoPeer.cons (e := .storePoison _) (fun _ => nofun) .nil).ne_peer
  · exact .refl s

theorem NoticesKept.reportAccess (s : State) (g : Granted) (o : AccessOutcome) : NoticesKept s (s.reportAccess g o) := by
  unfold State.reportAccess
  split
  · exact .of_left rfl rfl
  · exact .refl s

theorem NoticesKept.finishAccess (s : State) (g : Granted) : NoticesKept s (s.finishAccess g) := by
  have hstored : NoticesKept s ((s.setStore (g.access.carryOut s.store).store).setPoison
    (poisonAfter s.poison g.access (g.access.carryOut s.store).met)) := .of_left rfl rfl
  exact (((hstored.trans (.handPoison ..)).trans (.setArbiter ..)).trans (.reportAccess ..)).trans (.deliver ..)

/-! ### Reset -/

/-- No queue holds a record and no event waits. -/
theorem NoticesKept.of_empty {s t : State} (hn : t.notices = State.reset.notices) (he : t.events = []) : NoticesKept s t := by
  refine .of_queues (fun p _ => ?_) ⟨fun x hx => ?_⟩
  · have hempty : t.queue p = [] := by
      rw [State.queue, hn]
      exact State.queue_reset p
    rw [hempty]
    exact .nil p
  · simp [he] at hx

theorem NoticesKept.coldReset (s : State) : NoticesKept s s.coldReset := .of_empty rfl rfl

theorem NoticesKept.warmReset (s : State) : NoticesKept s s.warmReset := .of_empty rfl rfl

end Sys2Proof.Machine
end

section
/-! SUPPORT. O57: every command keeps law 7 of the notice queues. -/

namespace Sys2Proof.Machine

/-! ### The requests of the dispatchers -/

theorem execRead_noticesKept (s : State) (p : Port) : Gives (NoticesKept s) (execRead p s) := by
  unfold execRead
  split
  · exact .next (.presentDirect ..)
  · exact .next (.refl s)

theorem execWrite_noticesKept (s : State) (p : Port) : Gives (NoticesKept s) (execWrite p s) := by
  unfold execWrite
  split
  · exact .next (.presentDirect ..)
  · exact .next (.refl s)

theorem execFetchAdd_noticesKept (s : State) (p : Port) : Gives (NoticesKept s) (execFetchAdd p s) := by
  unfold execFetchAdd
  split
  · exact .next (.presentDirect ..)
  · exact .next (.refl s)

theorem execSwap_noticesKept (s : State) (p : Port) : Gives (NoticesKept s) (execSwap p s) := by
  unfold execSwap
  split
  · exact .next (.presentDirect ..)
  · exact .next (.refl s)

theorem execCompareSwap_noticesKept (s : State) (p : Port) : Gives (NoticesKept s) (execCompareSwap p s) := by
  unfold execCompareSwap
  split
  · exact .next (.presentDirect ..)
  · exact .next (.refl s)

theorem execLock_noticesKept (s : State) (p : Port) : Gives (NoticesKept s) (execLock p s) := by
  unfold execLock
  split
  · exact .next (.lockAnswer (LockUnit.lock_tellsNoPeer ..) p)
  · exact .next (.refl s)

theorem execUnlock_noticesKept (s : State) (p : Port) : Gives (NoticesKept s) (execUnlock p s) := by
  unfold execUnlock
  split
  · exact .next (.lockAnswer (LockUnit.unlock_tellsNoPeer ..) p)
  · exact .next (.refl s)

theorem execRenew_noticesKept (s : State) (p : Port) : Gives (NoticesKept s) (execRenew p s) := by
  unfold execRenew
  split
  · exact .next (.lockAnswer (LockUnit.renew_tellsNoPeer ..) p)
  · exact .next (.refl s)

theorem execAdopt_noticesKept (s : State) (p : Port) : Gives (NoticesKept s) (execAdopt p s) := by
  unfold execAdopt
  split
  · exact .next (.lockAnswer (LockUnit.adopt_tellsNoPeer ..) p)
  · exact .next (.refl s)

theorem execReclaim_noticesKept (s : State) (p : Port) : Gives (NoticesKept s) (execReclaim p s) := by
  unfold execReclaim
  split
  · exact .ite (.next (.lockAnswer (LockUnit.reclaim_tellsNoPeer ..) p)) (.next (.answer ..))
  · exact .next (.refl s)

theorem execForceRelease_noticesKept (s : State) (p : Port) : Gives (NoticesKept s) (execForceRelease p s) := by
  unfold execForceRelease
  split
  · exact .ite (.next (.lockAnswer (LockUnit.forceRelease_tellsNoPeer ..) p)) (.next (.answer ..))
  · exact .next (.refl s)

theorem execLockQuery_noticesKept (s : State) (p : Port) : Gives (NoticesKept s) (execLockQuery p s) := by
  unfold execLockQuery
  split
  · exact .next (.answer ..)
  · exact .next (.refl s)

theorem execChannelStart_noticesKept (s : State) (p : Port) : Gives (NoticesKept s) (execChannelStart p s) := by
  unfold execChannelStart
  split
  · exact .next (.channelStart ..)
  · exact .next (.refl s)

theorem execChannelStop_noticesKept (s : State) (p : Port) : Gives (NoticesKept s) (execChannelStop p s) := by
  unfold execChannelStop
  split
  · exact .next (.channelStop ..)
  · exact .next (.refl s)

theorem execChannelRelease_noticesKept (s : State) (p : Port) : Gives (NoticesKept s) (execChannelRelease p s) := by
  unfold execChannelRelease
  split
  · exact .next (.channelRelease ..)
  · exact .next (.refl s)

theorem execChannelQuery_noticesKept (s : State) (p : Port) : Gives (NoticesKept s) (execChannelQuery p s) := by
  unfold execChannelQuery
  split
  · exact .next (.channelQuery ..)
  · exact .next (.refl s)

theorem execNoticeAck_noticesKept (s : State) (p : Port) : Gives (NoticesKept s) (execNoticeAck p s) := by
  unfold execNoticeAck
  split
  · split
    · next q hq => exact .next ((NoticesKept.setQueue fun h => h.acknowledge hq).trans (.answer ..))
    · exact .next (.answer ..)
  · exact .next (.refl s)

theorem execConfigRead_noticesKept (s : State) (p : Port) : Gives (NoticesKept s) (execConfigRead p s) := by
  unfold execConfigRead
  split
  · split
    · exact .next (.answer ..)
    · exact .next (.answer ..)
  · exact .next (.refl s)

theorem execConfigWrite_noticesKept (s : State) (p : Port) : Gives (NoticesKept s) (execConfigWrite p s) := by
  unfold execConfigWrite
  split
  · refine .ite (.next (.refl s)) ?_
    split
    · exact .next (.answer ..)
    · exact .next ((NoticesKept.setSettings ..).trans (.answer ..))
  · exact .next (.refl s)

theorem execConfigWriteSupervisor_noticesKept (s : State) (p : Port) : Gives (NoticesKept s) (execConfigWriteSupervisor p s) := by
  unfold execConfigWriteSupervisor
  split
  · refine .ite ?_ (.next (.refl s))
    split
    · exact .next (.answer ..)
    · exact .next (.writeSupervisor ..)
  · exact .next (.refl s)

theorem execConfigWriteTimebase_noticesKept (s : State) (p : Port) : Gives (NoticesKept s) (execConfigWriteTimebase p s) := by
  unfold execConfigWriteTimebase
  split
  · refine .ite ?_ (.next (.refl s))
    split
    · exact .next (.answer ..)
    · exact .next ((NoticesKept.setSettings ..).trans (.answer ..))
  · exact .next (.refl s)

theorem execFence_noticesKept (s : State) (p : Port) : Gives (NoticesKept s) (execFence p s) := by
  unfold execFence
  split
  · exact .ite (.next (.answer ..)) (.ite (.next (.answer ..)) (.next ((NoticesKept.fenceLink ..).trans (.answer ..))))
  · exact .next (.refl s)

theorem execUnfence_noticesKept (s : State) (p : Port) : Gives (NoticesKept s) (execUnfence p s) := by
  unfold execUnfence
  split
  · exact .ite (.next (.answer ..)) (.next ((NoticesKept.unfenceLink ..).trans (.answer ..)))
  · exact .next (.refl s)

/-! ### The claims between blocks, and time -/

theorem execArbiterGrant_noticesKept (s : State) : Gives (NoticesKept s) (execArbiterGrant s) := by
  unfold execArbiterGrant
  split
  · exact .next (.refl s)
  · exact .next (.grantNext s)

theorem execAccessComplete_noticesKept (s : State) : Gives (NoticesKept s) (execAccessComplete s) := by
  unfold execAccessComplete
  split
  · exact .next (.finishAccess ..)
  · exact .next (.refl s)

theorem execLeaseRestartReport_noticesKept (s : State) : Gives (NoticesKept s) (execLeaseRestartReport s) := by
  unfold execLeaseRestartReport
  split
  · exact .next (.of_left rfl rfl)
  · exact .next (.refl s)

theorem execChannelAccessOutcome_noticesKept (s : State) (c : Channel) : Gives (NoticesKept s) (execChannelAccessOutcome c s) := by
  unfold execChannelAccessOutcome
  split
  · exact .next (.ofEngine (((EngineOnly.setOutcome ..).trans (.takeOutcome ..)).trans (.giveOwnerSlots ..)).asOneAction
      (((HandsLawful.setOutcome ..).trans (.takeOutcome ..)).trans (.giveOwnerSlots ..)).asOneAction)
  · exact .next (.refl s)

theorem execReleaseAnnouncement_noticesKept (s : State) : Gives (NoticesKept s) (execReleaseAnnouncement s) := by
  unfold execReleaseAnnouncement
  split
  · next r rest _ =>
    have htaken : NoticesKept s { s with announcements := rest } := .of_left rfl rfl
    exact .next (htaken.trans (.ofEngine (.foldl (fun t c => .retryStalled t r c) ..)
      (.foldl (fun t c => .retryStalled t r c) ..)))
  · exact .next (.refl s)

theorem execStallExpiry_noticesKept (s : State) (c : Channel) : Gives (NoticesKept s) (execStallExpiry c s) := by
  unfold execStallExpiry
  split
  · exact .ite (.next (.ofEngine (EngineOnly.faultRun ..).asOneAction (HandsLawful.faultRun ..).asOneAction)) (.next (.refl s))
  · exact .next (.refl s)

theorem execNoticeEvent_noticesKept (s : State) (k : Nat) : Gives (NoticesKept s) (execNoticeEvent k s) := by
  unfold execNoticeEvent
  split
  · next p e rest hk =>
    have htaken : NoticesKept s { s with events := dropEvent k rest s.events } := .of_hands rfl (.dropEvent hk)
    refine .next ⟨fun hs => ?_⟩
    obtain ⟨_, hevents⟩ := id hs
    have he : e.subject ≠ .peer p := hevents _ (List.mem_of_getElem? hk) (p, e) List.mem_cons_self
    exact (NoticesKept.takeEvent _ he).lawful (htaken.lawful hs)
  · exact .next (.refl s)
  · exact .next (.refl s)

theorem execSlotTimeout_noticesKept (s : State) (p : Port) (h : HubSlot) : Gives (NoticesKept s) (execSlotTimeout p h s) := by
  unfold execSlotTimeout
  split
  · exact .next (.endRequest ..)
  · exact .next (.refl s)

theorem execTimebaseBoundary_noticesKept (s : State) : Gives (NoticesKept s) (execTimebaseBoundary s) := by
  unfold execTimebaseBoundary
  split
  · exact .next (.of_left rfl rfl)
  all_goals exact .next (.refl s)

/-! ### Reset sequencing -/

theorem execPwrokRise_noticesKept (s : State) : Gives (NoticesKept s) (execPwrokRise s) := by
  unfold execPwrokRise
  split
  · exact .next (.of_left rfl rfl)
  all_goals exact .next (.refl s)

theorem execInitComplete_noticesKept (s : State) : Gives (NoticesKept s) (execInitComplete s) := by
  unfold execInitComplete
  split
  · exact .next (.of_left rfl rfl)
  · exact .next (.of_left rfl rfl)
  all_goals exact .next (.refl s)

theorem execHrstAssert_noticesKept (s : State) : Gives (NoticesKept s) (execHrstAssert s) := by
  unfold execHrstAssert
  split
  · exact .next ((NoticesKept.warmReset s).trans (.of_left rfl rfl))
  · exact .next (.warmReset s)
  all_goals exact .next (.of_left rfl rfl)

theorem execHrstRelease_noticesKept (s : State) : Gives (NoticesKept s) (execHrstRelease s) := by
  unfold execHrstRelease
  split <;> exact .next (.of_left rfl rfl)

theorem execSupselChange_noticesKept (s : State) (straps : Port) : Gives (NoticesKept s) (execSupselChange straps s) := by
  unfold execSupselChange
  split <;> exact .next (.of_left rfl rfl)

/-! ### Every command -/

/-- Every command keeps law 7. -/
theorem exec_noticesKept (c : Instr) (s : State) : Gives (NoticesKept s) (exec c s) := by
  have hclaim : ∀ p, NoticesKept s (s.takeClaim p) := fun p => .takeClaim s p
  cases c with
  | pwrokFall => exact .next (.coldReset s)
  | pwrokRise => exact execPwrokRise_noticesKept s
  | initComplete => exact execInitComplete_noticesKept s
  | hrstAssert => exact execHrstAssert_noticesKept s
  | hrstRelease => exact execHrstRelease_noticesKept s
  | supselChange straps => exact execSupselChange_noticesKept s straps
  | prstnAssert p => exact .next (.assertPrst s p)
  | prstnRelease p => exact .next (.releasePrst s p)
  | bitDisturbance w d => exact .next (.of_left rfl rfl)
  | timebaseBoundary => exact execTimebaseBoundary_noticesKept s
  | leaseExpiry k => exact .next (.expire fun _ => LockUnit.leaseExpiry_tellsNoPeer)
  | waitExpiry k => exact .next (.expire fun _ => LockUnit.waitExpiry_tellsNoPeer)
  | orphanExpiry k => exact .next (.expire fun _ => LockUnit.orphanExpiry_tellsNoPeer)
  | stallExpiry c => exact execStallExpiry_noticesKept s c
  | trainWindowExpiry p => exact .ite (.next (.setLink ..)) (.next (.refl s))
  | slotTimeout p h => exact execSlotTimeout_noticesKept s p h
  | hello p => exact .next (.receiveHello s p)
  | ready p word => exact .next (.receiveReady s p word)
  | lossOfSignal p => exact .next (.linkFails ..)
  | badCheckPacket p => exact .next (.linkFails ..)
  | requestReceived p pkt => exact .next (.receivePacket s p pkt)
  | fetchReply p tag payload => exact .next (.receiveFetchReply s p tag payload)
  | storeReply p tag payload => exact .next (.receiveStoreReply s p tag payload)
  | responseSent p => exact .ite (.next (.sendResponse s p)) (.next (.refl s))
  | noticeSent p => exact .ite (.next (.sendNotice s p)) (.next (.refl s))
  | hubRequestSent p => exact .ite (.next (.sendHubRequest s p)) (.next (.refl s))
  | read p => exact execRead_noticesKept s p
  | write p => exact execWrite_noticesKept s p
  | fetchAdd p => exact execFetchAdd_noticesKept s p
  | swap p => exact execSwap_noticesKept s p
  | compareSwap p => exact execCompareSwap_noticesKept s p
  | arbiterGrant => exact execArbiterGrant_noticesKept s
  | accessComplete => exact execAccessComplete_noticesKept s
  | leaseRestartReport => exact execLeaseRestartReport_noticesKept s
  | lock p => exact execLock_noticesKept s p
  | unlock p => exact execUnlock_noticesKept s p
  | renew p => exact execRenew_noticesKept s p
  | adopt p => exact execAdopt_noticesKept s p
  | reclaim p => exact execReclaim_noticesKept s p
  | forceRelease p => exact execForceRelease_noticesKept s p
  | lockQuery p => exact execLockQuery_noticesKept s p
  | lockPortDown p => exact .next (.takeLockPortDown s p)
  | arbiterPortDown p => exact .next (.takeArbiterPortDown s p)
  | channelStart p => exact execChannelStart_noticesKept s p
  | channelStop p => exact execChannelStop_noticesKept s p
  | channelRelease p => exact execChannelRelease_noticesKept s p
  | channelQuery p => exact execChannelQuery_noticesKept s p
  | descriptorReply p => exact .ite (.next (hclaim p)) (.next (.refl s))
  | lookaheadReply p => exact .ite (.next (hclaim p)) (.next (.refl s))
  | chunkFetchReply p => exact .ite (.next (hclaim p)) (.next (.refl s))
  | chunkStoreReply p => exact .ite (.next (hclaim p)) (.next (.refl s))
  | channelHubTimeout p => exact .ite (.next (hclaim p)) (.next (.refl s))
  | hubRequestDrop p => exact .ite (.next (hclaim p)) (.next (.refl s))
  | channelAccessOutcome c => exact execChannelAccessOutcome_noticesKept s c
  | releaseAnnouncement => exact execReleaseAnnouncement_noticesKept s
  | channelPortDown p => exact .ite (.next (hclaim p)) (.next (.refl s))
  | noticeEvent k => exact execNoticeEvent_noticesKept s k
  | noticeAck p => exact execNoticeAck_noticesKept s p
  | noticeRewind p => exact .ite (.next (.takeNoticePortDown s p)) (.next (.refl s))
  | noticeQueueEmpty p => exact .ite (.next (.takeNoticePortDown s p)) (.next (.refl s))
  | configRead p => exact execConfigRead_noticesKept s p
  | configWrite p => exact execConfigWrite_noticesKept s p
  | configWriteSupervisor p => exact execConfigWriteSupervisor_noticesKept s p
  | configWriteTimebase p => exact execConfigWriteTimebase_noticesKept s p
  | fence p => exact execFence_noticesKept s p
  | unfence p => exact execUnfence_noticesKept s p

/-- The one next state of a command keeps law 7. -/
theorem exec_noticesLawful (c : Instr) {s : State} (h : s.noticesLawful) : Leads State.noticesLawful (exec c s) := by
  obtain ⟨u, hu, hkept⟩ := exec_noticesKept c s
  rw [hu]
  exact .next (hkept.lawful h)

/-! ### O57 -/

/-- Settles O57, by the commands: each keeps the queues lawful and hands no port news of itself, carried to the step. -/
theorem everyStepKeepsTheNoticeLaw : Obligations.EveryStepKeepsTheNoticeLaw := fun _ _ =>
  step_keeps (fun c _ => exec_noticesLawful c) (fun _ => id) (fun _ _ => id)

end Sys2Proof.Machine
end

section
/-! SUPPORT. O22, O49 and O50: a notice goes out (R139, R140, R157), an event is taken (R136), and NOTICE_ACK (R141). -/

namespace Sys2Proof.Machine

/-! ### Sending (R139, R140) -/

/-- A notice goes out: its record is SENT, the counter goes up, and the turn is the hub's (R139, R157). -/
theorem State.sendNotice_eq {s : State} {p : Port} {r : NoticeRecord} (h : offered (s.queue p) = some r) :
    s.sendNotice p = ((s.setQueue p (markSent (s.link p).noticeSeq (s.queue p))).setLink p
      { s.link p with noticeSeq := (s.link p).noticeSeq + 1, turn := .hub }).send p (noticePacket r (s.link p).noticeSeq) := by
  rw [State.sendNotice, h]

/-- A notice is chosen where no response waits, one is offered, and no hub request is ready or the turn is OTHER (Table 8.4). -/
theorem State.outbound_notice {s : State} {p : Port} (hup : (s.link p).link = .up) (hnone : (s.link p).responses = [])
    (hoffered : (offered (s.queue p)).isSome = true) (hturn : (s.link p).unsent = [] ∨ (s.link p).turn = .other) :
    s.outbound p = some .notice := by
  have hother : s.otherOutbound p = some .notice := by
    rw [State.otherOutbound, if_neg (not_not_intro hnone), if_pos hoffered]
  rw [State.outbound, if_pos hup, hother]
  split
  · rfl
  · next hready =>
    have hturn : (s.link p).turn = .other := hturn.resolve_left hready
    simp [hturn]

theorem NoticeEvent.code_lt (e : NoticeEvent) : e.code < 256 := by
  cases e <;> simp [NoticeEvent.code]

/-- The kind byte and the occurrences of a notice's word 0 lie clear of its subject (section 10.3). -/
theorem noticeWord_fields (e : NoticeEvent) (occurrences : Nat) :
    field (lay 0 e.code ||| e.subject.lay ||| lay 24 occurrences) 0 8 = e.code
      ∧ (occurrences ≤ 255 → field (lay 0 e.code ||| e.subject.lay ||| lay 24 occurrences) 24 8 = occurrences) := by
  have hcode := e.code_lt
  have hsubject : field e.subject.lay 0 8 = 0 ∧ field e.subject.lay 24 8 = 0 := by
    cases e.subject with
    | lock k => exact ⟨field_lay_above _ (by decide), field_lay_below (by omega) _⟩
    | channel c =>
      rw [Subject.lay, field_or, field_or, field_lay_above _ (by decide), field_lay_above _ (by decide),
        field_lay_below (by decide), field_lay_below (by omega)]
      exact ⟨rfl, rfl⟩
    | peer q =>
      rw [Subject.lay, field_or, field_or, field_lay_above _ (by decide), field_lay_above _ (by decide),
        field_lay_below (by decide), field_lay_below (by omega)]
      exact ⟨rfl, rfl⟩
    | store => exact ⟨field_lay_above _ (by decide), field_lay_below (by decide) _⟩
  obtain ⟨hlow, hhigh⟩ := hsubject
  constructor
  · rw [field_or, field_or, field_lay_self hcode (by decide), hlow, field_lay_above _ (by decide), Nat.or_zero, Nat.or_zero]
  · intro hfits
    rw [field_or, field_or, field_lay_below (by omega), hhigh, field_lay_self (by omega) (by decide), Nat.zero_or, Nat.zero_or]

/-- Settles O22: the outbound path chooses the notice offered, which is the first PENDING record. -/
theorem noticeSentTakesANumber : Obligations.NoticeSentTakesANumber := by
  intro s p sent r rest hup hnone hqueue hsent hr hcount hturn
  have hpending := (NoticeRecord.isPending_iff r).mpr hr
  have hoffered := offered_eq _ sent r rest hqueue hsent hpending hcount
  have hchosen := State.outbound_notice hup hnone (by rw [hoffered]; rfl) hturn
  have hexec : exec (.noticeSent p) s = .next (s.sendNotice p) := if_pos hchosen
  obtain ⟨hcode, hoccurrences⟩ := noticeWord_fields r.event r.occurrences
  refine ⟨_, hexec, ?_⟩
  rw [State.sendNotice_eq hoffered, hqueue, markSent_eq _ sent r rest hsent hpending]
  refine ⟨rfl, State.setQueue_queue_self .., State.setLink_link_self .., ⟨_, _, ?_, rfl, hoccurrences, hcode⟩,
    fun q hq => ⟨State.setLink_link_other _ _ hq, State.setQueue_queue_other _ _ hq, State.send_sentTo_other _ _ hq⟩⟩
  exact State.send_sentTo_self ..

/-! ### Events (R136) -/

theorem LinkState.accepts_iff (l : LinkState) : l.accepts = true ↔ l ≠ .off ∧ l ≠ .fenced := by
  cases l <;> simp [LinkState.accepts]

/-- An event's place among the records: the one PENDING record of its subject takes it and stays where it is (R136). -/
theorem placeEvent_between {e : NoticeEvent} {before : List NoticeRecord} {r : NoticeRecord} {after : List NoticeRecord}
    (hr : r.sent = none) (hsubject : r.event.subject = e.subject) (hbefore : e.subject ∉ pendingSubjects before)
    (hafter : e.subject ∉ pendingSubjects after) :
    placeEvent (before ++ r :: after) e = before ++ ⟨e, min 255 (r.occurrences + 1), none⟩ :: after := by
  have hon : r.pendingOn e.subject = true := (NoticeRecord.pendingOn_iff r _).mpr ⟨hr, hsubject⟩
  have hstay : ∀ l : List NoticeRecord, e.subject ∉ pendingSubjects l →
      l.map (fun x => if x.pendingOn e.subject then x.merge e else x) = l := fun l hl =>
    (List.map_congr_left fun x hx => if_neg fun hx' => hl ((mem_pendingSubjects l _).mpr ⟨x, hx, hx'⟩)).trans l.map_id'
  have hmerged : r.merge e = ⟨e, min 255 (r.occurrences + 1), none⟩ := by rw [← hr]; rfl
  rw [placeEvent_merge _ e ((mem_pendingSubjects _ _).mpr ⟨r, by simp, hon⟩), List.map_append, List.map_cons,
    hstay before hbefore, hstay after hafter, if_pos hon, hmerged]

/-- The Notice Unit takes an event where the link accepts it. -/
theorem State.takeEvent_queue (s : State) (p : Port) (e : NoticeEvent) :
    (s.takeEvent p e).queue p = if (s.link p).link.accepts then placeEvent (s.queue p) e else s.queue p := by
  unfold State.takeEvent
  split
  · exact State.setQueue_queue_self ..
  · rfl

theorem State.takeEvent_queue_other (s : State) {p q : Port} (e : NoticeEvent) (hq : q ≠ p) :
    (s.takeEvent p e).queue q = s.queue q := by
  unfold State.takeEvent
  split
  · exact State.setQueue_queue_other _ _ hq
  · rfl

theorem State.takeEvent_frame (s : State) (p : Port) (e : NoticeEvent) :
    s.takeEvent p e = { s with notices := (s.takeEvent p e).notices } := by
  unfold State.takeEvent
  split <;> rfl

/-- NOTICE_EVENT takes the first event of the k-th action, and the others go on waiting (R137). -/
theorem exec_noticeEvent_of_waiting {s : State} {k : Nat} {p : Port} {e : NoticeEvent} {rest : List Handed}
    (hk : s.events[k]? = some ((p, e) :: rest)) :
    exec (.noticeEvent k) s = .next (({ s with events := dropEvent k rest s.events } : State).takeEvent p e) := by
  show execNoticeEvent k s = _
  rw [execNoticeEvent, hk]

/-- Settles O49, by whether the link accepts events and the subject has a PENDING record. -/
theorem noticeEventCoalesces : Obligations.NoticeEventCoalesces := by
  refine ⟨fun s k p e rest hk => ?_, fun s k hk => ?_⟩
  · have hqueue := ({ s with events := dropEvent k rest s.events } : State).takeEvent_queue p e
    refine ⟨_, exec_noticeEvent_of_waiting hk, ?_, ?_, fun q hq => State.takeEvent_queue_other _ e hq, fun hshut => ?_,
      fun hoff hfenced => ?_⟩
    · rw [State.takeEvent_frame]
    · rw [State.takeEvent_frame]
      rfl
    · have hrefuses : ¬(s.link p).link.accepts = true := by
        rw [LinkState.accepts_iff]
        exact fun ⟨hoff, hfenced⟩ => hshut.elim hoff hfenced
      exact hqueue.trans (if_neg hrefuses)
    · have hplaced := hqueue.trans (if_pos ((LinkState.accepts_iff (s.link p).link).mpr ⟨hoff, hfenced⟩))
      refine ⟨fun hnew => hplaced.trans (placeEvent_new _ e hnew), fun before r after hq hr hsubject hbefore hafter => ?_⟩
      rw [hplaced]
      show placeEvent (s.queue p) e = _
      rw [hq]
      exact placeEvent_between hr hsubject hbefore hafter
  · show execNoticeEvent k s = _
    rw [execNoticeEvent, List.getElem?_eq_none hk]

/-! ### NOTICE_ACK (R141) -/

/-- With a SENT record gone, the first PENDING record of the rest is offered (R139). -/
theorem offered_after_ack {before : List NoticeRecord} {r : NoticeRecord} {after : List NoticeRecord} {x : NoticeRecord}
    (hr : r.isPending = false) (hcount : sentCount (before ++ r :: after) ≤ 4)
    (hx : after.find? (fun y => y.isPending) = some x) : offered after = some x := by
  have hfewer : sentCount after < 4 := by
    simp only [sentCount, List.filter_append, List.length_append, List.filter_cons, hr, Bool.not_false, if_true,
      List.length_cons] at hcount ⊢
    omega
  rw [offered, if_pos hfewer, hx]

theorem State.answer_queue (s : State) (p : Port) (st : Status) (d : Option Half) (w : List Word) (q : Port) :
    (s.answer p st d w).queue q = s.queue q := by
  rw [State.answer_frame]
  rfl

theorem exec_noticeAck_of_some {s : State} {p : Port} {seq : Byte} {q : List NoticeRecord}
    (hreq : s.request p = some (.noticeAck seq)) (hack : acknowledge seq (s.queue p) = some q) :
    exec (.noticeAck p) s = .next ((s.setQueue p q).answer p .ok none []) := by
  show execNoticeAck p s = _
  rw [execNoticeAck, hreq]
  dsimp only
  rw [hack]

theorem exec_noticeAck_of_none {s : State} {p : Port} {seq : Byte} (hreq : s.request p = some (.noticeAck seq))
    (hack : acknowledge seq (s.queue p) = none) : exec (.noticeAck p) s = .next (s.answer p .badSequence none []) := by
  show execNoticeAck p s = _
  rw [execNoticeAck, hreq]
  dsimp only
  rw [hack]

/-- Settles O50, by whether a SENT record carries the number. -/
theorem noticeAckRemovesWhatWasSent : Obligations.NoticeAckRemovesWhatWasSent := by
  intro s p seq hreq
  obtain ⟨sv, hsv, _⟩ := State.request_eq_some hreq
  refine ⟨fun before r after hqueue hr hbefore => ?_, fun hnone => ?_⟩
  · have hexec := exec_noticeAck_of_some hreq (hqueue ▸ acknowledge_some seq before r after hbefore hr)
    have hafter : ((s.setQueue p after).answer p .ok none []).queue p = after :=
      (State.answer_queue ..).trans (State.setQueue_queue_self ..)
    refine ⟨_, hexec, hafter, fun q hq => (State.answer_queue ..).trans (State.setQueue_queue_other _ _ hq),
      State.answer_answeredAs (u := s.setQueue p after) hsv rfl .ok none [],
      State.answer_dispatcherOnly (fun _ => rfl) .ok none [], ?_, fun hcount x hx => ?_⟩
    · rw [State.answer_frame]
      rfl
    · rw [hafter]
      rw [hqueue] at hcount
      exact offered_after_ack (by simp [NoticeRecord.isPending, hr]) hcount hx
  · exact ⟨_, exec_noticeAck_of_none hreq (acknowledge_none seq _ hnone), State.answer_answeredOnly hsv .badSequence none []⟩

end Sys2Proof.Machine
end

section
/-! SUPPORT. A port-down event (R161 to R163): what it makes of the link that leaves UP, slot by slot, and which claims it hands. -/

namespace Sys2Proof.Machine

/-! ### Outstanding requests dropped (step 5 of R163) -/

/-- A slot after the drops: an outstanding request has left it, and its sequence has advanced (R158). -/
def HubSlotState.dropped (h : HubSlotState) : HubSlotState := if h.held.isSome then ⟨h.seq + 1, none⟩ else h

@[simp] theorem HubSlotState.dropped_held (h : HubSlotState) : h.dropped.held = none := by
  unfold HubSlotState.dropped
  split
  · rfl
  · next hn => exact Option.not_isSome_iff_eq_none.mp hn

theorem HubSlotState.dropped_seq (h : HubSlotState) : h.dropped.seq = if h.held.isSome then h.seq + 1 else h.seq := by
  unfold HubSlotState.dropped
  split <;> rfl

/-- The claim that the drop of a slot hands, if it holds a request (R128). -/
def LinkController.dropClaim (lc : LinkController) (h : HubSlot) : Option ChannelClaim :=
  (lc.outstanding h).map fun o => .ending o.req .dropped

/-- Some slots of port p dropped, in order: of its Link Controller the slots and what waits to be sent have changed, and the drops
stand behind the claims handed before. -/
structure SlotsDropped (p : Port) (l : List HubSlot) (s t : State) : Prop where
  link : t.link p = { s.link p with slots := (t.link p).slots, unsent := (t.link p).unsent }
  slot : ∀ k : HubSlot, (t.link p).slots[k] = if k ∈ l then ((s.link p).slots[k]).dropped else (s.link p).slots[k]
  claims : t.claimsOf p = s.claimsOf p ++ l.filterMap (s.link p).dropClaim
  others : ∀ q, q ≠ p → t.link q = s.link q ∧ t.claimsOf q = s.claimsOf q

theorem State.dropSlot_of_free {s : State} {p : Port} {h : HubSlot} (hf : (s.link p).outstanding h = none) :
    s.dropSlot p h = s := by
  rw [State.dropSlot, hf]

theorem State.dropSlot_of_outstanding {s : State} {p : Port} {h : HubSlot} {o : Outstanding}
    (ho : (s.link p).outstanding h = some o) :
    s.dropSlot p h = (s.setLink p ((s.link p).freeSlotOf h)).claim p (.ending o.req .dropped) := by
  rw [State.dropSlot, ho]

theorem SlotsDropped.nil (p : Port) (s : State) : SlotsDropped p [] s s :=
  ⟨rfl, fun _ => (if_neg List.not_mem_nil).symm, (List.append_nil _).symm, fun _ _ => ⟨rfl, rfl⟩⟩

/-- One slot dropped. -/
theorem SlotsDropped.one (p : Port) (h : HubSlot) (s : State) : SlotsDropped p [h] s (s.dropSlot p h) := by
  cases ho : (s.link p).outstanding h with
  | none =>
    have hheld : ((s.link p).slots[h]).held = none := ho
    rw [State.dropSlot_of_free ho]
    refine ⟨rfl, fun k => ?_, by simp [LinkController.dropClaim, ho], fun _ _ => ⟨rfl, rfl⟩⟩
    split
    · next hk =>
      rw [List.mem_singleton.mp hk, HubSlotState.dropped, hheld]
      rfl
    · rfl
  | some o =>
    have hheld : ((s.link p).slots[h]).held = some o := ho
    have hlink : ((s.setLink p ((s.link p).freeSlotOf h)).claim p (.ending o.req .dropped)).link p = (s.link p).freeSlotOf h :=
      State.setLink_link_self ..
    rw [State.dropSlot_of_outstanding ho]
    refine ⟨by rw [hlink]; rfl, fun k => ?_, ?_, fun q hq => ⟨State.setLink_link_other _ _ hq, State.claim_claimsOf_other _ _ hq⟩⟩
    · rw [hlink]
      split
      · next hk =>
        rw [List.mem_singleton.mp hk, LinkController.slot_freeSlotOf_self, HubSlotState.dropped, hheld]
        rfl
      · next hk => exact LinkController.slot_freeSlotOf_other _ fun he => hk (List.mem_singleton.mpr he)
    · rw [State.claim_claimsOf_self]
      simp [LinkController.dropClaim, ho]

/-- The drops of other slots follow the drop of one. -/
theorem SlotsDropped.cons {p : Port} {h : HubSlot} {l : List HubSlot} {s t u : State} (h1 : SlotsDropped p [h] s t)
    (h2 : SlotsDropped p l t u) (hl : h ∉ l) : SlotsDropped p (h :: l) s u := by
  have hslot : ∀ k ∈ l, (t.link p).slots[k] = (s.link p).slots[k] := fun k hk => by
    have hne : k ∉ [h] := fun hm => hl (by rwa [List.mem_singleton.mp hm] at hk)
    rw [h1.slot, if_neg hne]
  refine ⟨?_, fun k => ?_, ?_, fun q hq => ?_⟩
  · have hu := h2.link
    rw [h1.link] at hu
    exact hu
  · rw [h2.slot]
    split
    · next hk => rw [hslot k hk, if_pos (List.mem_cons_of_mem _ hk)]
    · next hk =>
      rw [h1.slot]
      simp only [List.mem_cons, List.not_mem_nil, or_false, hk]
  · have hsame : l.filterMap (t.link p).dropClaim = l.filterMap (s.link p).dropClaim :=
      List.filterMap_congr fun k hk => by
        rw [LinkController.dropClaim, LinkController.dropClaim, LinkController.outstanding, LinkController.outstanding,
          hslot k hk]
    rw [h2.claims, h1.claims, hsame, List.append_assoc, ← List.filterMap_append]
    rfl
  · exact ⟨(h2.others q hq).1.trans (h1.others q hq).1, (h2.others q hq).2.trans (h1.others q hq).2⟩

theorem State.foldl_dropSlot (p : Port) (l : List HubSlot) (hl : l.Nodup) (s : State) :
    SlotsDropped p l s (l.foldl (fun t h => t.dropSlot p h) s) := by
  induction l generalizing s with
  | nil => exact .nil p s
  | cons h rest ih =>
    obtain ⟨hnotin, hrest⟩ := List.nodup_cons.mp hl
    exact (SlotsDropped.one p h s).cons (ih hrest (s.dropSlot p h)) hnotin

/-- Step 5 of R163: every slot is free, and the drops are handed in ascending slot order. -/
theorem State.dropAll_slotsDropped (s : State) (p : Port) :
    (s.dropAll p).link p = { s.link p with slots := ((s.dropAll p).link p).slots, unsent := []
                                           waiting := Vector.replicate 8 [] }
      ∧ (∀ k : HubSlot, ((s.dropAll p).link p).slots[k] = ((s.link p).slots[k]).dropped)
      ∧ (s.dropAll p).claimsOf p = s.claimsOf p ++ allHubSlots.filterMap (s.link p).dropClaim
      ∧ ∀ q, q ≠ p → (s.dropAll p).link q = s.link q ∧ (s.dropAll p).claimsOf q = s.claimsOf q := by
  have hdrops := State.foldl_dropSlot p allHubSlots allHubSlots_nodup s
  unfold State.dropAll
  dsimp only
  generalize allHubSlots.foldl (fun t h => t.dropSlot p h) s = t at hdrops
  refine ⟨?_, fun k => ?_, hdrops.claims, fun q hq => ?_⟩
  · rw [State.setLink_link_self, hdrops.link]
  · rw [State.setLink_link_self]
    exact (hdrops.slot k).trans (if_pos (mem_allHubSlots k))
  · rw [State.setLink_link_other _ _ hq]
    exact hdrops.others q hq

theorem State.dropAll_portDown (s : State) (p q : Port) : (s.dropAll p).portDown q = s.portDown q := by
  have hsame : (s.dropAll p).portDowns = s.portDowns := by rw [State.dropAll_frame]
  rw [State.portDown, hsame, State.portDown]

/-! ### The whole event (R163, R164) -/

theorem otherPorts_ne_nil : ∀ p : Port, otherPorts p ≠ [] := by decide

/-- A request in service that was not granted leaves with the link (R164). -/
theorem keptService_of_not_granted {o : Option Service} (h : ∀ sv ∈ o, sv.stage ≠ .granted) : keptService o = none := by
  cases o with
  | none => rfl
  | some sv => exact if_neg (h sv rfl)

theorem keptService_of_granted {sv : Service} (h : sv.stage = .granted) :
    keptService (some sv) = some { sv with discard := true } := if_pos h

/-! What steps 6 and 7 leave of the state after the drops, and what they add. -/

theorem State.handLoss_link (t : State) (p : Port) (cause : DownCause) (loss : Loss) (q : Port) :
    ((t.handPortDown p loss).handPeerDown p cause).link q = t.link q := rfl

theorem State.handLoss_claimsOf (t : State) (p : Port) (cause : DownCause) (loss : Loss) (q : Port) :
    ((t.handPortDown p loss).handPeerDown p cause).claimsOf q = (t.claim p (.portDown loss)).claimsOf q := rfl

theorem State.handLoss_portDown (t : State) (p : Port) (cause : DownCause) (loss : Loss) (q : Port) :
    ((t.handPortDown p loss).handPeerDown p cause).portDown q = (t.setPortDown p ⟨some loss, some loss, true⟩).portDown q := rfl

theorem State.handLoss_events (t : State) (p : Port) (cause : DownCause) (loss : Loss) :
    ((t.handPortDown p loss).handPeerDown p cause).events
      = t.events ++ [(allPorts.filter (· != p)).map fun q => (q, .peerDown p cause)] :=
  if_neg fun h => otherPorts_ne_nil p (List.map_eq_nil_iff.mp h)

/-- The Link Controller of the port that went down. -/
theorem State.portDownEvent_link (s : State) (p : Port) (dest : LinkState) (cause : DownCause) (loss : Loss) :
    (s.portDownEvent p dest cause loss).link p = { (s.link p).lose dest cause with
      slots := ((s.portDownEvent p dest cause loss).link p).slots, unsent := [], waiting := Vector.replicate 8 [] } := by
  obtain ⟨hlink, _⟩ := State.dropAll_slotsDropped (s.setLink p ((s.link p).lose dest cause)) p
  rw [State.setLink_link_self] at hlink
  rw [State.portDownEvent, State.handLoss_link]
  exact hlink

theorem State.portDownEvent_slot (s : State) (p : Port) (dest : LinkState) (cause : DownCause) (loss : Loss) (k : HubSlot) :
    ((s.portDownEvent p dest cause loss).link p).slots[k] = ((s.link p).slots[k]).dropped := by
  obtain ⟨_, hslot, _⟩ := State.dropAll_slotsDropped (s.setLink p ((s.link p).lose dest cause)) p
  rw [State.setLink_link_self] at hslot
  rw [State.portDownEvent, State.handLoss_link]
  exact hslot k

theorem State.portDownEvent_claimsOf (s : State) (p : Port) (dest : LinkState) (cause : DownCause) (loss : Loss) :
    (s.portDownEvent p dest cause loss).claimsOf p
      = s.claimsOf p ++ allHubSlots.filterMap (s.link p).dropClaim ++ [.portDown loss] := by
  obtain ⟨_, _, hclaims, _⟩ := State.dropAll_slotsDropped (s.setLink p ((s.link p).lose dest cause)) p
  rw [State.setLink_link_self, State.setLink_claimsOf] at hclaims
  rw [State.portDownEvent, State.handLoss_claimsOf, State.claim_claimsOf_self, hclaims]
  rfl

/-- The other ports' Link Controllers, and what they have handed, stay as they are. -/
theorem State.portDownEvent_others (s : State) (p : Port) (dest : LinkState) (cause : DownCause) (loss : Loss) {q : Port}
    (hq : q ≠ p) : (s.portDownEvent p dest cause loss).link q = s.link q
      ∧ (s.portDownEvent p dest cause loss).claimsOf q = s.claimsOf q
      ∧ (s.portDownEvent p dest cause loss).portDown q = s.portDown q := by
  obtain ⟨_, _, _, hothers⟩ := State.dropAll_slotsDropped (s.setLink p ((s.link p).lose dest cause)) p
  obtain ⟨hlink, hclaims⟩ := hothers q hq
  refine ⟨?_, ?_, ?_⟩
  · rw [State.portDownEvent, State.handLoss_link, hlink, State.setLink_link_other _ _ hq]
  · rw [State.portDownEvent, State.handLoss_claimsOf, State.claim_claimsOf_other _ _ hq, hclaims, State.setLink_claimsOf]
  · rw [State.portDownEvent, State.handLoss_portDown, State.setPortDown_portDown_other _ _ hq, State.dropAll_portDown,
      State.setLink_portDown]

theorem State.portDownEvent_portDown (s : State) (p : Port) (dest : LinkState) (cause : DownCause) (loss : Loss) :
    (s.portDownEvent p dest cause loss).portDown p = ⟨some loss, some loss, true⟩ := by
  rw [State.portDownEvent, State.handLoss_portDown, State.setPortDown_portDown_self]

theorem State.portDownEvent_events (s : State) (p : Port) (dest : LinkState) (cause : DownCause) (loss : Loss) :
    (s.portDownEvent p dest cause loss).events
      = s.events ++ [(allPorts.filter (· != p)).map fun q => (q, .peerDown p cause)] := by
  rw [State.portDownEvent, State.handLoss_events, State.dropAll_frame]
  rfl

/-- The port-down event is the loss that R163 says, step by step. -/
theorem State.portDownEvent_linkLost (s : State) (p : Port) (dest : LinkState) (cause : DownCause) (loss : Loss) :
    LinkLost s (s.portDownEvent p dest cause loss) p dest cause loss := by
  have hslot := fun k => s.portDownEvent_slot p dest cause loss k
  have hclaims := s.portDownEvent_claimsOf p dest cause loss
  have hevents := s.portDownEvent_events p dest cause loss
  have hothers := fun q hq => s.portDownEvent_others p dest cause loss (q := q) hq
  have hlink := s.portDownEvent_link p dest cause loss
  have hdown := s.portDownEvent_portDown p dest cause loss
  generalize s.portDownEvent p dest cause loss = t at *
  refine ⟨by rw [hlink]; rfl, by rw [hlink]; rfl, by rw [hlink]; rfl, by rw [hlink]; rfl, fun hnot => ?_, fun sv hsv hst => ?_,
    fun k => ⟨?_, ?_⟩, fun c => ?_, by rw [hlink], by rw [hlink]; rfl, by rw [hlink]; rfl, by rw [hlink]; rfl, by rw [hlink]; rfl,
    by rw [hlink]; rfl, by rw [hlink]; rfl, hclaims, hdown, hevents, fun q hq => (hothers q hq).2⟩
  · rw [hlink, LinkController.lose, keptService_of_not_granted hnot]
    exact ⟨rfl, rfl, rfl⟩
  · rw [hlink, LinkController.lose, hsv, keptService_of_granted hst]
    exact ⟨rfl, rfl, rfl⟩
  · rw [LinkController.outstanding, hslot, HubSlotState.dropped_held]
  · rw [hslot, HubSlotState.dropped_seq]
    rfl
  · rw [hlink]
    exact Vector.getElem_replicate ..

theorem State.portDownEvent_prst (s : State) (p : Port) (dest : LinkState) (cause : DownCause) (loss : Loss) :
    ((s.portDownEvent p dest cause loss).link p).prst = (s.link p).prst := by
  rw [State.portDownEvent_link]
  rfl

/-- The level of PRSTn has no part in a loss. -/
theorem LinkLost.of_prst {s t : State} {p : Port} {level : Bool} {dest : LinkState} {cause : DownCause} {loss : Loss}
    (h : LinkLost (s.setLink p { s.link p with prst := level }) t p dest cause loss) : LinkLost s t p dest cause loss := by
  unfold LinkLost at h
  rw [State.setLink_link_self] at h
  exact h

end Sys2Proof.Machine
end


section
/-! SUPPORT. Law 8 of one Link Controller (R154, R158, R163): the requests counted and the slots outstanding, and what each change of
a Link Controller keeps of them. -/

namespace Sys2Proof.Machine

/-! ### The two halves of the law -/

/-- The held count counts the requests queued, in service and answered, at most 16; a link that is not UP holds none but a granted one
from before its loss (R154, R163). -/
structure LinkController.Counted (lc : LinkController) : Prop where
  credit : lc.heldCount ≤ 16
  count : lc.heldCount = lc.inbound.length + lc.responses.length + (serviceTags lc.service).length
  emptied : lc.link ≠ .up → lc.inbound = [] ∧ lc.responses = []
  service : ∀ sv ∈ lc.service, (sv.discard = true ↔ lc.link ≠ .up) ∧ (sv.discard = true → sv.stage = .granted)

/-- A slot outstanding is one of those allowed, on a link that is UP (R158, R163). -/
structure LinkController.SlotsFit (lc : LinkController) : Prop where
  allowed : lc.slotsAllowed ≤ 8
  outstanding : ∀ h : HubSlot, (lc.outstanding h).isSome = true → lc.link = .up ∧ h.val < lc.slotsAllowed

theorem LinkController.lawful_iff (lc : LinkController) : lc.lawful ↔ lc.Counted ∧ lc.SlotsFit := by
  constructor
  · rintro ⟨hcredit, hcount, hemptied, hservice, hallowed, hslots⟩
    exact ⟨⟨hcredit, hcount, hemptied, hservice⟩, ⟨hallowed, hslots⟩⟩
  · rintro ⟨⟨hcredit, hcount, hemptied, hservice⟩, ⟨hallowed, hslots⟩⟩
    exact ⟨hcredit, hcount, hemptied, hservice, hallowed, hslots⟩

theorem LinkController.lawful.counted {lc : LinkController} (h : lc.lawful) : lc.Counted := ((lawful_iff lc).mp h).1

theorem LinkController.lawful.slotsFit {lc : LinkController} (h : lc.lawful) : lc.SlotsFit := ((lawful_iff lc).mp h).2

/-- A Link Controller changed in nothing that the law speaks of. -/
theorem LinkController.lawful.same {lc lc' : LinkController} (h : lc.lawful) (hlink : lc'.link = lc.link := by rfl)
    (hheld : lc'.heldCount = lc.heldCount := by rfl) (hin : lc'.inbound = lc.inbound := by rfl)
    (hresp : lc'.responses = lc.responses := by rfl) (hserv : lc'.service = lc.service := by rfl)
    (hallowed : lc'.slotsAllowed = lc.slotsAllowed := by rfl) (hslots : lc'.slots = lc.slots := by rfl) : lc'.lawful := by
  unfold LinkController.lawful LinkController.outstanding at *
  rw [hlink, hheld, hin, hresp, hserv, hallowed, hslots]
  exact h

/-! ### The dispatcher (R155, R156) -/

theorem length_serviceTags_none : (serviceTags none).length = 0 := rfl

theorem length_serviceTags_some (sv : Service) : (serviceTags (some sv)).length = 1 := rfl

/-- Every request that leaves the inbound queue is in service or answered. -/
theorem takeNext_count (l : List Packet) :
    l.length = (takeNext l).2.1.length + (takeNext l).2.2.length + (serviceTags (takeNext l).1).length := by
  induction l with
  | nil => rfl
  | cons pkt rest ih =>
    unfold takeNext
    split
    · rfl
    · simp only [List.length_cons]
      omega

/-- The request taken next is from no loss. -/
theorem takeNext_discard {l : List Packet} {sv : Service} (h : (takeNext l).1 = some sv) : sv.discard = false := by
  induction l with
  | nil => cases h
  | cons pkt rest ih =>
    unfold takeNext at h
    split at h
    · cases h
      rfl
    · exact ih h

theorem LinkController.dispatch_of_idle {lc : LinkController} (h : lc.service = none) :
    lc.dispatch = { lc with service := (takeNext lc.inbound).1, inbound := (takeNext lc.inbound).2.1
                            responses := lc.responses ++ (takeNext lc.inbound).2.2 } := by
  unfold LinkController.dispatch
  rw [h]

/-- DISPATCH moves requests from one count to another. -/
theorem LinkController.Counted.dispatch {lc : LinkController} (h : lc.Counted) : lc.dispatch.Counted := by
  cases hs : lc.service with
  | some sv => rwa [LinkController.dispatch_busy lc (by rw [hs]; rfl)]
  | none =>
    obtain ⟨hcredit, hcount, hemptied, _⟩ := h
    have htaken := takeNext_count lc.inbound
    rw [hs] at hcount
    rw [LinkController.dispatch_of_idle hs]
    refine ⟨hcredit, ?_, fun hdown => ?_, fun sv hsv => ?_⟩
    · simp only [length_serviceTags_none, List.length_append] at hcount ⊢
      omega
    · obtain ⟨hin, hresp⟩ := hemptied hdown
      show (takeNext lc.inbound).2.1 = [] ∧ lc.responses ++ (takeNext lc.inbound).2.2 = []
      rw [hin, hresp]
      exact ⟨rfl, rfl⟩
    · have hsv : (takeNext lc.inbound).1 = some sv := hsv
      have hup : lc.link = .up := by
        by_contra hdown
        rw [(hemptied hdown).1] at hsv
        cases hsv
      rw [takeNext_discard hsv]
      exact ⟨⟨nofun, fun hdown => absurd hup hdown⟩, nofun⟩

/-- A request in service that is not to be discarded came in on a link that is UP still. -/
theorem LinkController.Counted.up_of_wanted {lc : LinkController} {sv : Service} (h : lc.Counted) (hsv : lc.service = some sv)
    (hd : sv.discard = false) : lc.link = .up := by
  by_contra hdown
  rw [(h.service sv hsv).1.mpr hdown] at hd
  cases hd

/-- A request to be discarded is on a link that has gone down (R164). -/
theorem LinkController.Counted.down_of_discard {lc : LinkController} {sv : Service} (h : lc.Counted)
    (hsv : lc.service = some sv) (hd : sv.discard = true) : lc.link ≠ .up := (h.service sv hsv).1.mp hd

theorem LinkController.Counted.wanted {lc : LinkController} {sv : Service} (h : lc.Counted) (hsv : lc.service = some sv)
    (hst : sv.stage ≠ .granted) : sv.discard = false := by
  by_contra hd
  exact hst ((h.service sv hsv).2 (Bool.not_eq_false _ ▸ hd))

/-- An answer: the request in service becomes a response, and the dispatcher takes the next. -/
theorem LinkController.Counted.answer {lc : LinkController} {sv : Service} (h : lc.Counted) (hsv : lc.service = some sv)
    (hd : sv.discard = false) (r : Response) : (lc.answer r).Counted := by
  have hup := h.up_of_wanted hsv hd
  obtain ⟨hcredit, hcount, _, _⟩ := h
  rw [hsv] at hcount
  refine LinkController.Counted.dispatch ⟨hcredit, ?_, fun hdown => absurd hup hdown, nofun⟩
  simp only [length_serviceTags_none, length_serviceTags_some, List.length_cons, List.length_nil, List.length_append] at hcount ⊢
  omega

/-- A presented request withdrawn gives its credit back, and the dispatcher takes the next (R20). -/
theorem LinkController.Counted.withdrawPresented {lc : LinkController} (h : lc.Counted) : lc.withdrawPresented.Counted := by
  unfold LinkController.withdrawPresented
  split
  · next sv hsv =>
    split
    · next hst =>
      have hup := h.up_of_wanted hsv (h.wanted hsv (by rw [hst]; decide))
      obtain ⟨hcredit, hcount, _, _⟩ := h
      rw [hsv] at hcount
      refine LinkController.Counted.dispatch ⟨?_, ?_, fun hdown => absurd hup hdown, nofun⟩
      · exact Nat.le_trans (Nat.sub_le ..) hcredit
      · simp only [length_serviceTags_none, length_serviceTags_some] at hcount ⊢
        omega
    · exact h
  · exact h

/-- A request counted and queued on a link that is UP with credit left (R154). -/
theorem LinkController.Counted.accept {lc : LinkController} (h : lc.Counted) (hup : lc.link = .up) (hcredit : lc.heldCount < 16)
    (pkt : Packet) : (lc.accept pkt).Counted := by
  obtain ⟨_, hcount, _, hservice⟩ := h
  refine LinkController.Counted.dispatch ⟨hcredit, ?_, fun hdown => absurd hup hdown, hservice⟩
  simp only [List.length_append, List.length_cons, List.length_nil]
  omega

/-- The head response leaves the queue (R156). -/
theorem LinkController.Counted.sendResponse {lc : LinkController} {r : Response} {rest : List Response} (h : lc.Counted)
    (hr : lc.responses = r :: rest) (tags : List Nat) :
    LinkController.Counted { lc with responses := rest, tags := tags, heldCount := lc.heldCount - 1, turn := .hub } := by
  obtain ⟨hcredit, hcount, hemptied, hservice⟩ := h
  refine ⟨Nat.le_trans (Nat.sub_le ..) hcredit, ?_, fun hdown => ?_, hservice⟩
  · simp only [hr, List.length_cons] at hcount ⊢
    omega
  · obtain ⟨_, hnone⟩ := hemptied hdown
    rw [hr] at hnone
    cases hnone

/-- A later stage of a request in service that is not to be discarded, or is granted. -/
theorem LinkController.Counted.setStage {lc : LinkController} {st : Stage} (h : lc.Counted)
    (hst : ∀ sv ∈ lc.service, sv.discard = true → st = .granted) : (lc.setStage st).Counted := by
  obtain ⟨hcredit, hcount, hemptied, hservice⟩ := h
  refine ⟨hcredit, ?_, hemptied, fun sv hsv => ?_⟩
  · refine hcount.trans (congrArg _ ?_)
    show _ = (serviceTags (lc.service.map _)).length
    cases lc.service <;> rfl
  · obtain ⟨old, hold, rfl⟩ := Option.map_eq_some_iff.mp hsv
    exact ⟨(hservice old hold).1, fun hd => hst old hold hd⟩

/-- The end of service of a request from before the loss (R164). -/
theorem LinkController.Counted.discardService {lc : LinkController} (h : lc.Counted) (hdown : lc.link ≠ .up) :
    lc.discardService.Counted := by
  obtain ⟨hin, hresp⟩ := h.emptied hdown
  refine ⟨Nat.zero_le 16, ?_, h.emptied, nofun⟩
  simp [LinkController.discardService, hin, hresp, serviceTags]

/-! ### The link's state -/

/-- A link that goes from one state to another, neither of them UP. -/
theorem LinkController.Counted.relink {lc lc' : LinkController} (h : lc.Counted) (hfrom : lc.link ≠ .up) (hto : lc'.link ≠ .up)
    (hheld : lc'.heldCount = lc.heldCount := by rfl) (hin : lc'.inbound = lc.inbound := by rfl)
    (hresp : lc'.responses = lc.responses := by rfl) (hserv : lc'.service = lc.service := by rfl) : lc'.Counted := by
  obtain ⟨hcredit, hcount, hemptied, hservice⟩ := h
  refine ⟨hheld ▸ hcredit, by rw [hheld, hin, hresp, hserv]; exact hcount, fun _ => ?_, fun sv hsv => ?_⟩
  · rw [hin, hresp]
    exact hemptied hfrom
  · obtain ⟨hdiscard, hgranted⟩ := hservice sv (hserv ▸ hsv)
    exact ⟨⟨fun _ => hto, fun _ => hdiscard.mpr hfrom⟩, hgranted⟩

/-- No slot is outstanding on a link that is not UP. -/
theorem LinkController.SlotsFit.free {lc : LinkController} (h : lc.SlotsFit) (hdown : lc.link ≠ .up) (k : HubSlot) :
    lc.outstanding k = none := by
  by_contra hk
  exact hdown (h.outstanding k (Option.isSome_iff_ne_none.mpr hk)).1

theorem LinkController.SlotsFit.of_free {lc : LinkController} (hallowed : lc.slotsAllowed ≤ 8)
    (hfree : ∀ k, lc.outstanding k = none) : lc.SlotsFit :=
  ⟨hallowed, fun k hk => by rw [hfree] at hk; cases hk⟩

/-- Slots in which no more is outstanding than before. -/
theorem LinkController.SlotsFit.fewer {lc lc' : LinkController} (h : lc.SlotsFit) (hlink : lc'.link = lc.link)
    (hallowed : lc'.slotsAllowed = lc.slotsAllowed)
    (hout : ∀ k, (lc'.outstanding k).isSome = true → (lc.outstanding k).isSome = true) : lc'.SlotsFit := by
  refine ⟨hallowed ▸ h.allowed, fun k hk => ?_⟩
  rw [hlink, hallowed]
  exact h.outstanding k (hout k hk)

/-- Link states other than UP come and go with nothing outstanding. -/
theorem LinkController.lawful.relink {lc lc' : LinkController} (h : lc.lawful) (hfrom : lc.link ≠ .up) (hto : lc'.link ≠ .up)
    (hallowed : lc'.slotsAllowed ≤ 8) (hheld : lc'.heldCount = lc.heldCount := by rfl)
    (hin : lc'.inbound = lc.inbound := by rfl) (hresp : lc'.responses = lc.responses := by rfl)
    (hserv : lc'.service = lc.service := by rfl) (hslots : lc'.slots = lc.slots := by rfl) : lc'.lawful := by
  refine (LinkController.lawful_iff lc').mpr ⟨h.counted.relink hfrom hto hheld hin hresp hserv, .of_free hallowed fun k => ?_⟩
  rw [LinkController.outstanding, hslots]
  exact h.slotsFit.free hfrom k

theorem LinkController.lawful.failTraining {lc : LinkController} (h : lc.lawful) (hlink : lc.link = .training) :
    lc.failTraining.lawful := h.relink (by rw [hlink]; decide) (show LinkState.down ≠ .up by decide) h.slotsFit.allowed

theorem LinkController.lawful.moveTo {lc : LinkController} {dest : LinkState} (h : lc.lawful) (hfrom : lc.link ≠ .up)
    (hto : dest ≠ .up) : (lc.moveTo dest).lawful := h.relink hfrom hto h.slotsFit.allowed

/-- An IDLE dispatcher, and nothing queued: the link comes UP with full credit (R165). -/
theorem LinkController.lawful.bringUp {lc : LinkController} (h : lc.lawful) (hdown : lc.link ≠ .up) (hidle : lc.service = none) :
    lc.bringUp.lawful := by
  obtain ⟨hin, hresp⟩ := h.counted.emptied hdown
  refine (LinkController.lawful_iff _).mpr ⟨⟨Nat.zero_le 16, ?_, fun hn => absurd rfl hn, fun sv hsv => ?_⟩,
    .of_free h.slotsFit.allowed fun k => h.slotsFit.free hdown k⟩
  · simp [LinkController.bringUp, hin, hresp, hidle, serviceTags]
  · have hsv : lc.service = some sv := hsv
    rw [hidle] at hsv
    cases hsv

/-- A link that went down holds nothing but a granted request, now to be discarded (R163, R164). -/
theorem LinkLost.lawful {s t : State} {p : Port} {dest : LinkState} {cause : DownCause} {loss : Loss}
    (h : LinkLost s t p dest cause loss) (hdest : dest ≠ .up) (hs : (s.link p).lawful) : (t.link p).lawful := by
  obtain ⟨hlink, _, hin, hresp, hleft, hkept, hslot, _, _, _, _, hallowed, _⟩ := h
  have hdown : (t.link p).link ≠ .up := hlink ▸ hdest
  refine (LinkController.lawful_iff _).mpr ⟨?_, .of_free (hallowed ▸ hs.slotsFit.allowed) fun k => (hslot k).1⟩
  by_cases hgranted : ∃ sv, (s.link p).service = some sv ∧ sv.stage = .granted
  · obtain ⟨sv, hsv, hst⟩ := hgranted
    obtain ⟨hservice, hheld, _⟩ := hkept sv hsv hst
    refine ⟨by rw [hheld]; decide, by rw [hheld, hin, hresp, hservice]; rfl, fun _ => ⟨hin, hresp⟩, fun x hx => ?_⟩
    cases hservice.symm.trans hx
    exact ⟨⟨fun _ => hdown, fun _ => rfl⟩, fun _ => hst⟩
  · obtain ⟨hservice, hheld, _⟩ := hleft fun sv hsv hst => hgranted ⟨sv, hsv, hst⟩
    refine ⟨by rw [hheld]; decide, by rw [hheld, hin, hresp, hservice]; rfl, fun _ => ⟨hin, hresp⟩, fun x hx => ?_⟩
    rw [hservice] at hx
    cases hx

/-! ### The slots (R158) -/

/-- A slot given is a free one of those allowed, on a link that is UP (R116). -/
theorem LinkController.lawful.giveSlot {lc lc' : LinkController} {r : HubRequest} (h : lc.lawful)
    (hg : lc.giveSlot = some (lc', r)) : lc'.lawful := by
  obtain ⟨hup, j, c, rest, hlt, _, _, rfl⟩ := LinkController.giveSlot_eq_some hg
  obtain ⟨hcredit, hcount, hemptied, hservice⟩ := h.counted
  refine (LinkController.lawful_iff _).mpr ⟨⟨hcredit, hcount, hemptied, hservice⟩, h.slotsFit.allowed, fun k hk => ⟨hup, ?_⟩⟩
  by_cases hkj : k = j
  · rw [hkj]
    exact hlt
  · refine (h.slotsFit.outstanding k ?_).2
    simpa [LinkController.outstanding, Vector.getElem_set_ne, Fin.val_ne_of_ne (Ne.symm hkj)] using hk

theorem LinkController.lawful.freeSlotOf {lc : LinkController} (h : lc.lawful) (j : HubSlot) : (lc.freeSlotOf j).lawful := by
  obtain ⟨hcredit, hcount, hemptied, hservice⟩ := h.counted
  refine (LinkController.lawful_iff _).mpr ⟨⟨hcredit, hcount, hemptied, hservice⟩, h.slotsFit.fewer rfl rfl fun k hk => ?_⟩
  by_cases hkj : k = j
  · rw [hkj, LinkController.outstanding, LinkController.slot_freeSlotOf_self] at hk
    cases hk
  · rwa [LinkController.outstanding, LinkController.slot_freeSlotOf_other _ hkj] at hk

/-- The timer of an outstanding request starts: nothing more is outstanding. -/
theorem LinkController.lawful.startTimer {lc : LinkController} {j : HubSlot} {o : Outstanding} (h : lc.lawful)
    (ho : lc.outstanding j = some o) (timeout : Nat) : (lc.startTimer j o timeout).lawful := by
  obtain ⟨hcredit, hcount, hemptied, hservice⟩ := h.counted
  refine (LinkController.lawful_iff _).mpr ⟨⟨hcredit, hcount, hemptied, hservice⟩, h.slotsFit.fewer rfl rfl fun k hk => ?_⟩
  by_cases hkj : k = j
  · rw [hkj, ho]
    rfl
  · simpa [LinkController.startTimer, LinkController.outstanding, Vector.getElem_set_ne, Fin.val_ne_of_ne (Ne.symm hkj)]
      using hk

theorem LinkController.outstanding_tick (lc : LinkController) (k : HubSlot) :
    lc.tick.outstanding k = (lc.outstanding k).map fun o => { o with timer := o.timer.map (· - 1) } := by
  simp [LinkController.tick, LinkController.outstanding, HubSlotState.tick, mapVector]

theorem LinkController.lawful.tick {lc : LinkController} (h : lc.lawful) : lc.tick.lawful := by
  obtain ⟨hcredit, hcount, hemptied, hservice⟩ := h.counted
  refine (LinkController.lawful_iff _).mpr ⟨⟨hcredit, hcount, hemptied, hservice⟩, h.slotsFit.fewer rfl rfl fun k hk => ?_⟩
  rwa [LinkController.outstanding_tick, Option.isSome_map] at hk

/-! ### The dispatcher's operations keep the whole law -/

theorem LinkController.lawful.ofCounted {lc lc' : LinkController} (h : lc.lawful) (hc : lc'.Counted)
    (hlink : lc'.link = lc.link := by rfl) (hallowed : lc'.slotsAllowed = lc.slotsAllowed := by rfl)
    (hslots : lc'.slots = lc.slots := by rfl) : lc'.lawful := by
  refine (LinkController.lawful_iff lc').mpr ⟨hc, h.slotsFit.fewer hlink hallowed fun k => ?_⟩
  rw [LinkController.outstanding, hslots]
  exact id

theorem LinkController.dispatch_link (lc : LinkController) : lc.dispatch.link = lc.link := by
  rw [LinkController.dispatch_kept]

theorem LinkController.dispatch_slotsAllowed (lc : LinkController) : lc.dispatch.slotsAllowed = lc.slotsAllowed := by
  rw [LinkController.dispatch_kept]

theorem LinkController.dispatch_slots (lc : LinkController) : lc.dispatch.slots = lc.slots := by
  rw [LinkController.dispatch_kept]

theorem LinkController.lawful.answer {lc : LinkController} {sv : Service} (h : lc.lawful) (hsv : lc.service = some sv)
    (hd : sv.discard = false) (r : Response) : (lc.answer r).lawful :=
  h.ofCounted (h.counted.answer hsv hd r) (LinkController.dispatch_link _) (LinkController.dispatch_slotsAllowed _)
    (LinkController.dispatch_slots _)

theorem LinkController.lawful.accept {lc : LinkController} (h : lc.lawful) (hup : lc.link = .up) (hcredit : lc.heldCount < 16)
    (pkt : Packet) : (lc.accept pkt).lawful :=
  h.ofCounted (h.counted.accept hup hcredit pkt) (LinkController.dispatch_link _) (LinkController.dispatch_slotsAllowed _)
    (LinkController.dispatch_slots _)

theorem LinkController.withdrawPresented_kept (lc : LinkController) : lc.withdrawPresented.link = lc.link
    ∧ lc.withdrawPresented.slotsAllowed = lc.slotsAllowed ∧ lc.withdrawPresented.slots = lc.slots := by
  unfold LinkController.withdrawPresented
  split
  · split
    · exact ⟨LinkController.dispatch_link _, LinkController.dispatch_slotsAllowed _, LinkController.dispatch_slots _⟩
    · exact ⟨rfl, rfl, rfl⟩
  · exact ⟨rfl, rfl, rfl⟩

theorem LinkController.lawful.withdrawPresented {lc : LinkController} (h : lc.lawful) : lc.withdrawPresented.lawful := by
  obtain ⟨hlink, hallowed, hslots⟩ := lc.withdrawPresented_kept
  exact h.ofCounted h.counted.withdrawPresented hlink hallowed hslots

end Sys2Proof.Machine
end


section
/-! SUPPORT. O58: which operations of the hub keep law 8 of the Link Controllers; first those that the commands are made of. -/

namespace Sys2Proof.Machine

/-! ### Changes that keep the law -/

/-- A change that keeps every Link Controller lawful. -/
structure LinksKept (s t : State) : Prop where
  lawful : (∀ p : Port, (s.link p).lawful) → ∀ p : Port, (t.link p).lawful

theorem LinksKept.refl (s : State) : LinksKept s s := ⟨id⟩

theorem LinksKept.trans {s t u : State} (h : LinksKept s t) (h' : LinksKept t u) : LinksKept s u :=
  ⟨fun hs => h'.lawful (h.lawful hs)⟩

theorem LinksKept.of_links {s t : State} (h : t.links = s.links) : LinksKept s t := by
  refine ⟨fun hs p => ?_⟩
  rw [State.link, h]
  exact hs p

theorem LinksKept.setLink {s : State} {p : Port} {lc : LinkController} (h : (s.link p).lawful → lc.lawful) :
    LinksKept s (s.setLink p lc) := by
  refine ⟨fun hs q => ?_⟩
  rw [State.setLink_link]
  split
  · exact h (hs p)
  · exact hs q

/-- A channel's run touches of a Link Controller what waits for a slot alone. -/
theorem LinksKept.ofRun {c : Channel} {s t : State} (h : RunOnly c s t) : LinksKept s t := by
  refine ⟨fun hs p => ?_⟩
  rw [h.link p]
  exact (hs p).same

theorem LinksKept.foldl {α : Type} {f : State → α → State} (hf : ∀ s a, LinksKept s (f s a)) (l : List α) (s : State) :
    LinksKept s (l.foldl f s) := by
  induction l generalizing s with
  | nil => exact .refl s
  | cons a rest ih => exact (hf s a).trans (ih _)

theorem LinksKept.asOneAction {s t : State} (h : LinksKept s t) (u : State) : LinksKept s (u.asOneAction t) := ⟨h.lawful⟩

theorem LinksKept.giveSlotsUpTo (s : State) (p : Port) (n : Nat) : LinksKept s (s.giveSlotsUpTo p n) := by
  induction n generalizing s with
  | zero => exact .refl s
  | succ n ih =>
    unfold State.giveSlotsUpTo
    split
    · next hg =>
      exact ((LinksKept.setLink fun h => h.giveSlot hg).trans (.of_links (State.noteSlotGiven_links ..))).trans (ih _)
    · exact .refl s

theorem LinksKept.giveSlots (s : State) (p : Port) : LinksKept s (s.giveSlots p) := .giveSlotsUpTo s p 8

theorem LinksKept.giveOwnerSlots (s : State) (o : Option Port) : LinksKept s (s.giveOwnerSlots o) := by
  unfold State.giveOwnerSlots
  split
  · exact .giveSlots ..
  · exact .refl s

/-! ### Answers (R155) -/

/-- A request in service that is not to be discarded is answered, after changes that leave it in service. -/
theorem LinksKept.answerWanted {s t : State} {p : Port} (h : LinksKept s t) (hserv : (t.link p).service = (s.link p).service)
    (hw : (s.link p).lawful → ∀ sv ∈ (s.link p).service, sv.discard = false) (st : Status) (d : Option Half)
    (w : List Word) : LinksKept s (t.answer p st d w) := by
  unfold State.answer
  split
  · next sv hsv =>
    refine ⟨fun hs => (LinksKept.setLink fun hlc => ?_).lawful (h.lawful hs)⟩
    exact hlc.answer hsv (hw (hs p) sv (hserv ▸ hsv)) _
  · exact h

/-- The request that a dispatcher has handed to its block is from no loss (R164). -/
theorem State.wanted_of_request {s : State} {p : Port} {r : Request} (hreq : s.request p = some r) (hs : (s.link p).lawful) :
    ∀ sv ∈ (s.link p).service, sv.discard = false := by
  intro sv hsv
  obtain ⟨sv', hsv', _, hst⟩ := State.request_eq_some hreq
  cases hsv'.symm.trans hsv
  exact hs.counted.wanted hsv' (by rw [hst]; decide)

/-- A block answers the request handed to it, after what it did for it. -/
theorem LinksKept.thenAnswer {s t : State} {p : Port} {r : Request} (h : LinksKept s t) (hreq : s.request p = some r)
    (hserv : (t.link p).service = (s.link p).service) (st : Status) (d : Option Half) (w : List Word) :
    LinksKept s (t.answer p st d w) := h.answerWanted hserv (State.wanted_of_request hreq) st d w

theorem LinksKept.answer {s : State} {p : Port} {r : Request} (hreq : s.request p = some r) (st : Status) (d : Option Half)
    (w : List Word) : LinksKept s (s.answer p st d w) := (LinksKept.refl s).thenAnswer hreq rfl st d w

/-- A block answers after changes outside the Link Controllers. -/
theorem LinksKept.answerBeside {s t : State} {p : Port} {r : Request} {st : Status} {d : Option Half} {w : List Word}
    (hreq : s.request p = some r) (hlinks : t.links = s.links := by rfl) : LinksKept s (t.answer p st d w) :=
  (LinksKept.of_links hlinks).thenAnswer hreq (by rw [State.link, hlinks, State.link]) st d w

theorem LinksKept.lockAnswer {s : State} {p : Port} {r : Request} (hreq : s.request p = some r) (a : LockAnswer) :
    LinksKept s (s.lockAnswer p a) := .answerBeside hreq

theorem LinksKept.expire (s : State) (o : Option LockEffect) : LinksKept s (s.expire o) := by
  cases o with
  | none => exact .refl s
  | some e => exact .of_links rfl

/-! ### A port goes down, and comes up -/

theorem LinksKept.portDownEvent {s : State} {p : Port} {dest : LinkState} {cause : DownCause} {loss : Loss} (hdest : dest ≠ .up) :
    LinksKept s (s.portDownEvent p dest cause loss) := by
  refine ⟨fun hs q => ?_⟩
  by_cases hq : q = p
  · subst hq
    exact (s.portDownEvent_linkLost q dest cause loss).lawful hdest (hs q)
  · rw [(s.portDownEvent_others p dest cause loss hq).1]
    exact hs q

theorem LinksKept.takeLockPortDown (s : State) (p : Port) : LinksKept s (s.takeLockPortDown p) := by
  unfold State.takeLockPortDown
  split
  · exact .refl s
  · exact .of_links rfl

theorem LinksKept.takeArbiterPortDown (s : State) (p : Port) : LinksKept s (s.takeArbiterPortDown p) := by
  by_cases h : (s.portDown p).arbiter = true
  · have hwithdrawn : LinksKept s (s.setLink p (s.link p).withdrawPresented) := .setLink fun hlc => hlc.withdrawPresented
    rw [State.takeArbiterPortDown_eq h]
    exact hwithdrawn.trans (.of_links rfl)
  · rw [State.takeArbiterPortDown, if_neg h]
    exact .refl s

theorem LinksKept.takeNoticePortDown (s : State) (p : Port) : LinksKept s (s.takeNoticePortDown p) := by
  unfold State.takeNoticePortDown
  split
  · exact .refl s
  all_goals exact .of_links rfl

theorem LinksKept.takeClaim (s : State) (p : Port) : LinksKept s (s.takeClaim p) := by
  unfold State.takeClaim
  split
  · next cl rest _ =>
    refine LinksKept.trans (t := s.setClaims p rest) (.of_links rfl) ?_
    unfold State.carryClaim
    split
    · exact ((LinksKept.ofRun (.takeEnding ..)).trans (.giveSlots ..)).asOneAction _
    · exact (LinksKept.foldl (fun t c => .ofRun (.chanPortDown t _ c)) ..).asOneAction _
  · exact .refl s

theorem LinksKept.takeClaims (s : State) (p : Port) (n : Nat) : LinksKept s (s.takeClaims p n) := by
  induction n generalizing s with
  | zero => exact .refl s
  | succ n ih => exact (LinksKept.takeClaim s p).trans (ih _)

theorem LinksKept.settlePort (s : State) (p : Port) : LinksKept s (s.settlePort p) :=
  (((LinksKept.takeLockPortDown s p).trans (.takeArbiterPortDown ..)).trans (.takeClaims ..)).trans (.takeNoticePortDown ..)

/-- A port that is not UP and has its dispatcher IDLE comes UP with full credit (R165). -/
theorem LinksKept.portUpEvent {s t : State} {p : Port} (h : LinksKept s t) (hdown : (t.link p).link ≠ .up)
    (hidle : (t.link p).service = none) : LinksKept s (t.portUpEvent p) := by
  have hsettled := State.settlePort_link hidle
  have hkept := h.trans (.settlePort t p)
  unfold State.portUpEvent
  dsimp only
  generalize t.settlePort p = u at hsettled hkept
  have hdown' : (u.link p).link ≠ .up := by
    rw [hsettled]
    exact hdown
  have hidle' : (u.link p).service = none := by
    rw [hsettled]
    exact hidle
  have hup : LinksKept u (u.setLink p (u.link p).bringUp) := .setLink fun hlc => hlc.bringUp hdown' hidle'
  have hhanded : LinksKept u ((u.setLink p (u.link p).bringUp).hand ((otherPorts p).map fun q => (q, .peerUp p))) :=
    hup.trans (.of_links rfl)
  exact (hkept.trans hhanded).trans (.giveSlots ..)

/-! ### The links -/

theorem LinksKept.failTraining {s : State} {p : Port} (h : (s.link p).link = .training) :
    LinksKept s (s.setLink p (s.link p).failTraining) := .setLink fun hlc => hlc.failTraining h

theorem LinksKept.endRequest (s : State) (p : Port) (h : HubSlot) (r : HubRequest) (how : Ending) :
    LinksKept s (s.endRequest p h r how) := by
  have hfreed : LinksKept s (s.setLink p ((s.link p).freeSlotOf h)) := .setLink fun hlc => hlc.freeSlotOf h
  have hended : LinksKept s ((s.setLink p ((s.link p).freeSlotOf h)).claim p (.ending r how)) := hfreed.trans (.of_links rfl)
  exact hended.trans (.giveSlots ..)

theorem LinksKept.linkFails (s : State) (p : Port) (cause : DownCause) : LinksKept s (s.linkFails p cause) := by
  unfold State.linkFails
  split
  · exact .portDownEvent (by decide)
  · next h => exact .failTraining h
  all_goals exact .refl s

theorem LinksKept.receiveHello (s : State) (p : Port) : LinksKept s (s.receiveHello p) := by
  unfold State.receiveHello
  split
  · next hdown =>
    split
    · refine LinksKept.trans (.setLink fun hlc => ?_) (.of_links rfl)
      exact hlc.relink (by rw [hdown]; decide) (show LinkState.training ≠ .up by decide) hlc.slotsFit.allowed
    · exact .refl s
  · exact .of_links rfl
  all_goals exact .refl s

theorem LinksKept.takeReady {s : State} {p : Port} {n : Nat} (h : (s.link p).link = .training) (hn : n ≤ 8) :
    LinksKept s (s.takeReady p n) := by
  have hdown : (s.link p).link ≠ .up := by rw [h]; decide
  have hlink := s.setLink_link_self p { s.link p with slotsAllowed := n, readyTaken := some true }
  have htaken : LinksKept s (s.setLink p { s.link p with slotsAllowed := n, readyTaken := some true }) :=
    .setLink fun hlc => hlc.relink hdown hdown hn
  unfold State.takeReady
  dsimp only
  split
  · next hidle =>
    refine htaken.portUpEvent ?_ (Option.isNone_iff_eq_none.mp hidle)
    rw [hlink]
    exact hdown
  · exact htaken

theorem LinksKept.receiveReady (s : State) (p : Port) (word : Word) : LinksKept s (s.receiveReady p word) := by
  unfold State.receiveReady
  split
  · next h =>
    split
    · exact .refl s
    split
    · exact .failTraining h
    · exact .takeReady h (by omega)
  all_goals exact .refl s

theorem LinksKept.receiveRequest (s : State) (p : Port) (pkt : Packet) : LinksKept s (s.receiveRequest p pkt) := by
  unfold State.receiveRequest
  split
  · next hup =>
    split
    · exact .portDownEvent (by decide)
    split
    · exact .portDownEvent (by decide)
    · exact .setLink fun hlc => hlc.accept hup (by omega) pkt
  · next h => exact .failTraining h
  all_goals exact .refl s

theorem LinksKept.receiveFetchReply (s : State) (p : Port) (tag : Byte) (payload : List Word) :
    LinksKept s (s.receiveFetchReply p tag payload) := by
  unfold State.receiveFetchReply
  split
  · split
    · exact .endRequest ..
    · exact .refl s
  · next h => exact .failTraining h
  all_goals exact .refl s

theorem LinksKept.receiveStoreReply (s : State) (p : Port) (tag : Byte) (payload : List Word) :
    LinksKept s (s.receiveStoreReply p tag payload) := by
  unfold State.receiveStoreReply
  split
  · split
    · exact .endRequest ..
    · exact .refl s
  · next h => exact .failTraining h
  all_goals exact .refl s

theorem LinksKept.receivePacket (s : State) (p : Port) (pkt : Packet) : LinksKept s (s.receivePacket p pkt) := by
  unfold State.receivePacket
  split
  · exact .receiveFetchReply ..
  · exact .receiveStoreReply ..
  · exact .receiveHello ..
  · exact .receiveReady ..
  · exact .receiveRequest ..

theorem LinksKept.sendResponse (s : State) (p : Port) : LinksKept s (s.sendResponse p) := by
  unfold State.sendResponse
  split
  · next hr => exact (LinksKept.setLink fun hlc => hlc.ofCounted (hlc.counted.sendResponse hr _)).trans (.of_links rfl)
  · exact .refl s

theorem LinksKept.sendNotice (s : State) (p : Port) : LinksKept s (s.sendNotice p) := by
  unfold State.sendNotice
  split
  · refine LinksKept.trans (t := s.setLink p { s.link p with noticeSeq := (s.link p).noticeSeq + 1, turn := .hub }) ?_
      (.of_links rfl)
    exact .setLink fun hlc => hlc.same
  · exact .refl s

theorem LinksKept.sendHubRequest (s : State) (p : Port) : LinksKept s (s.sendHubRequest p) := by
  unfold State.sendHubRequest
  split
  · split
    · next o ho => exact (LinksKept.setLink fun hlc => (hlc.startTimer ho _).same).trans (.of_links rfl)
    · exact .refl s
  · exact .refl s

/-- The level of PRSTn has no part in the law. -/
theorem LinksKept.setPrst (s : State) (p : Port) (level : Bool) :
    LinksKept s (s.setLink p { s.link p with prst := level }) := .setLink fun hlc => hlc.same

/-- A link that is not UP goes to another state that is not UP. -/
theorem LinksKept.moveTo {s : State} {p : Port} {dest : LinkState} (hfrom : (s.link p).link ≠ .up) (hto : dest ≠ .up) :
    LinksKept s (s.setLink p ((s.link p).moveTo dest)) := .setLink fun hlc => hlc.moveTo hfrom hto

theorem LinksKept.assertPrst (s : State) (p : Port) : LinksKept s (s.assertPrst p) := by
  have hpin := LinksKept.setPrst s p true
  have hlink : ((s.setLink p { s.link p with prst := true }).link p).link = (s.link p).link := by rw [State.setLink_link_self]
  unfold State.assertPrst
  dsimp only
  split
  · exact hpin.trans (.portDownEvent (by decide))
  · next h => exact hpin.trans (.moveTo (by rw [hlink, h]; decide) (by decide))
  · next h => exact hpin.trans (.moveTo (by rw [hlink, h]; decide) (by decide))
  all_goals exact hpin

theorem LinksKept.releasePrst (s : State) (p : Port) : LinksKept s (s.releasePrst p) := by
  have hpin := LinksKept.setPrst s p false
  have hlink : ((s.setLink p { s.link p with prst := false }).link p).link = (s.link p).link := by rw [State.setLink_link_self]
  unfold State.releasePrst
  dsimp only
  split
  · next h => exact hpin.trans (.moveTo (by rw [hlink, h]; decide) (by decide))
  all_goals exact hpin

theorem LinksKept.fenceLink (s : State) (q : Port) : LinksKept s (s.fenceLink q) := by
  unfold State.fenceLink
  split
  · exact .portDownEvent (by decide)
  · next h => exact .moveTo (by rw [h]; decide) (by decide)
  · next h => exact .moveTo (by rw [h]; decide) (by decide)
  · next h => exact .moveTo (by rw [h]; decide) (by decide)
  · exact .refl s

theorem LinksKept.unfenceLink (s : State) (q : Port) : LinksKept s (s.unfenceLink q) := by
  unfold State.unfenceLink
  split
  · next h => exact .moveTo (by rw [h]; decide) (by split <;> decide)
  all_goals exact .refl s

/-- FENCE of another port leaves the sender's Link Controller (R180). -/
theorem State.fenceLink_link_other (s : State) {p q : Port} (h : p ≠ q) : (s.fenceLink q).link p = s.link p := by
  unfold State.fenceLink
  split
  · exact (s.portDownEvent_others q .fenced .fence .hard h).1
  · exact State.setLink_link_other _ _ h
  · exact State.setLink_link_other _ _ h
  · exact State.setLink_link_other _ _ h
  · rfl

/-- UNFENCE leaves every dispatcher's request in service. -/
theorem State.unfenceLink_service (s : State) (p q : Port) : ((s.unfenceLink q).link p).service = (s.link p).service := by
  unfold State.unfenceLink
  split
  · rw [State.setLink_link]
    split
    · next h =>
      rw [h]
      rfl
    · rfl
  all_goals rfl

/-! ### Channel requests -/

/-- A change of one channel's run leaves every request in service. -/
theorem RunOnly.service {c : Channel} {s t : State} (h : RunOnly c s t) (p : Port) :
    (t.link p).service = (s.link p).service := by
  rw [h.link p]

theorem State.giveSlots_service (s : State) (p q : Port) : ((s.giveSlots p).link q).service = (s.link q).service := by
  rw [(EngineKeeps.giveSlots s p).link q]

theorem LinksKept.channelStart {s : State} {p : Port} {r : Request} (hreq : s.request p = some r) (chan : Byte) (list : Word)
    (guard : Option Handle) : LinksKept s (s.channelStart p chan list guard) := by
  unfold State.channelStart
  split
  · exact .answer hreq ..
  split
  · exact .answer hreq ..
  split
  · exact .answer hreq ..
  split
  · exact .answer hreq ..
  · next c _ _ _ _ =>
    have hrun : RunOnly c s ((s.setChan c { ChannelContext.reset with
        state := .loading, owner := some p, list := some list, guard := guard }).handHub ⟨c, .first, .fetch list 16⟩) :=
      (RunOnly.setChan ..).trans (.handHub _ ⟨c, _, _⟩)
    exact ((LinksKept.ofRun hrun).trans (.giveSlots ..)).thenAnswer hreq
      ((State.giveSlots_service ..).trans (hrun.service p)) ..

theorem LinksKept.channelStop {s : State} {p : Port} {r : Request} (hreq : s.request p = some r) (chan : Byte) :
    LinksKept s (s.channelStop p chan) := by
  unfold State.channelStop
  split
  · exact .answer hreq ..
  split
  · exact .answer hreq ..
  split
  · next c _ _ _ =>
    have hrun : RunOnly c s (s.enterAborting c .keep) := .enterAborting ..
    exact (LinksKept.ofRun hrun).thenAnswer hreq (hrun.service p) ..
  split
  · exact .answer hreq ..
  · exact .answer hreq ..

theorem LinksKept.channelRelease {s : State} {p : Port} {r : Request} (hreq : s.request p = some r) (chan : Byte) :
    LinksKept s (s.channelRelease p chan) := by
  unfold State.channelRelease
  split
  · exact .answer hreq ..
  split
  · exact .answer hreq ..
  split
  · exact .answerBeside hreq
  · exact .answer hreq ..

theorem LinksKept.channelQuery {s : State} {p : Port} {r : Request} (hreq : s.request p = some r) (chan : Byte) :
    LinksKept s (s.channelQuery p chan) := by
  unfold State.channelQuery
  split
  · exact .answer hreq ..
  · exact .answer hreq ..

theorem LinksKept.writeSupervisor {s : State} {p : Port} {r : Request} (hreq : s.request p = some r) (q : Port) :
    LinksKept s (s.writeSupervisor p q) := by
  unfold State.writeSupervisor
  split
  · exact .answer hreq ..
  split
  · exact .answerBeside hreq
  · exact .answer hreq ..

/-! ### Store accesses -/

theorem LinksKept.presentDirect {s : State} {p : Port} {r : Request} (hreq : s.request p = some r) (addr : Word)
    (len : Option Word) : LinksKept s (s.presentDirect p addr len) := by
  unfold State.presentDirect
  split
  · exact .answer hreq ..
  · refine .setLink fun hlc => hlc.ofCounted (hlc.counted.setStage fun sv hsv hd => ?_)
    rw [State.wanted_of_request hreq hlc sv hsv] at hd
    cases hd

/-- A request from before the loss is over: nothing is held, and a link that waited for it comes UP (R151, R164). -/
theorem LinksKept.endDiscarded {s : State} {p : Port} {sv : Service} (hsv : (s.link p).service = some sv)
    (hd : sv.discard = true) : LinksKept s (s.endDiscarded p) := by
  have hlink := s.setLink_link_self p (s.link p).discardService
  have hidle : LinksKept s (s.setLink p (s.link p).discardService) := .setLink fun hlc =>
    hlc.ofCounted (hlc.counted.discardService (hlc.counted.down_of_discard hsv hd))
  unfold State.endDiscarded
  dsimp only
  split
  · next hready =>
    refine hidle.portUpEvent ?_ ?_
    · rw [hready.1]
      decide
    · rw [hlink]
      rfl
  · exact hidle

theorem LinksKept.deliver (s : State) (p : Port) (m : Member) (a : ChannelAccess) (o : AccessOutcome) :
    LinksKept s (s.deliver p m a o) := by
  cases m with
  | dispatcher =>
    show LinksKept s (s.deliverDirect p o)
    unfold State.deliverDirect
    split
    · next sv hsv =>
      split
      · next hd => exact .endDiscarded hsv hd
      · next hd =>
        refine (LinksKept.refl s).answerWanted rfl (fun _ x hx => ?_) ..
        cases hsv.symm.trans hx
        exact Bool.not_eq_true _ ▸ hd
    · exact .refl s
  | chan c => exact .of_links rfl

theorem LinksKept.takeAccess (s : State) (p : Port) (m : Member) : LinksKept s (s.takeAccess p m) := by
  cases m with
  | dispatcher => exact .setLink fun hlc => hlc.ofCounted (hlc.counted.setStage fun _ _ _ => rfl)
  | chan c => exact .of_links rfl

theorem LinksKept.startAccess (s : State) (p : Port) (m : Member) (a : ChannelAccess) : LinksKept s (s.startAccess p m a) := by
  have htake := LinksKept.takeAccess s p m
  unfold State.startAccess
  dsimp only
  split
  · exact htake.trans (.deliver ..)
  · exact htake.trans (.of_links rfl)

theorem LinksKept.grantPort (s : State) (p : Port) (isPriority : Bool) : LinksKept s (s.grantPort p isPriority) := by
  unfold State.grantPort
  split
  · split
    · next m _ _ _ _ =>
      have hturned : LinksKept s (s.setArbiter (s.arbiter.rotated p m isPriority)) := .of_links rfl
      exact hturned.trans (.startAccess ..)
    · exact .refl s
  · exact .refl s

theorem LinksKept.grantNext (s : State) : LinksKept s s.grantNext := by
  unfold State.grantNext
  split
  · exact .grantPort ..
  split
  · exact .grantPort ..
  · exact .refl s

theorem LinksKept.finishAccess (s : State) (g : Granted) : LinksKept s (s.finishAccess g) := by
  have hcarried : LinksKept s (s.carriedOut g) := by
    rw [State.carriedOut_frame]
    exact .of_links rfl
  exact hcarried.trans (.deliver ..)

theorem LinksKept.takeEvent (s : State) (p : Port) (e : NoticeEvent) : LinksKept s (s.takeEvent p e) := by
  unfold State.takeEvent
  split
  · exact .of_links rfl
  · exact .refl s

/-! ### Reset -/

theorem State.link_hubReset {s t : State} (h : t.links = mapVector LinkController.hubReset s.links) (p : Port) :
    t.link p = LinkController.reset (s.link p).prst := by
  rw [State.link, h]
  simp [mapVector, LinkController.hubReset, State.link]

/-- A Link Controller reset is lawful, by whatever its port reset line says (Table 8.1). -/
theorem LinksKept.of_reset {s t : State} (h : t.links = mapVector LinkController.hubReset s.links) : LinksKept s t := by
  refine ⟨fun _ p => ?_⟩
  rw [State.link_hubReset h]
  exact LinkController.lawful_reset _

theorem LinksKept.coldReset (s : State) : LinksKept s s.coldReset := .of_reset rfl

theorem LinksKept.warmReset (s : State) : LinksKept s s.warmReset := .of_reset rfl

end Sys2Proof.Machine
end

section
/-! SUPPORT. O58: every command keeps law 8 of the Link Controllers. -/

namespace Sys2Proof.Machine

/-! ### The requests of the dispatchers -/

theorem execRead_linksKept (s : State) (p : Port) : Gives (LinksKept s) (execRead p s) := by
  unfold execRead
  split
  · next hreq => exact .next (.presentDirect hreq ..)
  · exact .next (.refl s)

theorem execWrite_linksKept (s : State) (p : Port) : Gives (LinksKept s) (execWrite p s) := by
  unfold execWrite
  split
  · next hreq => exact .next (.presentDirect hreq ..)
  · exact .next (.refl s)

theorem execFetchAdd_linksKept (s : State) (p : Port) : Gives (LinksKept s) (execFetchAdd p s) := by
  unfold execFetchAdd
  split
  · next hreq => exact .next (.presentDirect hreq ..)
  · exact .next (.refl s)

theorem execSwap_linksKept (s : State) (p : Port) : Gives (LinksKept s) (execSwap p s) := by
  unfold execSwap
  split
  · next hreq => exact .next (.presentDirect hreq ..)
  · exact .next (.refl s)

theorem execCompareSwap_linksKept (s : State) (p : Port) : Gives (LinksKept s) (execCompareSwap p s) := by
  unfold execCompareSwap
  split
  · next hreq => exact .next (.presentDirect hreq ..)
  · exact .next (.refl s)

theorem execLock_linksKept (s : State) (p : Port) : Gives (LinksKept s) (execLock p s) := by
  unfold execLock
  split
  · next hreq => exact .next (.lockAnswer hreq _)
  · exact .next (.refl s)

theorem execUnlock_linksKept (s : State) (p : Port) : Gives (LinksKept s) (execUnlock p s) := by
  unfold execUnlock
  split
  · next hreq => exact .next (.lockAnswer hreq _)
  · exact .next (.refl s)

theorem execRenew_linksKept (s : State) (p : Port) : Gives (LinksKept s) (execRenew p s) := by
  unfold execRenew
  split
  · next hreq => exact .next (.lockAnswer hreq _)
  · exact .next (.refl s)

theorem execAdopt_linksKept (s : State) (p : Port) : Gives (LinksKept s) (execAdopt p s) := by
  unfold execAdopt
  split
  · next hreq => exact .next (.lockAnswer hreq _)
  · exact .next (.refl s)

theorem execReclaim_linksKept (s : State) (p : Port) : Gives (LinksKept s) (execReclaim p s) := by
  unfold execReclaim
  split
  · next hreq => exact .ite (.next (.lockAnswer hreq _)) (.next (.answer hreq ..))
  · exact .next (.refl s)

theorem execForceRelease_linksKept (s : State) (p : Port) : Gives (LinksKept s) (execForceRelease p s) := by
  unfold execForceRelease
  split
  · next hreq => exact .ite (.next (.lockAnswer hreq _)) (.next (.answer hreq ..))
  · exact .next (.refl s)

theorem execLockQuery_linksKept (s : State) (p : Port) : Gives (LinksKept s) (execLockQuery p s) := by
  unfold execLockQuery
  split
  · next hreq => exact .next (.answer hreq ..)
  · exact .next (.refl s)

theorem execChannelStart_linksKept (s : State) (p : Port) : Gives (LinksKept s) (execChannelStart p s) := by
  unfold execChannelStart
  split
  · next hreq => exact .next (.channelStart hreq ..)
  · exact .next (.refl s)

theorem execChannelStop_linksKept (s : State) (p : Port) : Gives (LinksKept s) (execChannelStop p s) := by
  unfold execChannelStop
  split
  · next hreq => exact .next ((LinksKept.channelStop hreq _).asOneAction s)
  · exact .next (.refl s)

theorem execChannelRelease_linksKept (s : State) (p : Port) : Gives (LinksKept s) (execChannelRelease p s) := by
  unfold execChannelRelease
  split
  · next hreq => exact .next (.channelRelease hreq _)
  · exact .next (.refl s)

theorem execChannelQuery_linksKept (s : State) (p : Port) : Gives (LinksKept s) (execChannelQuery p s) := by
  unfold execChannelQuery
  split
  · next hreq => exact .next (.channelQuery hreq _)
  · exact .next (.refl s)

theorem execNoticeAck_linksKept (s : State) (p : Port) : Gives (LinksKept s) (execNoticeAck p s) := by
  unfold execNoticeAck
  split
  · next hreq =>
    split
    · exact .next (.answerBeside hreq)
    · exact .next (.answer hreq ..)
  · exact .next (.refl s)

theorem execConfigRead_linksKept (s : State) (p : Port) : Gives (LinksKept s) (execConfigRead p s) := by
  unfold execConfigRead
  split
  · next hreq =>
    split
    · exact .next (.answer hreq ..)
    · exact .next (.answer hreq ..)
  · exact .next (.refl s)

theorem execConfigWrite_linksKept (s : State) (p : Port) : Gives (LinksKept s) (execConfigWrite p s) := by
  unfold execConfigWrite
  split
  · next hreq =>
    refine .ite (.next (.refl s)) ?_
    split
    · exact .next (.answer hreq ..)
    · exact .next (.answerBeside hreq)
  · exact .next (.refl s)

theorem execConfigWriteSupervisor_linksKept (s : State) (p : Port) : Gives (LinksKept s) (execConfigWriteSupervisor p s) := by
  unfold execConfigWriteSupervisor
  split
  · next hreq =>
    refine .ite ?_ (.next (.refl s))
    split
    · exact .next (.answer hreq ..)
    · exact .next (.writeSupervisor hreq _)
  · exact .next (.refl s)

theorem execConfigWriteTimebase_linksKept (s : State) (p : Port) : Gives (LinksKept s) (execConfigWriteTimebase p s) := by
  unfold execConfigWriteTimebase
  split
  · next hreq =>
    refine .ite ?_ (.next (.refl s))
    split
    · exact .next (.answer hreq ..)
    · exact .next (.answerBeside hreq)
  · exact .next (.refl s)

/-- The supervisor does not fence itself (R180), so it is answered on a link as it was. -/
theorem execFence_linksKept (s : State) (p : Port) : Gives (LinksKept s) (execFence p s) := by
  unfold execFence
  split
  · next q hreq =>
    split
    · exact .next (.answer hreq ..)
    · next hsup =>
      split
      · exact .next (.answer hreq ..)
      · next hq =>
        have hother : p ≠ q := fun he => hsup fun hp => hq (he ▸ hp)
        exact .next ((LinksKept.fenceLink s q).thenAnswer hreq (by rw [State.fenceLink_link_other s hother]) ..)
  · exact .next (.refl s)

theorem execUnfence_linksKept (s : State) (p : Port) : Gives (LinksKept s) (execUnfence p s) := by
  unfold execUnfence
  split
  · next q hreq =>
    exact .ite (.next (.answer hreq ..))
      (.next ((LinksKept.unfenceLink s q).thenAnswer hreq (State.unfenceLink_service ..) ..))
  · exact .next (.refl s)

/-! ### The claims between blocks, and time -/

theorem execArbiterGrant_linksKept (s : State) : Gives (LinksKept s) (execArbiterGrant s) := by
  unfold execArbiterGrant
  split
  · exact .next (.refl s)
  · exact .next (.grantNext s)

theorem execAccessComplete_linksKept (s : State) : Gives (LinksKept s) (execAccessComplete s) := by
  unfold execAccessComplete
  split
  · exact .next (.finishAccess ..)
  · exact .next (.refl s)

theorem execLeaseRestartReport_linksKept (s : State) : Gives (LinksKept s) (execLeaseRestartReport s) := by
  unfold execLeaseRestartReport
  split
  · exact .next (.of_links rfl)
  · exact .next (.refl s)

theorem execChannelAccessOutcome_linksKept (s : State) (c : Channel) : Gives (LinksKept s) (execChannelAccessOutcome c s) := by
  unfold execChannelAccessOutcome
  split
  · have hcleared : LinksKept s (s.setOutcome c none) := .of_links rfl
    exact .next (((hcleared.trans (.ofRun (.takeOutcome ..))).trans (.giveOwnerSlots ..)).asOneAction s)
  · exact .next (.refl s)

theorem execReleaseAnnouncement_linksKept (s : State) : Gives (LinksKept s) (execReleaseAnnouncement s) := by
  unfold execReleaseAnnouncement
  split
  · next r rest _ =>
    have htaken : LinksKept s { s with announcements := rest } := .of_links rfl
    exact .next (htaken.trans (.foldl (fun t c => .ofRun (.retryStalled t r c)) ..))
  · exact .next (.refl s)

theorem execStallExpiry_linksKept (s : State) (c : Channel) : Gives (LinksKept s) (execStallExpiry c s) := by
  unfold execStallExpiry
  split
  · exact .ite (.next ((LinksKept.ofRun (.faultRun ..)).asOneAction s)) (.next (.refl s))
  · exact .next (.refl s)

theorem execNoticeEvent_linksKept (s : State) (k : Nat) : Gives (LinksKept s) (execNoticeEvent k s) := by
  unfold execNoticeEvent
  split
  · next rest _ =>
    have htaken : LinksKept s { s with events := dropEvent k rest s.events } := .of_links rfl
    exact .next (htaken.trans (.takeEvent ..))
  · exact .next (.refl s)
  · exact .next (.refl s)

theorem execTrainWindowExpiry_linksKept (s : State) (p : Port) : Gives (LinksKept s) (execTrainWindowExpiry p s) := by
  unfold execTrainWindowExpiry
  split
  · next h => exact .next (.failTraining h.1)
  · exact .next (.refl s)

theorem execSlotTimeout_linksKept (s : State) (p : Port) (h : HubSlot) : Gives (LinksKept s) (execSlotTimeout p h s) := by
  unfold execSlotTimeout
  split
  · exact .next (.endRequest ..)
  · exact .next (.refl s)

theorem State.link_tick {s t : State} (h : t.links = mapVector LinkController.tick s.links) (p : Port) :
    t.link p = (s.link p).tick := by
  rw [State.link, h]
  simp [mapVector, State.link]

theorem execTimebaseBoundary_linksKept (s : State) : Gives (LinksKept s) (execTimebaseBoundary s) := by
  unfold execTimebaseBoundary
  split
  · refine .next ⟨fun hs p => ?_⟩
    rw [State.link_tick (s := s) rfl]
    exact (hs p).tick
  all_goals exact .next (.refl s)

/-! ### Reset sequencing -/

theorem execPwrokRise_linksKept (s : State) : Gives (LinksKept s) (execPwrokRise s) := by
  unfold execPwrokRise
  split
  · exact .next (.of_links rfl)
  all_goals exact .next (.refl s)

theorem execInitComplete_linksKept (s : State) : Gives (LinksKept s) (execInitComplete s) := by
  unfold execInitComplete
  split
  · exact .next (.of_links rfl)
  · exact .next (.of_links rfl)
  all_goals exact .next (.refl s)

theorem execHrstAssert_linksKept (s : State) : Gives (LinksKept s) (execHrstAssert s) := by
  unfold execHrstAssert
  split
  · exact .next ((LinksKept.warmReset s).trans (.of_links rfl))
  · exact .next (.warmReset s)
  all_goals exact .next (.of_links rfl)

theorem execHrstRelease_linksKept (s : State) : Gives (LinksKept s) (execHrstRelease s) := by
  unfold execHrstRelease
  split <;> exact .next (.of_links rfl)

theorem execSupselChange_linksKept (s : State) (straps : Port) : Gives (LinksKept s) (execSupselChange straps s) := by
  unfold execSupselChange
  split <;> exact .next (.of_links rfl)

/-! ### Every command -/

/-- Every command keeps law 8. -/
theorem exec_linksKept (c : Instr) (s : State) : Gives (LinksKept s) (exec c s) := by
  have hclaim : ∀ p, LinksKept s (s.takeClaim p) := fun p => .takeClaim s p
  cases c with
  | pwrokFall => exact .next (.coldReset s)
  | pwrokRise => exact execPwrokRise_linksKept s
  | initComplete => exact execInitComplete_linksKept s
  | hrstAssert => exact execHrstAssert_linksKept s
  | hrstRelease => exact execHrstRelease_linksKept s
  | supselChange straps => exact execSupselChange_linksKept s straps
  | prstnAssert p => exact .next (.assertPrst s p)
  | prstnRelease p => exact .next (.releasePrst s p)
  | bitDisturbance w d => exact .next (.of_links rfl)
  | timebaseBoundary => exact execTimebaseBoundary_linksKept s
  | leaseExpiry k => exact .next (.expire ..)
  | waitExpiry k => exact .next (.expire ..)
  | orphanExpiry k => exact .next (.expire ..)
  | stallExpiry c => exact execStallExpiry_linksKept s c
  | trainWindowExpiry p => exact execTrainWindowExpiry_linksKept s p
  | slotTimeout p h => exact execSlotTimeout_linksKept s p h
  | hello p => exact .next (.receiveHello s p)
  | ready p word => exact .next (.receiveReady s p word)
  | lossOfSignal p => exact .next (.linkFails ..)
  | badCheckPacket p => exact .next (.linkFails ..)
  | requestReceived p pkt => exact .next (.receivePacket s p pkt)
  | fetchReply p tag payload => exact .next (.receiveFetchReply s p tag payload)
  | storeReply p tag payload => exact .next (.receiveStoreReply s p tag payload)
  | responseSent p => exact .ite (.next (.sendResponse s p)) (.next (.refl s))
  | noticeSent p => exact .ite (.next (.sendNotice s p)) (.next (.refl s))
  | hubRequestSent p => exact .ite (.next (.sendHubRequest s p)) (.next (.refl s))
  | read p => exact execRead_linksKept s p
  | write p => exact execWrite_linksKept s p
  | fetchAdd p => exact execFetchAdd_linksKept s p
  | swap p => exact execSwap_linksKept s p
  | compareSwap p => exact execCompareSwap_linksKept s p
  | arbiterGrant => exact execArbiterGrant_linksKept s
  | accessComplete => exact execAccessComplete_linksKept s
  | leaseRestartReport => exact execLeaseRestartReport_linksKept s
  | lock p => exact execLock_linksKept s p
  | unlock p => exact execUnlock_linksKept s p
  | renew p => exact execRenew_linksKept s p
  | adopt p => exact execAdopt_linksKept s p
  | reclaim p => exact execReclaim_linksKept s p
  | forceRelease p => exact execForceRelease_linksKept s p
  | lockQuery p => exact execLockQuery_linksKept s p
  | lockPortDown p => exact .next (.takeLockPortDown s p)
  | arbiterPortDown p => exact .next (.takeArbiterPortDown s p)
  | channelStart p => exact execChannelStart_linksKept s p
  | channelStop p => exact execChannelStop_linksKept s p
  | channelRelease p => exact execChannelRelease_linksKept s p
  | channelQuery p => exact execChannelQuery_linksKept s p
  | descriptorReply p => exact .ite (.next (hclaim p)) (.next (.refl s))
  | lookaheadReply p => exact .ite (.next (hclaim p)) (.next (.refl s))
  | chunkFetchReply p => exact .ite (.next (hclaim p)) (.next (.refl s))
  | chunkStoreReply p => exact .ite (.next (hclaim p)) (.next (.refl s))
  | channelHubTimeout p => exact .ite (.next (hclaim p)) (.next (.refl s))
  | hubRequestDrop p => exact .ite (.next (hclaim p)) (.next (.refl s))
  | channelAccessOutcome c => exact execChannelAccessOutcome_linksKept s c
  | releaseAnnouncement => exact execReleaseAnnouncement_linksKept s
  | channelPortDown p => exact .ite (.next (hclaim p)) (.next (.refl s))
  | noticeEvent k => exact execNoticeEvent_linksKept s k
  | noticeAck p => exact execNoticeAck_linksKept s p
  | noticeRewind p => exact .ite (.next (.takeNoticePortDown s p)) (.next (.refl s))
  | noticeQueueEmpty p => exact .ite (.next (.takeNoticePortDown s p)) (.next (.refl s))
  | configRead p => exact execConfigRead_linksKept s p
  | configWrite p => exact execConfigWrite_linksKept s p
  | configWriteSupervisor p => exact execConfigWriteSupervisor_linksKept s p
  | configWriteTimebase p => exact execConfigWriteTimebase_linksKept s p
  | fence p => exact execFence_linksKept s p
  | unfence p => exact execUnfence_linksKept s p

/-- The one next state of a command keeps law 8. -/
theorem exec_linksLawful (c : Instr) {s : State} (h : ∀ p : Port, (s.link p).lawful) :
    Leads (fun t => ∀ p : Port, (t.link p).lawful) (exec c s) := by
  obtain ⟨u, hu, hkept⟩ := exec_linksKept c s
  rw [hu]
  exact .next (hkept.lawful h)

/-! ### O58 -/

/-- Settles O58, by the commands: each keeps every Link Controller lawful, carried to the step. -/
theorem everyStepKeepsTheLinkLaw : Obligations.EveryStepKeepsTheLinkLaw := fun _ _ =>
  step_keeps (P := fun s => ∀ p : Port, (s.link p).lawful) (fun c _ => exec_linksLawful c) (fun _ => id) (fun _ _ => id)

end Sys2Proof.Machine
end


section
/-! SUPPORT. O60: outside RUN every block is as after reset, so no command finds anything there to do but those of reset sequencing, the
pins and a disturbance (R167, R171, R182). -/

namespace Sys2Proof.Machine

/-! ### What a state with every block as after reset holds -/

/-- Every block is as after reset, with the straps' supervisor port and the levels of the port reset lines (R167). -/
structure State.BlocksReset (s : State) : Prop where
  timebase : s.timebase = none
  settings : s.settings = Settings.reset s.straps
  arbiter : s.arbiter = Arbiter.reset
  entry : ∀ k : LockSlot, (s.locks.entry k).state = .free
  order : s.locks.order = []
  chan : ∀ c : Channel, s.chan c = ChannelContext.reset
  link : ∀ p : Port, s.link p = LinkController.reset (s.link p).prst
  queue : ∀ p : Port, s.queue p = []
  claims : ∀ p : Port, s.claimsOf p = []
  portDown : ∀ p : Port, s.portDown p = PortDownClaims.none
  events : s.events = []
  announcements : s.announcements = []
  reports : s.reports = []

theorem State.quietOutsideRun_iff (s : State) : s.quietOutsideRun ↔ (s.seqState ≠ .run → s.BlocksReset) := by
  refine forall_congr' fun _ => ⟨?_, ?_⟩
  · rintro ⟨htime, hset, harb, hentry, horder, hchan, hport, hevents, hann, hreports⟩
    obtain ⟨hlink, hqueue, hclaims, hdown⟩ : _ ∧ _ ∧ _ ∧ _ := by simpa only [forall_and] using hport
    exact ⟨htime, hset, harb, hentry, horder, hchan, hlink, hqueue, hclaims, hdown, hevents, hann, hreports⟩
  · rintro ⟨htime, hset, harb, hentry, horder, hchan, hlink, hqueue, hclaims, hdown, hevents, hann, hreports⟩
    exact ⟨htime, hset, harb, hentry, horder, hchan, fun p => ⟨hlink p, hqueue p, hclaims p, hdown p⟩, hevents, hann, hreports⟩

section
variable {s : State} (h : s.BlocksReset)
include h

/-- A link outside RUN is OFF or DOWN by its port reset line (Table 8.1). -/
theorem State.BlocksReset.linkState (p : Port) : (s.link p).link = if (s.link p).prst then .off else .down := by
  rw [h.link p]
  rfl

theorem State.BlocksReset.not_up (p : Port) : (s.link p).link ≠ .up := by
  rw [h.linkState]
  split <;> decide

theorem State.BlocksReset.not_training (p : Port) : (s.link p).link ≠ .training := by
  rw [h.linkState]
  split <;> decide

theorem State.BlocksReset.not_fenced (p : Port) : (s.link p).link ≠ .fenced := by
  rw [h.linkState]
  split <;> decide

theorem State.BlocksReset.service (p : Port) : (s.link p).service = none := by
  rw [h.link p]
  rfl

/-- No dispatcher has a request for its block. -/
theorem State.BlocksReset.request (p : Port) : s.request p = none := by
  rw [State.request, h.service p]

theorem State.BlocksReset.outstanding (p : Port) (k : HubSlot) : (s.link p).outstanding k = none := by
  rw [h.link p]
  exact LinkController.outstanding_reset ..

theorem State.BlocksReset.inProgress : s.arbiter.inProgress = none := by
  rw [h.arbiter]
  rfl

theorem State.BlocksReset.waitingAccess (c : Channel) : s.waitingAccess c = none := by
  rw [State.waitingAccess, h.arbiter]
  exact Vector.getElem_replicate ..

theorem State.BlocksReset.outcomeOf (c : Channel) : s.outcomeOf c = none := by
  rw [State.outcomeOf, h.arbiter]
  exact Vector.getElem_replicate ..

/-- No member of a group has an access waiting (R16). -/
theorem State.BlocksReset.memberAccess (p : Port) (m : Member) : s.memberAccess p m = none := by
  cases m with
  | dispatcher =>
    show (s.dispatcherAccess p).map _ = none
    rw [State.dispatcherAccess, h.service p]
    rfl
  | chan c =>
    refine (ite_congr rfl (fun _ => h.waitingAccess c) fun _ => rfl).trans ?_
    split <;> rfl

/-- No grant can be made (R17, R18). -/
theorem State.BlocksReset.grantNext : s.grantNext = s := by
  have hnone : ∀ p, s.groupWaiting p = false := fun p => by
    rw [State.groupWaiting, List.any_eq_false]
    intro m _
    rw [h.memberAccess]
    decide
  have hpriority : s.priorityGrant = none := by
    unfold State.priorityGrant
    split
    · next p _ => exact if_neg (by rw [hnone p]; exact fun hw => by cases hw.1)
    · rfl
  have hrotation : s.rotationPort = none := by
    rw [State.rotationPort, List.find?_eq_none]
    intro p _
    rw [hnone p]
    decide
  rw [State.grantNext, hpriority, hrotation]

end

/-! ### Commands that find nothing to do -/

/-- The commands that change something outside RUN: reset sequencing, the pins and a disturbance (R1, R149, R171, R182). -/
def actsOutsideRun : Instr → Bool
  | .pwrokFall | .pwrokRise | .initComplete | .hrstAssert | .hrstRelease | .supselChange _ | .prstnAssert _ | .prstnRelease _
  | .bitDisturbance _ _ => true
  | _ => false

section
variable {s : State} (h : s.BlocksReset)
include h

theorem State.BlocksReset.linkFails (p : Port) (cause : DownCause) : s.linkFails p cause = s := by
  unfold State.linkFails
  split
  · next hup => exact absurd hup (h.not_up p)
  · next htraining => exact absurd htraining (h.not_training p)
  all_goals rfl

/-- HUBRDY is low: a HELLO starts no training (R150). -/
theorem State.BlocksReset.receiveHello (hseq : s.seqState ≠ .run) (p : Port) : s.receiveHello p = s := by
  unfold State.receiveHello
  split
  · exact if_neg (by simpa [State.hubrdy] using hseq)
  · next htraining => exact absurd htraining (h.not_training p)
  all_goals rfl

theorem State.BlocksReset.receiveReady (p : Port) (word : Word) : s.receiveReady p word = s := by
  unfold State.receiveReady
  split
  · next htraining => exact absurd htraining (h.not_training p)
  all_goals rfl

theorem State.BlocksReset.receiveRequest (p : Port) (pkt : Packet) : s.receiveRequest p pkt = s := by
  unfold State.receiveRequest
  split
  · next hup => exact absurd hup (h.not_up p)
  · next htraining => exact absurd htraining (h.not_training p)
  all_goals rfl

theorem State.BlocksReset.receiveFetchReply (p : Port) (tag : Byte) (payload : List Word) :
    s.receiveFetchReply p tag payload = s := by
  unfold State.receiveFetchReply
  split
  · next hup => exact absurd hup (h.not_up p)
  · next htraining => exact absurd htraining (h.not_training p)
  all_goals rfl

theorem State.BlocksReset.receiveStoreReply (p : Port) (tag : Byte) (payload : List Word) :
    s.receiveStoreReply p tag payload = s := by
  unfold State.receiveStoreReply
  split
  · next hup => exact absurd hup (h.not_up p)
  · next htraining => exact absurd htraining (h.not_training p)
  all_goals rfl

theorem State.BlocksReset.receivePacket (hseq : s.seqState ≠ .run) (p : Port) (pkt : Packet) : s.receivePacket p pkt = s := by
  unfold State.receivePacket
  split
  · exact h.receiveFetchReply ..
  · exact h.receiveStoreReply ..
  · exact h.receiveHello hseq p
  · exact h.receiveReady ..
  · exact h.receiveRequest ..

/-- Nothing goes out (R157). -/
theorem State.BlocksReset.outbound (p : Port) : s.outbound p = none := if_neg (h.not_up p)

theorem State.BlocksReset.timedOut (p : Port) (k : HubSlot) : (s.link p).timedOut k = none := by
  rw [LinkController.timedOut, h.outstanding]

theorem State.BlocksReset.takeLockPortDown (p : Port) : s.takeLockPortDown p = s := by
  rw [State.takeLockPortDown, h.portDown p]
  rfl

theorem State.BlocksReset.takeArbiterPortDown (p : Port) : s.takeArbiterPortDown p = s :=
  if_neg (by rw [h.portDown p]; decide)

/-- No lock timer runs. -/
theorem State.BlocksReset.expiries (k : LockSlot) : s.locks.leaseExpiry k = none ∧ s.locks.waitExpiry k = none
    ∧ s.locks.orphanExpiry s.supervisor k = none := by
  rw [LockUnit.leaseExpiry, LockUnit.waitExpiry, LockUnit.orphanExpiry, h.entry k]
  exact ⟨rfl, rfl, rfl⟩

/-- A command that the reset sequencing and the pins have no part in finds nothing to do. -/
theorem State.BlocksReset.exec_eq (hseq : s.seqState ≠ .run) (c : Instr) (hc : actsOutsideRun c = false) :
    exec c s = .next s := by
  have hreq := h.request
  have hclaims := h.claims
  have hout := h.outbound
  cases c with
  | pwrokFall | pwrokRise | initComplete | hrstAssert | hrstRelease | supselChange | prstnAssert | prstnRelease
  | bitDisturbance => cases hc
  | timebaseBoundary =>
    show execTimebaseBoundary s = _
    unfold execTimebaseBoundary
    split
    · next hrun => exact absurd hrun hseq
    all_goals rfl
  | leaseExpiry k =>
    obtain ⟨hlease, _, _⟩ := h.expiries k
    rw [exec, execLeaseExpiry, hlease, State.expire]
  | waitExpiry k =>
    obtain ⟨_, hwait, _⟩ := h.expiries k
    rw [exec, execWaitExpiry, hwait, State.expire]
  | orphanExpiry k =>
    obtain ⟨_, _, horphan⟩ := h.expiries k
    rw [exec, execOrphanExpiry, horphan, State.expire]
  | stallExpiry c => rw [exec, execStallExpiry, h.chan c]; rfl
  | trainWindowExpiry p => exact if_neg fun htraining => h.not_training p htraining.1
  | slotTimeout p k => rw [exec, execSlotTimeout, h.timedOut]
  | hello p => rw [exec, execHello, h.receiveHello hseq]
  | ready p word => rw [exec, execReady, h.receiveReady]
  | lossOfSignal p => rw [exec, execLossOfSignal, h.linkFails]
  | badCheckPacket p => rw [exec, execBadCheckPacket, h.linkFails]
  | requestReceived p pkt => rw [exec, execRequestReceived, h.receivePacket hseq]
  | fetchReply p tag payload => rw [exec, execFetchReply, h.receiveFetchReply]
  | storeReply p tag payload => rw [exec, execStoreReply, h.receiveStoreReply]
  | responseSent p => rw [exec, execResponseSent, hout]; rfl
  | noticeSent p => rw [exec, execNoticeSent, hout]; rfl
  | hubRequestSent p => rw [exec, execHubRequestSent, hout]; rfl
  | read p => rw [exec, execRead, hreq]
  | write p => rw [exec, execWrite, hreq]
  | fetchAdd p => rw [exec, execFetchAdd, hreq]
  | swap p => rw [exec, execSwap, hreq]
  | compareSwap p => rw [exec, execCompareSwap, hreq]
  | arbiterGrant => rw [exec, execArbiterGrant, h.inProgress, h.grantNext]
  | accessComplete => rw [exec, execAccessComplete, h.inProgress]
  | leaseRestartReport => rw [exec, execLeaseRestartReport, h.reports]
  | lock p => rw [exec, execLock, hreq]
  | unlock p => rw [exec, execUnlock, hreq]
  | renew p => rw [exec, execRenew, hreq]
  | adopt p => rw [exec, execAdopt, hreq]
  | reclaim p => rw [exec, execReclaim, hreq]
  | forceRelease p => rw [exec, execForceRelease, hreq]
  | lockQuery p => rw [exec, execLockQuery, hreq]
  | lockPortDown p => rw [exec, execLockPortDown, h.takeLockPortDown]
  | arbiterPortDown p => rw [exec, execArbiterPortDown, h.takeArbiterPortDown]
  | channelStart p => rw [exec, execChannelStart, hreq]
  | channelStop p => rw [exec, execChannelStop, hreq]
  | channelRelease p => rw [exec, execChannelRelease, hreq]
  | channelQuery p => rw [exec, execChannelQuery, hreq]
  | descriptorReply p => rw [exec, execDescriptorReply, hclaims]; rfl
  | lookaheadReply p => rw [exec, execLookaheadReply, hclaims]; rfl
  | chunkFetchReply p => rw [exec, execChunkFetchReply, hclaims]; rfl
  | chunkStoreReply p => rw [exec, execChunkStoreReply, hclaims]; rfl
  | channelHubTimeout p => rw [exec, execChannelHubTimeout, hclaims]; rfl
  | hubRequestDrop p => rw [exec, execHubRequestDrop, hclaims]; rfl
  | channelAccessOutcome c => rw [exec, execChannelAccessOutcome, h.outcomeOf]
  | releaseAnnouncement => rw [exec, execReleaseAnnouncement, h.announcements]
  | channelPortDown p => rw [exec, execChannelPortDown, hclaims]; rfl
  | noticeEvent k => rw [exec, execNoticeEvent, h.events]; rfl
  | noticeAck p => rw [exec, execNoticeAck, hreq]
  | noticeRewind p => exact if_neg (by rw [h.portDown p]; decide)
  | noticeQueueEmpty p => exact if_neg (by rw [h.portDown p]; decide)
  | configRead p => rw [exec, execConfigRead, hreq]
  | configWrite p => rw [exec, execConfigWrite, hreq]
  | configWriteSupervisor p => rw [exec, execConfigWriteSupervisor, hreq]
  | configWriteTimebase p => rw [exec, execConfigWriteTimebase, hreq]
  | fence p => rw [exec, execFence, hreq]
  | unfence p => rw [exec, execUnfence, hreq]

/-! ### Commands that act outside RUN -/

/-- Reset sequencing, HRST's level and the store are no part of the blocks. -/
theorem State.BlocksReset.resequence (q : SeqState) (level : Bool) (st : Store) :
    State.BlocksReset { s with seqState := q, hrst := level, store := st } :=
  ⟨h.timebase, h.settings, h.arbiter, h.entry, h.order, h.chan, h.link, h.queue, h.claims, h.portDown, h.events,
    h.announcements, h.reports⟩

/-- SUPERVISOR follows the straps (R171). -/
theorem State.BlocksReset.restrap (straps : Port) :
    State.BlocksReset { s with straps := straps, settings := { s.settings with supervisor := straps } } :=
  ⟨h.timebase, by rw [h.settings]; rfl, h.arbiter, h.entry, h.order, h.chan, h.link, h.queue, h.claims, h.portDown, h.events,
    h.announcements, h.reports⟩

theorem State.BlocksReset.setLinkReset (p : Port) (level : Bool) : (s.setLink p (LinkController.reset level)).BlocksReset := by
  refine ⟨h.timebase, h.settings, h.arbiter, h.entry, h.order, h.chan, fun q => ?_, h.queue, h.claims, h.portDown, h.events,
    h.announcements, h.reports⟩
  rw [State.setLink_link]
  split
  · rfl
  · exact h.link q

/-- PRSTn asserted: OFF (R149). -/
theorem State.BlocksReset.assertPrst (p : Port) : s.assertPrst p = s.setLink p (LinkController.reset true) := by
  have hlink := h.link p
  unfold State.assertPrst
  cases hprst : (s.link p).prst <;> rw [hprst] at hlink <;> rw [hlink]
  · show (s.setLink p _).setLink p (((s.setLink p _).link p).moveTo .off) = _
    rw [State.setLink_link_self, State.setLink_twice]
    rfl
  · rfl

/-- PRSTn released: DOWN (R149). -/
theorem State.BlocksReset.releasePrst (p : Port) : s.releasePrst p = s.setLink p (LinkController.reset false) := by
  have hlink := h.link p
  unfold State.releasePrst
  cases hprst : (s.link p).prst <;> rw [hprst] at hlink <;> rw [hlink]
  · rfl
  · show (s.setLink p _).setLink p (((s.setLink p _).link p).moveTo .down) = _
    rw [State.setLink_link_self, State.setLink_twice]
    rfl

end

/-! ### The resets -/

/-- Warm reset frees every lock slot (R51). -/
theorem LockUnit.warmReset_entry (u : LockUnit) (k : LockSlot) : (u.warmReset.entry k).state = .free := by
  have hentry : u.warmReset.entry k = (u.entry k).warmReset := by
    simp [LockUnit.warmReset, LockUnit.entry, mapVector]
  rw [hentry]
  unfold LockEntry.warmReset
  split
  · next hfree => exact hfree
  all_goals rfl

theorem State.coldReset_blocksReset (s : State) : s.coldReset.BlocksReset where
  timebase := rfl
  settings := rfl
  arbiter := rfl
  entry k := congrArg LockEntry.state (State.entry_reset k)
  order := rfl
  chan := State.chan_reset
  link p := by rw [State.link_hubReset (s := s) rfl]; rfl
  queue := State.queue_reset
  claims := State.claimsOf_reset
  portDown := State.portDown_reset
  events := rfl
  announcements := rfl
  reports := rfl

theorem State.warmReset_blocksReset (s : State) : s.warmReset.BlocksReset where
  timebase := rfl
  settings := rfl
  arbiter := rfl
  entry := s.locks.warmReset_entry
  order := rfl
  chan := State.chan_reset
  link p := by rw [State.link_hubReset (s := s) rfl]; rfl
  queue := State.queue_reset
  claims := State.claimsOf_reset
  portDown := State.portDown_reset
  events := rfl
  announcements := rfl
  reports := rfl

/-! ### Every command -/

/-- Where all blocks are as after reset, whatever the sequencing state. -/
theorem State.BlocksReset.quiet {s : State} (h : s.BlocksReset) : s.quietOutsideRun := s.quietOutsideRun_iff.mpr fun _ => h

theorem State.quiet_of_run {s : State} (h : s.seqState = .run) : s.quietOutsideRun := fun hn => absurd h hn

/-- Completing an access leaves the sequencing state. -/
theorem State.finishAccess_seqState (s : State) (g : Granted) : (s.finishAccess g).seqState = s.seqState := by
  have hcarried : (s.carriedOut g).seqState = s.seqState := by rw [State.carriedOut_frame]
  rw [State.finishAccess_eq]
  unfold State.deliver
  split
  · exact (StoreUntouched.deliverDirect ..).seqState.trans hcarried
  · exact hcarried

/-- In RUN a command other than a reset leaves RUN. -/
theorem exec_quiet_of_run (c : Instr) {s : State} (hrun : s.seqState = .run) : Leads State.quietOutsideRun (exec c s) := by
  by_cases hc : touchesStore c = false
  · exact fun t ht => State.quiet_of_run ((exec_storeUntouched c s hc t ht).seqState.trans hrun)
  · cases c with
    | pwrokFall => exact .next s.coldReset_blocksReset.quiet
    | pwrokRise => rw [exec, execPwrokRise, hrun]; exact .next (State.quiet_of_run hrun)
    | initComplete => rw [exec, execInitComplete, hrun]; exact .next (State.quiet_of_run hrun)
    | hrstAssert => rw [exec, execHrstAssert, hrun]; exact .next s.warmReset_blocksReset.quiet
    | hrstRelease => rw [exec, execHrstRelease, hrun]; exact .next (State.quiet_of_run rfl)
    | bitDisturbance w d => exact .next (State.quiet_of_run hrun)
    | accessComplete =>
      rw [exec, execAccessComplete]
      split
      · exact .next (State.quiet_of_run ((s.finishAccess_seqState _).trans hrun))
      · exact .next (State.quiet_of_run hrun)
    | _ => exact absurd rfl hc

/-- Outside RUN the commands of the reset sequencing and the pins keep the blocks as after reset, or enter RUN. -/
theorem State.BlocksReset.exec_quiet {s : State} (h : s.BlocksReset) (hseq : s.seqState ≠ .run) (c : Instr) :
    Leads State.quietOutsideRun (exec c s) := by
  by_cases hc : actsOutsideRun c = false
  · rw [h.exec_eq hseq c hc]
    exact .next h.quiet
  · cases c with
    | pwrokFall => exact .next s.coldReset_blocksReset.quiet
    | pwrokRise =>
      rw [exec, execPwrokRise]
      split
      · exact .next (h.resequence ..).quiet
      all_goals exact .next h.quiet
    | initComplete =>
      rw [exec, execInitComplete]
      split
      · exact .next (State.quiet_of_run rfl)
      · exact .next (h.resequence ..).quiet
      all_goals exact .next h.quiet
    | hrstAssert =>
      rw [exec, execHrstAssert]
      split
      · exact .next (s.warmReset_blocksReset.resequence ..).quiet
      · exact .next s.warmReset_blocksReset.quiet
      all_goals exact .next (h.resequence ..).quiet
    | hrstRelease =>
      rw [exec, execHrstRelease]
      split
      · exact .next (State.quiet_of_run rfl)
      all_goals exact .next (h.resequence ..).quiet
    | supselChange straps =>
      rw [exec, execSupselChange]
      split
      · next hrun => exact absurd hrun hseq
      all_goals exact .next (h.restrap straps).quiet
    | prstnAssert p =>
      rw [exec, execPrstnAssert, h.assertPrst]
      exact .next (h.setLinkReset ..).quiet
    | prstnRelease p =>
      rw [exec, execPrstnRelease, h.releasePrst]
      exact .next (h.setLinkReset ..).quiet
    | bitDisturbance w d => exact .next (h.resequence ..).quiet
    | _ => exact absurd rfl hc

theorem exec_quietOutsideRun (c : Instr) {s : State} (h : s.quietOutsideRun) : Leads State.quietOutsideRun (exec c s) := by
  by_cases hrun : s.seqState = .run
  · exact exec_quiet_of_run c hrun
  · exact (s.quietOutsideRun_iff.mp h hrun).exec_quiet hrun c

/-! ### O60 -/

/-- The time that passes while nothing is commanded counts no unit outside RUN. -/
theorem State.quietOutsideRun.idle {s : State} (h : s.quietOutsideRun) : s.idle.quietOutsideRun := by
  intro hseq
  obtain ⟨htime, hrest⟩ := h hseq
  refine ⟨?_, hrest⟩
  rw [State.idle, htime]
  rfl

/-- Settles O60, by the commands: outside RUN only reset sequencing, the pins and a disturbance find anything to do. -/
theorem everyStepKeepsBlocksQuietOutsideRun : Obligations.EveryStepKeepsBlocksQuietOutsideRun := fun _ _ =>
  step_keeps (fun c _ => exec_quietOutsideRun c) (fun _ h => h.idle) (fun _ _ => id)

end Sys2Proof.Machine
end


section
/-! SUPPORT. O18, O19, O14 and O8: the loss of a link (R161 to R164), the end of training (R152), PRSTn (R149), and a request packet
(R154, R155). -/

namespace Sys2Proof.Machine

/-! ### What fails a link, state by state -/

theorem State.linkFails_of_up {s : State} {p : Port} (h : (s.link p).link = .up) (cause : DownCause) :
    s.linkFails p cause = s.portDownEvent p .down cause .soft := by
  rw [State.linkFails, h]

theorem State.linkFails_of_training {s : State} {p : Port} (h : (s.link p).link = .training) (cause : DownCause) :
    s.linkFails p cause = s.setLink p (s.link p).failTraining := by
  rw [State.linkFails, h]

theorem State.assertPrst_of_up {s : State} {p : Port} (h : (s.link p).link = .up) :
    s.assertPrst p = (s.setLink p { s.link p with prst := true }).portDownEvent p .off .portReset .hard := by
  rw [State.assertPrst, h]

theorem State.assertPrst_of_starting {s : State} {p : Port} (h : (s.link p).link = .down ∨ (s.link p).link = .training) :
    s.assertPrst p = s.setLink p { s.link p with prst := true, link := .off, trainTimer := none, readyTaken := none } := by
  have hmoves : s.assertPrst p = (s.setLink p { s.link p with prst := true }).setLink p
      (((s.setLink p { s.link p with prst := true }).link p).moveTo .off) := by
    rcases h with h | h <;> rw [State.assertPrst, h]
  rw [hmoves, State.setLink_link_self, State.setLink_twice]
  rfl

theorem State.assertPrst_of_closed {s : State} {p : Port} (h : (s.link p).link = .off ∨ (s.link p).link = .fenced) :
    s.assertPrst p = s.setLink p { s.link p with prst := true } := by
  rcases h with h | h <;> rw [State.assertPrst, h]

theorem State.releasePrst_of_off {s : State} {p : Port} (h : (s.link p).link = .off) :
    s.releasePrst p = s.setLink p { s.link p with prst := false, link := .down, trainTimer := none, readyTaken := none } := by
  have hmoves : s.releasePrst p = (s.setLink p { s.link p with prst := false }).setLink p
      (((s.setLink p { s.link p with prst := false }).link p).moveTo .down) := by
    rw [State.releasePrst, h]
  rw [hmoves, State.setLink_link_self, State.setLink_twice]
  rfl

theorem State.releasePrst_of_not_off {s : State} {p : Port} (h : (s.link p).link ≠ .off) :
    s.releasePrst p = s.setLink p { s.link p with prst := false } := by
  unfold State.releasePrst
  dsimp only
  split
  · next hoff => exact absurd hoff h
  all_goals rfl

/-! ### A request packet, state by state -/

/-- The kinds of R184 that are no reply, HELLO or READY are requests. -/
theorem State.receivePacket_of_arrives (s : State) (p : Port) {pkt : Packet} (h : arrivesAsRequest pkt) :
    s.receivePacket p pkt = s.receiveRequest p pkt := by
  obtain ⟨hfetch, hstore, hhello, hready⟩ := h
  have hkind : ∀ k : Byte, pkt.kind.toNat = k.toNat → pkt.kind = k := fun _ => BitVec.eq_of_toNat_eq
  unfold State.receivePacket
  split
  · next hk => exact absurd (hkind 0x58#8 hk) hfetch
  · next hk => exact absurd (hkind 0x59#8 hk) hstore
  · next hk => exact absurd (hkind 0x60#8 hk) hhello
  · next hk => exact absurd (hkind 0x61#8 hk) hready
  · rfl

theorem State.receiveRequest_of_training {s : State} {p : Port} (h : (s.link p).link = .training) (pkt : Packet) :
    s.receiveRequest p pkt = s.setLink p (s.link p).failTraining := by
  rw [State.receiveRequest, h]

theorem State.receiveRequest_of_full {s : State} {p : Port} {pkt : Packet} (h : (s.link p).link = .up)
    (hfull : 16 ≤ (s.link p).heldCount) : s.receiveRequest p pkt = s.portDownEvent p .down .overrun .soft := by
  simp only [State.receiveRequest, h, if_pos hfull]

theorem State.receiveRequest_of_reuse {s : State} {p : Port} {pkt : Packet} (h : (s.link p).link = .up)
    (hcredit : (s.link p).heldCount < 16) (htag : requestTag pkt ∈ (s.link p).tags) :
    s.receiveRequest p pkt = s.portDownEvent p .down .tagReuse .soft := by
  simp only [State.receiveRequest, h, if_neg (Nat.not_le.mpr hcredit), if_pos htag]

theorem State.receiveRequest_of_fresh {s : State} {p : Port} {pkt : Packet} (h : (s.link p).link = .up)
    (hcredit : (s.link p).heldCount < 16) (htag : requestTag pkt ∉ (s.link p).tags) :
    s.receiveRequest p pkt = s.setLink p ((s.link p).accept pkt) := by
  simp only [State.receiveRequest, h, if_neg (Nat.not_le.mpr hcredit), if_neg htag]

/-! ### The dispatcher takes one request (R155) -/

theorem takeNext_single_of_decoded {pkt : Packet} {req : Request} (h : decodeRequest pkt = some req) :
    takeNext [pkt] = (some ⟨pkt, req, .handed, false⟩, [], []) := by
  rw [takeNext, h]

theorem takeNext_single_of_malformed {pkt : Packet} (h : decodeRequest pkt = none) :
    takeNext [pkt] = (none, [], [malformed pkt]) := by
  rw [takeNext, h]
  rfl

/-- A busy dispatcher leaves a request in the inbound queue. -/
theorem LinkController.accept_of_busy {lc : LinkController} (h : lc.service ≠ none) (pkt : Packet) :
    lc.accept pkt = { lc with inbound := lc.inbound ++ [pkt], tags := setInsert (requestTag pkt) lc.tags
                              heldCount := lc.heldCount + 1 } :=
  LinkController.dispatch_busy _ (Option.isSome_iff_ne_none.mpr h)

/-- An IDLE dispatcher with nothing queued takes the request at once. -/
theorem LinkController.accept_of_idle {lc : LinkController} (h : lc.service = none) (hin : lc.inbound = []) (pkt : Packet) :
    (lc.accept pkt).service = (takeNext [pkt]).1 ∧ (lc.accept pkt).inbound = (takeNext [pkt]).2.1
      ∧ (lc.accept pkt).responses = lc.responses ++ (takeNext [pkt]).2.2 := by
  rw [LinkController.accept, LinkController.dispatch_of_idle (by exact h), hin]
  exact ⟨rfl, rfl, rfl⟩

/-- What is counted, whatever the dispatcher does. -/
theorem LinkController.accept_counted (lc : LinkController) (pkt : Packet) : (lc.accept pkt).link = lc.link
    ∧ (lc.accept pkt).heldCount = lc.heldCount + 1 ∧ (lc.accept pkt).tags = setInsert (requestTag pkt) lc.tags := by
  rw [LinkController.accept, LinkController.dispatch_kept]
  exact ⟨rfl, rfl, rfl⟩

/-! ### O18 -/

/-- A command that is a soft loss of the link: what the port-down event makes of the state. -/
theorem exec_softLoss {c : Instr} {s : State} {p : Port} {cause : DownCause}
    (h : exec c s = .next (s.portDownEvent p .down cause .soft)) :
    ∃ t, exec c s = .next t
      ∧ t = { s with links := t.links, claims := t.claims, portDowns := t.portDowns, events := t.events }
      ∧ LinkLost s t p .down cause .soft ∧ (t.link p).prst = (s.link p).prst
      ∧ ∀ q, q ≠ p → t.link q = s.link q ∧ t.claimsOf q = s.claimsOf q ∧ t.portDown q = s.portDown q :=
  ⟨_, h, s.portDownEvent_frame .., s.portDownEvent_linkLost .., s.portDownEvent_prst .., fun _ hq =>
    s.portDownEvent_others p .down cause .soft hq⟩

/-- PRSTn's hard loss of a link that is UP. -/
theorem State.assertPrst_linkLost {s : State} {p : Port} (hup : (s.link p).link = .up) :
    ∃ t, exec (.prstnAssert p) s = .next t
      ∧ t = { s with links := t.links, claims := t.claims, portDowns := t.portDowns, events := t.events }
      ∧ LinkLost s t p .off .portReset .hard ∧ (t.link p).prst = true
      ∧ ∀ q, q ≠ p → t.link q = s.link q ∧ t.claimsOf q = s.claimsOf q ∧ t.portDown q = s.portDown q := by
  have hexec : exec (.prstnAssert p) s = .next (s.assertPrst p) := rfl
  rw [hexec, State.assertPrst_of_up hup]
  refine ⟨_, rfl, State.portDownEvent_frame .., (State.portDownEvent_linkLost ..).of_prst, ?_, fun q hq => ?_⟩
  · rw [State.portDownEvent_prst, State.setLink_link_self]
  · rw [← State.setLink_link_other s (i := p) { s.link p with prst := true } hq]
    exact State.portDownEvent_others _ p _ _ _ hq

/-- Settles O18: each of the three losses is a port-down event. -/
theorem lossClearsTheLink : Obligations.LossClearsTheLink := by
  intro s p c dest cause loss hup hc
  simp only [List.mem_cons, Prod.mk.injEq, List.not_mem_nil, or_false] at hc
  rcases hc with ⟨rfl, rfl, rfl, rfl⟩ | ⟨rfl, rfl, rfl, rfl⟩ | ⟨rfl, rfl, rfl, rfl⟩
  · have hexec : exec (.lossOfSignal p) s = .next (s.linkFails p .linkLoss) := rfl
    obtain ⟨t, ht, hframe, hlost, hprst, hothers⟩ := exec_softLoss (hexec.trans (congrArg _ (State.linkFails_of_up hup _)))
    exact ⟨t, ht, hframe, hlost, fun h => (by cases h), fun _ => hprst, hothers⟩
  · have hexec : exec (.badCheckPacket p) s = .next (s.linkFails p .linkError) := rfl
    obtain ⟨t, ht, hframe, hlost, hprst, hothers⟩ := exec_softLoss (hexec.trans (congrArg _ (State.linkFails_of_up hup _)))
    exact ⟨t, ht, hframe, hlost, fun h => (by cases h), fun _ => hprst, hothers⟩
  · obtain ⟨t, ht, hframe, hlost, hprst, hothers⟩ := State.assertPrst_linkLost hup
    exact ⟨t, ht, hframe, hlost, fun _ => hprst, fun h => absurd rfl h, hothers⟩

/-! ### O19 -/

/-- Settles O19: over the limit or with its tag in use the request is a loss of the link, otherwise the Link Controller takes it. -/
theorem requestIsCountedAndQueued : Obligations.RequestIsCountedAndQueued := by
  intro s p pkt hup harrives
  have hexec : exec (.requestReceived p pkt) s = .next (s.receiveRequest p pkt) :=
    congrArg _ (s.receivePacket_of_arrives p harrives)
  have hlost : ∀ cause, s.receiveRequest p pkt = s.portDownEvent p .down cause .soft →
      ∃ t, exec (.requestReceived p pkt) s = .next t
        ∧ t = { s with links := t.links, claims := t.claims, portDowns := t.portDowns, events := t.events }
        ∧ LinkLost s t p .down cause .soft ∧ (t.link p).prst = (s.link p).prst ∧ ∀ q, q ≠ p → t.link q = s.link q :=
    fun cause h => by
      obtain ⟨t, ht, hframe, hlost, hprst, hothers⟩ := exec_softLoss (hexec.trans (congrArg _ h))
      exact ⟨t, ht, hframe, hlost, hprst, fun q hq => (hothers q hq).1⟩
  refine ⟨fun hfull => hlost _ (State.receiveRequest_of_full hup hfull),
    fun hcredit htag => hlost _ (State.receiveRequest_of_reuse hup hcredit htag), fun hcredit htag => ?_⟩
  obtain ⟨hlink, hheld, htags⟩ := (s.link p).accept_counted pkt
  refine ⟨_, hexec.trans (congrArg _ (State.receiveRequest_of_fresh hup hcredit htag)), rfl,
    fun q hq => State.setLink_link_other _ _ hq, ?_⟩
  rw [State.setLink_link_self]
  refine ⟨hlink.trans hup, hheld, fun n => ?_, fun hbusy => ?_, fun req hidle hin hdec => ?_, fun hidle hin hdec => ?_⟩
  · rw [htags]
    exact mem_setInsert ..
  · rw [LinkController.accept_of_busy hbusy]
    exact ⟨rfl, rfl, rfl⟩
  · obtain ⟨hserv, hinbound, hresp⟩ := LinkController.accept_of_idle hidle hin pkt
    rw [hserv, hinbound, hresp, takeNext_single_of_decoded hdec]
    exact ⟨rfl, rfl, List.append_nil _⟩
  · obtain ⟨hserv, hinbound, hresp⟩ := LinkController.accept_of_idle hidle hin pkt
    rw [hserv, hinbound, hresp, takeNext_single_of_malformed hdec]
    exact ⟨rfl, rfl, rfl⟩

/-! ### O14 -/

/-- Settles O14: in TRAINING each of these ends in `LinkController.failTraining`. -/
theorem trainingFails : Obligations.TrainingFails := by
  intro s p htraining
  refine ⟨fun htimer => if_pos ⟨htraining, htimer⟩, congrArg _ (State.linkFails_of_training htraining _),
    congrArg _ (State.linkFails_of_training htraining _), fun pkt harrives => ?_, fun tag payload => ?_, fun tag payload => ?_,
    fun w hready hrange => ?_⟩
  · exact congrArg _ ((s.receivePacket_of_arrives p harrives).trans (State.receiveRequest_of_training htraining pkt))
  · rw [exec, execFetchReply, State.receiveFetchReply, htraining]
    rfl
  · rw [exec, execStoreReply, State.receiveStoreReply, htraining]
    rfl
  · have hnot : (s.link p).readyTaken ≠ some true := by rw [hready]; decide
    rw [exec, execReady]
    simp only [State.receiveReady, htraining, if_neg hnot, if_pos hrange]
    rfl

/-! ### O8 -/

/-- Settles O8, by the state of the link. -/
theorem portResetLineOutsideUp : Obligations.PortResetLineOutsideUp :=
  ⟨fun _ _ h => congrArg _ (State.assertPrst_of_starting h), fun _ _ h => congrArg _ (State.assertPrst_of_closed h),
    fun _ _ h => congrArg _ (State.releasePrst_of_off h), fun _ _ h => congrArg _ (State.releasePrst_of_not_off h)⟩

end Sys2Proof.Machine
end


section
/-! SUPPORT. O16, O21 and O23: what the hub sends on a link (R150, R156 to R158, R184). -/

namespace Sys2Proof.Machine

/-! ### HELLO (R150) -/

/-- The words of the hub's HELLO: part code, port, supervisor port; credits 16, window 4, slots 8. -/
theorem helloPacket_eq (p sup : Port) : helloPacket p sup = ⟨0x60#8, 0#8, 0#8,
    [BitVec.ofNat 32 (0x0440 + 65536 * p.val + 16777216 * sup.val), 0x00080410#32]⟩ := by
  revert p sup
  decide

theorem State.sendHello_sentTo_self (s : State) (p : Port) : (s.sendHello p).sentTo p = s.sentTo p ++ [⟨0x60#8, 0#8, 0#8,
    [BitVec.ofNat 32 (0x0440 + 65536 * p.val + 16777216 * s.supervisor.val), 0x00080410#32]⟩] := by
  rw [State.sendHello, State.send_sentTo_self, helloPacket_eq]

theorem State.sendHello_sentTo_other (s : State) {p q : Port} (h : q ≠ p) : (s.sendHello p).sentTo q = s.sentTo q :=
  State.send_sentTo_other _ _ h

theorem State.receiveHello_of_down {s : State} {p : Port} (h : (s.link p).link = .down) (hrun : s.seqState = .run) :
    s.receiveHello p = (s.setLink p { s.link p with link := .training, trainTimer := some s.settings.trainWindow.toNat
                                                    readyTaken := some false }).sendHello p := by
  have hready : s.hubrdy = true := decide_eq_true hrun
  simp only [State.receiveHello, h, if_pos hready]

theorem State.receiveHello_of_training {s : State} {p : Port} (h : (s.link p).link = .training) :
    s.receiveHello p = s.sendHello p := by
  rw [State.receiveHello, h]

theorem State.receiveHello_of_not_ready {s : State} {p : Port} (h : (s.link p).link = .down) (hrun : s.seqState ≠ .run) :
    s.receiveHello p = s := by
  have hready : ¬ s.hubrdy = true := of_decide_eq_true.mt hrun
  simp only [State.receiveHello, h, if_neg hready]

theorem State.receiveHello_of_elsewhere {s : State} {p : Port} (hdown : (s.link p).link ≠ .down)
    (htraining : (s.link p).link ≠ .training) : s.receiveHello p = s := by
  unfold State.receiveHello
  split
  · next h => exact absurd h hdown
  · next h => exact absurd h htraining
  all_goals rfl

/-! ### O16 -/

/-- Settles O16, by the state of the link and of the reset sequencing. -/
theorem helloIsAnswered : Obligations.HelloIsAnswered := by
  have hexec : ∀ s p, exec (.hello p) s = .next (s.receiveHello p) := fun _ _ => rfl
  refine ⟨fun s p hdown hrun => ?_, fun s p htraining => ?_, fun s p hdown hrun => ?_, fun s p hdown htraining => ?_⟩
  · refine ⟨_, (hexec s p).trans (congrArg _ (State.receiveHello_of_down hdown hrun)), rfl, State.setLink_link_self ..,
      fun q hq => ?_, ?_⟩
    · exact ⟨State.setLink_link_other _ _ hq, State.sendHello_sentTo_other _ hq⟩
    · exact State.sendHello_sentTo_self ..
  · exact ⟨_, (hexec s p).trans (congrArg _ (State.receiveHello_of_training htraining)), rfl,
      fun q hq => State.sendHello_sentTo_other _ hq, State.sendHello_sentTo_self ..⟩
  · exact congrArg _ (State.receiveHello_of_not_ready hdown hrun)
  · exact congrArg _ (State.receiveHello_of_elsewhere hdown htraining)

/-! ### The outbound choice (Table 8.4) -/

/-- A response is chosen where one waits, and no hub request is ready or the turn is OTHER. -/
theorem State.outbound_response {s : State} {p : Port} (hup : (s.link p).link = .up) (hwaits : (s.link p).responses ≠ [])
    (hturn : (s.link p).unsent = [] ∨ (s.link p).turn = .other) : s.outbound p = some .response := by
  have hother : s.otherOutbound p = some .response := if_pos hwaits
  rw [State.outbound, if_pos hup, hother]
  split
  · rfl
  · next hready =>
    have hturn : (s.link p).turn = .other := hturn.resolve_left hready
    simp [hturn]

/-- A hub request is chosen where one is ready, and the turn is HUB or nothing else waits. -/
theorem State.outbound_hubRequest {s : State} {p : Port} (hup : (s.link p).link = .up) (hready : (s.link p).unsent ≠ [])
    (hturn : (s.link p).turn = .hub ∨ (s.link p).responses = [] ∧ offered (s.queue p) = none) :
    s.outbound p = some .hubRequest := by
  rw [State.outbound, if_pos hup, if_neg hready]
  split
  · rfl
  · next o hother =>
    rcases hturn with hhub | ⟨hresp, hoffered⟩
    · exact if_pos hhub
    · have hnone : s.otherOutbound p = none := by simp [State.otherOutbound, hresp, hoffered]
      cases hnone.symm.trans hother

/-! ### O21 -/

/-- The response at the head is sent, and its tag and its place are free (R156). -/
theorem State.sendResponse_eq {s : State} {p : Port} {r : Response} {rest : List Response}
    (h : (s.link p).responses = r :: rest) :
    s.sendResponse p = (s.setLink p { s.link p with responses := rest, tags := setErase r.tag.toNat (s.link p).tags
                                                    heldCount := (s.link p).heldCount - 1, turn := .hub }).send p r.packet := by
  rw [State.sendResponse, h]

/-- Settles O21: the outbound path chooses the response at the head of the queue. -/
theorem responseSentReturnsTheCredit : Obligations.ResponseSentReturnsTheCredit := by
  intro s p r rest hup hqueue hturn
  have hchosen := State.outbound_response hup (hqueue ▸ List.cons_ne_nil r rest) hturn
  have hexec : exec (.responseSent p) s = .next (s.sendResponse p) := if_pos hchosen
  rw [State.sendResponse_eq hqueue] at hexec
  refine ⟨_, hexec, rfl, ?_, ?_, fun q hq => ⟨State.setLink_link_other _ _ hq, ?_⟩⟩
  · exact State.send_sentTo_self ..
  · exact State.setLink_link_self ..
  · exact State.send_sentTo_other _ _ hq

/-! ### O23 -/

/-- The request at the head of those ready is sent, and its timer starts (R158). -/
theorem State.sendHubRequest_eq {s : State} {p : Port} {h : HubSlot} {rest : List HubSlot} {o : Outstanding}
    (hready : (s.link p).unsent = h :: rest) (ho : (s.link p).outstanding h = some o) :
    s.sendHubRequest p
      = (s.setLink p { (s.link p).startTimer h o s.settings.responseTimeout.toNat with unsent := rest, turn := .other }).send p
          (o.req.op.packet (hubTag h ((s.link p).slots[h]).seq)) := by
  simp only [State.sendHubRequest, hready, ho]

theorem LinkController.slot_startTimer_self (lc : LinkController) (h : HubSlot) (o : Outstanding) (n : Nat) :
    (lc.startTimer h o n).slots[h] = ⟨(lc.slots[h]).seq, some { o with timer := some n }⟩ := by
  simp [LinkController.startTimer]

theorem LinkController.slot_startTimer_other (lc : LinkController) {h k : HubSlot} (hk : k ≠ h) (o : Outstanding) (n : Nat) :
    (lc.startTimer h o n).slots[k] = lc.slots[k] := by
  simp only [LinkController.startTimer, Fin.getElem_fin]
  exact Vector.getElem_set_ne _ _ fun e => hk (Fin.ext e.symm)

/-- Settles O23: the outbound path chooses the oldest hub request that is ready. -/
theorem hubRequestSentStartsItsTimer : Obligations.HubRequestSentStartsItsTimer := by
  intro s p h rest o hup hready ho hturn
  have hchosen := State.outbound_hubRequest hup (hready ▸ List.cons_ne_nil h rest) hturn
  have hexec : exec (.hubRequestSent p) s = .next (s.sendHubRequest p) := if_pos hchosen
  rw [State.sendHubRequest_eq hready ho] at hexec
  have hlink : ∀ lc pkt, ((s.setLink p lc).send p pkt).link p = lc := fun lc _ => State.setLink_link_self s p lc
  have hself := (s.link p).slot_startTimer_self h o s.settings.responseTimeout.toNat
  refine ⟨_, hexec, rfl, State.send_sentTo_self .., ?_⟩
  rw [hlink]
  refine ⟨rfl, rfl, ?_, ?_, fun k hk => ?_, rfl, fun q hq => ⟨State.setLink_link_other _ _ hq, ?_⟩⟩
  · exact congrArg HubSlotState.held hself
  · exact (congrArg HubSlotState.seq hself).trans rfl
  · exact LinkController.slot_startTimer_other _ hk ..
  · exact State.send_sentTo_other _ _ hq

end Sys2Proof.Machine
end


section
/-! SUPPORT. O15 and O20: a hub request ends by its timeout or by a reply (R158 to R160), and free slots are given (R116). -/

namespace Sys2Proof.Machine

/-! ### What giving slots makes of a slot -/

/-- A slot that may have been given: its sequence stays, and what it holds is what it held before or is yet to be sent. -/
structure HubSlotState.MayFill (a b : HubSlotState) : Prop where
  seq : b.seq = a.seq
  held : ∀ o, b.held = some o → a.held = some o ∨ o.timer = none

theorem HubSlotState.MayFill.refl (a : HubSlotState) : a.MayFill a := ⟨rfl, fun _ => .inl⟩

theorem HubSlotState.MayFill.trans {a b c : HubSlotState} (h : a.MayFill b) (h' : b.MayFill c) : a.MayFill c :=
  ⟨h'.seq.trans h.seq, fun o ho => (h'.held o ho).elim (h.held o) .inr⟩

theorem LinkController.giveSlot_mayFill {lc lc' : LinkController} {r : HubRequest} (h : lc.giveSlot = some (lc', r))
    (k : HubSlot) : (lc.slots[k]).MayFill lc'.slots[k] := by
  obtain ⟨_, j, c, rest, _, _, _, rfl⟩ := LinkController.giveSlot_eq_some h
  by_cases hk : k = j
  · subst hk
    refine ⟨by simp, fun o ho => .inr ?_⟩
    have ho : some ⟨r, none⟩ = some o := by simpa using ho
    cases ho
    rfl
  · have hsame : (lc.slots.set j ⟨(lc.slots[j]).seq, some ⟨r, none⟩⟩)[k] = lc.slots[k] := by
      simp [Vector.getElem_set_ne, Fin.val_ne_of_ne (Ne.symm hk)]
    rw [hsame]
    exact .refl _

theorem State.giveSlots_mayFill (s : State) (p : Port) (k : HubSlot) :
    ((s.link p).slots[k]).MayFill (((s.giveSlots p).link p).slots[k]) := by
  suffices hn : ∀ n, ((s.link p).slots[k]).MayFill (((s.giveSlotsUpTo p n).link p).slots[k]) from hn 8
  intro n
  induction n generalizing s with
  | zero => exact .refl _
  | succ n ih =>
    cases hg : (s.link p).giveSlot with
    | none =>
      simp only [State.giveSlotsUpTo, hg]
      exact .refl _
    | some given =>
      obtain ⟨lc, r⟩ := given
      simp only [State.giveSlotsUpTo, hg]
      have hrest := ih ((s.setLink p lc).noteSlotGiven r)
      rw [State.noteSlotGiven_link, State.setLink_link_self] at hrest
      exact (LinkController.giveSlot_mayFill hg k).trans hrest

/-! ### A request ends -/

/-- The request in slot h of port p has ended and free slots have been given: what this makes of the state. -/
structure RequestEnds (s t : State) (p : Port) (h : HubSlot) (r : HubRequest) (how : Ending) : Prop where
  given : SlotsGiven p (s.requestEnded p h r how) t
  frame : t = { s with links := t.links, claims := t.claims, channels := t.channels }
  claims : t.claimsOf p = s.claimsOf p ++ [.ending r how]
  seq : ((t.link p).slots[h]).seq = ((s.link p).slots[h]).seq + 1
  notSent : ∀ o, (t.link p).outstanding h = some o → o.timer = none
  link : (s.link p).RequestsOnly (t.link p)
  others : ∀ q, q ≠ p → t.link q = s.link q ∧ t.claimsOf q = s.claimsOf q

theorem State.requestEnded_link (s : State) (p : Port) (h : HubSlot) (r : HubRequest) (how : Ending) :
    (s.requestEnded p h r how).link p = (s.link p).freeSlotOf h := State.setLink_link_self s p ((s.link p).freeSlotOf h)

theorem State.endRequest_ends (s : State) (p : Port) (h : HubSlot) (r : HubRequest) (how : Ending) :
    RequestEnds s (s.endRequest p h r how) p h r how := by
  have heq : s.endRequest p h r how = (s.requestEnded p h r how).giveSlots p := rfl
  have hfill := (s.requestEnded p h r how).giveSlots_mayFill p h
  have honly := (s.requestEnded p h r how).giveSlots_requestsOnly p
  rw [State.requestEnded_link] at hfill honly
  rw [LinkController.slot_freeSlotOf_self] at hfill
  rw [heq]
  refine ⟨State.giveSlots_slotsGiven .., ?_, ?_, hfill.seq, fun o ho => ?_, ?_, fun q hq => ⟨?_, ?_⟩⟩
  · rw [State.giveSlots_frame]
    rfl
  · rw [State.giveSlots_claimsOf]
    exact State.setClaims_claimsOf_self ..
  · exact (hfill.held o ho).resolve_left nofun
  · have hfreed : (s.link p).RequestsOnly ((s.link p).freeSlotOf h) := rfl
    exact hfreed.trans honly
  · rw [State.giveSlots_link_other _ hq]
    exact State.setLink_link_other _ _ hq
  · rw [State.giveSlots_claimsOf]
    exact State.setClaims_claimsOf_other _ _ hq

/-! ### O15 -/

theorem LinkController.timedOut_of_outstanding {lc : LinkController} {h : HubSlot} {r : HubRequest}
    (ho : lc.outstanding h = some ⟨r, some 0⟩) : lc.timedOut h = some r := by
  simp only [LinkController.timedOut, ho, if_true]

/-- Settles O15: the request whose timer has run out ends by its timeout. -/
theorem slotTimeoutEndsTheRequest : Obligations.SlotTimeoutEndsTheRequest := by
  intro s p h r ho
  have hexec : exec (.slotTimeout p h) s = .next (s.endRequest p h r .timeout) := by
    rw [exec, execSlotTimeout, LinkController.timedOut_of_outstanding ho]
  obtain ⟨hgiven, hframe, hclaims, hseq, hnotSent, hlink, hothers⟩ := s.endRequest_ends p h r .timeout
  unfold LinkController.RequestsOnly at hlink
  exact ⟨_, hexec, hgiven, hframe, hclaims, hseq, hnotSent, by rw [hlink], by rw [hlink], by rw [hlink], by rw [hlink], hothers⟩

/-! ### Which reply matches (R159) -/

theorem LinkController.matched_of_fits {lc : LinkController} {tag : Byte} {answers : HubOp → Bool} {o : Outstanding}
    (ho : lc.outstanding (replySlot tag) = some o) (htag : tag.toNat < 128) (htimer : o.timer.isSome)
    (hseq : (lc.slots[replySlot tag]).seq = replySeq tag) (hanswers : answers o.req.op = true) :
    lc.matched tag answers = some o.req := by
  simp only [LinkController.matched, ho]
  exact if_pos ⟨htag, htimer, hseq, hanswers⟩

/-- A reply that fails in one of the four points of R159 matches nothing. -/
theorem LinkController.matched_eq_none {lc : LinkController} {tag : Byte} {answers : HubOp → Bool}
    (h : ∀ o, lc.outstanding (replySlot tag) = some o → tag.toNat < 128 → o.timer.isSome →
      (lc.slots[replySlot tag]).seq = replySeq tag → answers o.req.op = false) : lc.matched tag answers = none := by
  unfold LinkController.matched
  split
  · next o ho =>
    refine if_neg fun ⟨htag, htimer, hseq, hanswers⟩ => ?_
    rw [h o ho htag htimer hseq] at hanswers
    cases hanswers
  · rfl

/-- The reply to a slot that is given up, given anew or not sent at all matches nothing, whatever its kind. -/
theorem LinkController.matched_eq_none_of_stale {lc : LinkController} {tag : Byte}
    (h : 128 ≤ tag.toNat ∨ (lc.slots[replySlot tag]).seq ≠ replySeq tag
      ∨ ∀ o ∈ lc.outstanding (replySlot tag), o.timer = none) (answers : HubOp → Bool) : lc.matched tag answers = none := by
  refine LinkController.matched_eq_none fun o ho htag htimer hseq => ?_
  rcases h with hhigh | hother | hunsent
  · omega
  · exact absurd hseq hother
  · rw [hunsent o ho] at htimer
    cases htimer

/-! ### The two replies, and what they hand on -/

theorem exec_fetchReply_of_matched {s : State} {p : Port} {tag : Byte} {r : HubRequest} (hup : (s.link p).link = .up)
    (h : (s.link p).matched tag HubOp.isFetch = some r) (payload : List Word) :
    exec (.fetchReply p tag payload) s = .next (s.endRequest p (replySlot tag) r (fetchEnding r.op payload)) := by
  rw [exec, execFetchReply]
  simp only [State.receiveFetchReply, hup, h]

theorem exec_fetchReply_of_unmatched {s : State} {p : Port} {tag : Byte} (hup : (s.link p).link = .up)
    (h : (s.link p).matched tag HubOp.isFetch = none) (payload : List Word) :
    exec (.fetchReply p tag payload) s = .next s := by
  rw [exec, execFetchReply]
  simp only [State.receiveFetchReply, hup, h]

theorem exec_storeReply_of_matched {s : State} {p : Port} {tag : Byte} {r : HubRequest} (hup : (s.link p).link = .up)
    (h : (s.link p).matched tag HubOp.isStore = some r) (payload : List Word) :
    exec (.storeReply p tag payload) s = .next (s.endRequest p (replySlot tag) r (storeEnding payload)) := by
  rw [exec, execStoreReply]
  simp only [State.receiveStoreReply, hup, h]

theorem exec_storeReply_of_unmatched {s : State} {p : Port} {tag : Byte} (hup : (s.link p).link = .up)
    (h : (s.link p).matched tag HubOp.isStore = none) (payload : List Word) :
    exec (.storeReply p tag payload) s = .next s := by
  rw [exec, execStoreReply]
  simp only [State.receiveStoreReply, hup, h]

theorem replyOk_cons (w : Word) (data : List Word) : replyOk (w :: data) = true ↔ field w 0 8 = 0 := beq_iff_eq

theorem fetchEnding_of_ok {w : Word} {data : List Word} {addr : Word} {len : Nat} (hok : field w 0 8 = 0)
    (hlen : 4 * data.length = len) : fetchEnding (.fetch addr len) (w :: data) = .replyOk data :=
  if_pos ⟨(replyOk_cons w data).mpr hok, hlen⟩

theorem fetchEnding_of_failed {w : Word} {data : List Word} {addr : Word} {len : Nat}
    (h : field w 0 8 ≠ 0 ∨ 4 * data.length ≠ len) : fetchEnding (.fetch addr len) (w :: data) = .replyFailed := by
  refine if_neg fun ⟨hok, hlen⟩ => ?_
  exact h.elim (absurd ((replyOk_cons w data).mp hok)) (absurd hlen)

theorem storeEnding_of_ok {w : Word} {data : List Word} (hok : field w 0 8 = 0) : storeEnding (w :: data) = .replyOk [] :=
  if_pos ((replyOk_cons w data).mpr hok)

theorem storeEnding_of_failed {w : Word} {data : List Word} (h : field w 0 8 ≠ 0) : storeEnding (w :: data) = .replyFailed :=
  if_neg fun hok => h ((replyOk_cons w data).mp hok)

/-! ### O20 -/

/-- Settles O20: a reply that matches ends its request, with the ending that its status and length give; any other has no effect. -/
theorem replyEndsItsRequest : Obligations.ReplyEndsItsRequest := by
  intro s p tag payload hup
  refine ⟨fun r n addr len ho htag hseq hop => ?_, fun r n addr words ho htag hseq hop => ?_, fun hstale => ?_⟩
  · have hmatched := LinkController.matched_of_fits (answers := HubOp.isFetch) ho htag rfl hseq (by rw [hop]; rfl)
    have hother : (s.link p).matched tag HubOp.isStore = none := LinkController.matched_eq_none fun o ho' _ _ _ => by
      cases ho.symm.trans ho'
      rw [hop]
      rfl
    have hends := s.endRequest_ends p (replySlot tag) r (fetchEnding r.op payload)
    refine ⟨⟨_, exec_fetchReply_of_matched hup hmatched payload, hends.frame, hseq ▸ hends.seq, hends.others, ?_, ?_⟩,
      exec_storeReply_of_unmatched hup hother payload⟩ <;> rintro w data rfl hok
    · intro hlen
      rw [hop, fetchEnding_of_ok hok hlen] at hends ⊢
      exact ⟨hends.claims, hends.given⟩
    · rw [hop, fetchEnding_of_failed hok] at hends ⊢
      exact ⟨hends.claims, hends.given⟩
  · have hmatched := LinkController.matched_of_fits (answers := HubOp.isStore) ho htag rfl hseq (by rw [hop]; rfl)
    have hother : (s.link p).matched tag HubOp.isFetch = none := LinkController.matched_eq_none fun o ho' _ _ _ => by
      cases ho.symm.trans ho'
      rw [hop]
      rfl
    have hends := s.endRequest_ends p (replySlot tag) r (storeEnding payload)
    refine ⟨⟨_, exec_storeReply_of_matched hup hmatched payload, hends.frame, hseq ▸ hends.seq, hends.others, ?_, ?_⟩,
      exec_fetchReply_of_unmatched hup hother payload⟩ <;> rintro w data rfl hok
    · rw [storeEnding_of_ok hok] at hends ⊢
      exact ⟨hends.claims, hends.given⟩
    · rw [storeEnding_of_failed hok] at hends ⊢
      exact ⟨hends.claims, hends.given⟩
  · have hnone := LinkController.matched_eq_none_of_stale hstale
    exact ⟨exec_fetchReply_of_unmatched hup (hnone _) payload, exec_storeReply_of_unmatched hup (hnone _) payload⟩

end Sys2Proof.Machine
end


section
/-! SUPPORT. O17: what a port still has untaken is settled, and its link comes UP (R144, R151, R165). -/

namespace Sys2Proof.Machine

/-! ### Claims taken (R163) -/

/-- A claim carried out hands the Link Controllers' claims no further. -/
theorem State.carryClaim_claimsOf (s : State) (p : Port) (cl : ChannelClaim) (q : Port) :
    (s.carryClaim p cl).claimsOf q = s.claimsOf q := by
  cases cl with
  | ending r how => exact State.takeEnding_claimsOf ..
  | portDown loss => exact State.chansPortDown_claimsOf ..

theorem State.takeClaim_claimsOf (s : State) (p : Port) : (s.takeClaim p).claimsOf p = (s.claimsOf p).drop 1 := by
  unfold State.takeClaim
  split
  · next cl rest hclaims =>
    rw [State.carryClaim_claimsOf, State.setClaims_claimsOf_self, hclaims]
    rfl
  · next hclaims =>
    rw [hclaims]
    rfl

theorem State.takeClaims_claimsOf (s : State) (p : Port) (n : Nat) : (s.takeClaims p n).claimsOf p = (s.claimsOf p).drop n := by
  induction n generalizing s with
  | zero => rfl
  | succ n ih => rw [State.takeClaims, ih, State.takeClaim_claimsOf, List.drop_drop, Nat.add_comm]

theorem State.takeClaims_portDown (s : State) (p : Port) (n : Nat) (q : Port) : (s.takeClaims p n).portDown q = s.portDown q := by
  have hsame : (s.takeClaims p n).portDowns = s.portDowns := by rw [EngineOnly.takeClaims s p n]
  rw [State.portDown, hsame, State.portDown]

/-! ### A port-down event taken by the other blocks (R144) -/

theorem State.takeLockPortDown_portDown (s : State) (p : Port) :
    (s.takeLockPortDown p).portDown p = { s.portDown p with lock := none } := by
  unfold State.takeLockPortDown
  split
  · next h => rw [← h]
  · exact State.setPortDown_portDown_self ..

theorem State.takeArbiterPortDown_portDown (s : State) (p : Port) :
    (s.takeArbiterPortDown p).portDown p = { s.portDown p with arbiter := false } := by
  by_cases h : (s.portDown p).arbiter = true
  · rw [State.takeArbiterPortDown_eq h]
    exact State.setPortDown_portDown_self ..
  · rw [State.takeArbiterPortDown, if_neg h, ← Bool.eq_false_of_not_eq_true h]

theorem State.takeNoticePortDown_portDown (s : State) (p : Port) :
    (s.takeNoticePortDown p).portDown p = { s.portDown p with notice := none } := by
  unfold State.takeNoticePortDown
  split
  · next h => rw [← h]
  · exact State.setPortDown_portDown_self ..
  · exact State.setPortDown_portDown_self ..

theorem State.takeNoticePortDown_claimsOf (s : State) (p q : Port) : (s.takeNoticePortDown p).claimsOf q = s.claimsOf q := by
  unfold State.takeNoticePortDown
  split <;> rfl

/-- Settled, the port has nothing of its last port-down event left. -/
theorem State.settlePort_portDown (s : State) (p : Port) : (s.settlePort p).portDown p = PortDownClaims.none := by
  rw [State.settlePort, State.takeNoticePortDown_portDown, State.takeClaims_portDown, State.takeArbiterPortDown_portDown,
    State.takeLockPortDown_portDown]
  rfl

theorem State.settlePort_claimsOf (s : State) (p : Port) : (s.settlePort p).claimsOf p = [] := by
  rw [State.settlePort, State.takeNoticePortDown_claimsOf, State.takeClaims_claimsOf, List.drop_length]

/-! ### The port-up event (R165) -/

/-- The state in which the link of a settled port has come UP and its PEER_UP is handed, before slots are given. -/
def State.raised (s : State) (p : Port) : State :=
  (s.setLink p (s.link p).bringUp).hand ((otherPorts p).map fun q => (q, .peerUp p))

theorem State.portUpEvent_eq (s : State) (p : Port) : s.portUpEvent p = ((s.settlePort p).raised p).giveSlots p := rfl

theorem State.raised_events (s : State) (p : Port) :
    (s.raised p).events = s.events ++ [(allPorts.filter (· != p)).map fun q => (q, .peerUp p)] :=
  if_neg fun h => otherPorts_ne_nil p (List.map_eq_nil_iff.mp h)

theorem State.raised_link (s : State) (p : Port) : (s.raised p).link p = (s.link p).bringUp := State.setLink_link_self ..

theorem State.raised_portDown (s : State) (p q : Port) : (s.raised p).portDown q = s.portDown q := rfl

theorem State.raised_claimsOf (s : State) (p q : Port) : (s.raised p).claimsOf q = s.claimsOf q := rfl

theorem State.giveSlots_portDown (s : State) (p q : Port) : (s.giveSlots p).portDown q = s.portDown q := by
  rw [State.giveSlots_frame]
  rfl

theorem State.portUpEvent_events (s : State) (p : Port) : (s.portUpEvent p).events
    = (s.settlePort p).events ++ [(allPorts.filter (· != p)).map fun q => (q, .peerUp p)] := by
  rw [State.portUpEvent_eq, State.giveSlots_events, State.raised_events]

theorem State.portUpEvent_portDown (s : State) (p : Port) : (s.portUpEvent p).portDown p = PortDownClaims.none := by
  rw [State.portUpEvent_eq, State.giveSlots_portDown, State.raised_portDown, State.settlePort_portDown]

theorem State.portUpEvent_claimsOf (s : State) (p : Port) : (s.portUpEvent p).claimsOf p = [] := by
  rw [State.portUpEvent_eq, State.giveSlots_claimsOf, State.raised_claimsOf, State.settlePort_claimsOf]

/-- With its dispatcher IDLE the Link Controller comes UP, and beside that only its hub requests have changed. -/
theorem State.portUpEvent_link {s : State} {p : Port} (h : (s.link p).service = none) :
    (s.link p).bringUp.RequestsOnly ((s.portUpEvent p).link p) := by
  have hraised : (s.link p).bringUp.RequestsOnly (((s.settlePort p).raised p).link p) := by
    rw [State.raised_link, State.settlePort_link h]
    rfl
  exact hraised.trans (State.giveSlots_requestsOnly ..)

theorem State.portUpEvent_of_nothing {s : State} {p : Port} (hdown : s.portDown p = PortDownClaims.none)
    (hclaims : s.claimsOf p = []) : s.portUpEvent p = (s.raised p).giveSlots p := by
  rw [State.portUpEvent_eq, State.settlePort_of_nothing s p hdown hclaims]

/-! ### READY (R151) -/

/-- A valid READY is taken in TRAINING. -/
theorem exec_ready_of_valid {s : State} {p : Port} {w : Word} (htraining : (s.link p).link = .training)
    (hready : (s.link p).readyTaken = some false) (hlow : 1 ≤ field w 0 8) (hhigh : field w 0 8 ≤ 8) :
    exec (.ready p w) s = .next (s.takeReady p (field w 0 8)) := by
  have hnot : (s.link p).readyTaken ≠ some true := by rw [hready]; decide
  have hvalid : ¬(field w 0 8 = 0 ∨ 8 < field w 0 8) := by omega
  rw [exec, execReady]
  simp only [State.receiveReady, htraining, if_neg hnot, if_neg hvalid]

/-- The state in which a valid READY has been taken and the link waits for its dispatcher. -/
def State.readyNoted (s : State) (p : Port) (n : Nat) : State :=
  s.setLink p { s.link p with slotsAllowed := n, readyTaken := some true }

theorem State.readyNoted_link (s : State) (p : Port) (n : Nat) :
    (s.readyNoted p n).link p = { s.link p with slotsAllowed := n, readyTaken := some true } := State.setLink_link_self ..

theorem State.takeReady_of_idle {s : State} {p : Port} (h : (s.link p).service = none) (n : Nat) :
    s.takeReady p n = (s.readyNoted p n).portUpEvent p := by
  refine if_pos ?_
  rw [State.setLink_link_self]
  exact Option.isNone_iff_eq_none.mpr h

theorem State.takeReady_of_busy {s : State} {p : Port} (h : (s.link p).service ≠ none) (n : Nat) :
    s.takeReady p n = s.readyNoted p n := by
  refine if_neg ?_
  rw [State.setLink_link_self]
  exact fun hnone => h (Option.isNone_iff_eq_none.mp hnone)

/-- Where nothing is left to settle, READY and the port-up event change one Link Controller and hand PEER_UP. -/
theorem State.readyNoted_raised (s : State) (p : Port) (n : Nat) :
    (s.readyNoted p n).raised p = (s.setLink p { s.link p with
      link := .up, slotsAllowed := n, heldCount := 0, tags := [], noticeSeq := 0#8, turn := .other
      trainTimer := none, readyTaken := none }).hand ((otherPorts p).map fun q => (q, .peerUp p)) := by
  rw [State.raised, State.readyNoted_link, State.readyNoted, State.setLink_twice]
  rfl

/-! ### O17 -/

/-- Settles O17: a valid READY is a port-up event where the dispatcher is IDLE, and is noted where it is not. -/
theorem readyBringsTheLinkUp : Obligations.ReadyBringsTheLinkUp := by
  intro s p w htraining hready hlow hhigh
  have hexec := exec_ready_of_valid htraining hready hlow hhigh
  generalize field w 0 8 = n at hexec ⊢
  refine ⟨fun hidle => ?_, fun hbusy => hexec.trans (congrArg _ (State.takeReady_of_busy hbusy n))⟩
  rw [State.takeReady_of_idle hidle] at hexec
  have hlink := State.portUpEvent_link (s := s.readyNoted p n) (p := p) (by rw [State.readyNoted_link]; exact hidle)
  rw [State.readyNoted_link] at hlink
  unfold LinkController.RequestsOnly at hlink
  obtain ⟨_, hnone⟩ := (((s.readyNoted p n).settlePort p).raised p).giveSlots_slotsGiven p
  refine ⟨_, hexec, by rw [hlink]; rfl, by rw [hlink]; rfl, by rw [hlink]; rfl, by rw [hlink]; rfl, by rw [hlink]; rfl,
    by rw [hlink]; rfl, by rw [hlink]; rfl, by rw [hlink]; rfl, ⟨_, State.portUpEvent_events ..⟩, State.portUpEvent_portDown ..,
    State.portUpEvent_claimsOf .., hnone, fun hdown hclaims => ?_⟩
  have heq : (s.readyNoted p n).portUpEvent p = ((s.readyNoted p n).raised p).giveSlots p :=
    State.portUpEvent_of_nothing hdown hclaims
  have hgiven := ((s.readyNoted p n).raised p).giveSlots_slotsGiven p
  have hevents := ((s.readyNoted p n).raised p).giveSlots_events p
  refine ⟨?_, ?_, ?_⟩
  · rw [heq, State.giveSlots_frame]
    rfl
  · rw [heq, hevents, State.raised_events]
    rfl
  · rw [heq, hevents]
    rw [State.readyNoted_raised] at hgiven ⊢
    exact hgiven

end Sys2Proof.Machine
end


section
/-! SUPPORT. O1, O3, O5, O4 and O7: the step, the two resets, the store as INIT leaves it, and reset sequencing (R7 to R9, R51, R171,
R182, R183). -/

namespace Sys2Proof.Machine

/-! ### The step -/

theorem step_of_pending (c : Instr) (s : State) : step { s with pending := c :: s.pending } = exec c s := rfl

theorem step_of_nothing_pending {s : State} (h : s.pending = []) : step s = .next s.idle := by
  rw [step, h]

theorem State.idle_timebase_of_none {s : State} (h : s.timebase = none) : s.idle.timebase = none := by
  rw [State.idle, h]
  rfl

/-- A unit that is not over comes one tick nearer its end (log entry 16). -/
theorem State.idle_timebase_of_running {s : State} {u : TimeUnit} (h : s.timebase = some u) (hu : u.elapsed < u.length) :
    s.idle.timebase = some ⟨u.length, u.elapsed + 1⟩ := by
  rw [State.idle, h, Option.map_some, Nat.min_eq_right hu]

/-! ### The store as a reset leaves it -/

/-- A store that lists nothing over an unfilled background is the free values of power-up (R7, log entry 6). -/
theorem Store.unknown_byte (n a : Nat) : (Store.mk [] [] ⟨n, 0⟩).byte a = Config.powerUpByte n a :=
  Background.byte_above ⟨n, 0⟩ a (Nat.zero_le _)

theorem Store.unknown_condition (n w : Nat) : (Store.mk [] [] ⟨n, 0⟩).condition w = Config.powerUpCondition n w :=
  Background.condition_above ⟨n, 0⟩ w (Nat.zero_le _)

/-- Below the words filled, a byte or condition where nothing is listed is that of INIT (R7, R8). -/
theorem Background.byte_below (b : Background) {a : Nat} (h : a / 4 < b.filled) : b.byte a = 0#8 := if_pos h

theorem Background.condition_below (b : Background) {w : Nat} (h : w < b.filled) : b.condition w = .clean := if_pos h

theorem Store.word_eq_zero {st : Store} {w : Nat} (h : ∀ a, a / 4 = w → st.byte a = 0#8) : st.word w = 0#32 := by
  rw [Store.word, h _ (by omega), h _ (by omega), h _ (by omega), h _ (by omega)]
  rfl

theorem Store.word_congr {st st' : Store} {w : Nat} (h : ∀ a, a / 4 = w → st'.byte a = st.byte a) :
    st'.word w = st.word w := by
  rw [Store.word, Store.word, h _ (by omega), h _ (by omega), h _ (by omega), h _ (by omega)]

/-- A completed INIT leaves every word 0 and clean (R7). -/
theorem Store.initialised_word (st : Store) {w : Nat} (h : w < 65536) :
    st.initialised.word w = 0#32 ∧ st.initialised.condition w = .clean :=
  ⟨Store.word_eq_zero fun _ ha => Background.byte_below _ (lt_of_eq_of_lt ha h), Background.condition_below _ h⟩

/-- In a list cut off from below, an address kept reads as before over a background that agrees with the old one there. -/
theorem cellsRead_filter_of_le {α : Type} {bg bg' : Nat → α} {n a : Nat} (ha : n ≤ a) (hbg : bg' a = bg a)
    (l : List (Nat × α)) : cellsRead bg' (l.filter fun e => decide (n ≤ e.1)) a = cellsRead bg l a := by
  induction l with
  | nil => exact hbg
  | cons e rest ih =>
    by_cases hkeep : n ≤ e.1
    · simp only [List.filter_cons, decide_eq_true hkeep, if_true, cellsRead, ih]
    · have hne : a ≠ e.1 := fun he => hkeep (he ▸ ha)
      simp only [List.filter_cons, decide_eq_false hkeep, Bool.false_eq_true, if_false, cellsRead, if_neg hne, ih]

/-- An address below the cut reads as the background. -/
theorem cellsRead_filter_of_lt {α : Type} (bg : Nat → α) {n a : Nat} (ha : a < n) (l : List (Nat × α)) :
    cellsRead bg (l.filter fun e => decide (n ≤ e.1)) a = bg a :=
  cellsRead_above bg _ a fun _ he => ha.trans_le (of_decide_eq_true (List.mem_filter.mp he).2)

/-- How far INIT had come when it was stopped (R8, log entry 6). -/
def stoppedAt (n : Nat) : Nat := Config.initProgress n % 65536

theorem stoppedAt_lt (n : Nat) : stoppedAt n < 65536 := Nat.mod_lt _ (by decide)

theorem Store.stopInit_eq (st : Store) (n : Nat) : st.stopInit n =
    ⟨st.bytes.filter fun e => decide (4 * stoppedAt n ≤ e.1), st.conditions.filter fun e => decide (stoppedAt n ≤ e.1),
      { st.background with filled := stoppedAt n }⟩ := rfl

/-- The words that INIT had written when it was stopped hold 0 and are clean (R8). -/
theorem Store.stopInit_word_below (st : Store) {n w : Nat} (h : w < stoppedAt n) :
    (st.stopInit n).word w = 0#32 ∧ (st.stopInit n).condition w = .clean := by
  rw [Store.stopInit_eq]
  refine ⟨Store.word_eq_zero fun a ha => ?_, ?_⟩
  · exact (cellsRead_filter_of_lt _ (by omega) _).trans (Background.byte_below _ (lt_of_eq_of_lt ha h))
  · exact (cellsRead_filter_of_lt _ h _).trans (Background.condition_below _ h)

/-- The words that INIT had not come to keep what they had (R8). -/
theorem Store.stopInit_word_above {st : Store} (hf : st.background.filled = 0) {n w : Nat} (h : stoppedAt n ≤ w) :
    (st.stopInit n).word w = st.word w ∧ (st.stopInit n).condition w = st.condition w := by
  rw [Store.stopInit_eq]
  refine ⟨Store.word_congr fun a ha => ?_, ?_⟩
  · refine cellsRead_filter_of_le (by omega) ?_ _
    rw [Background.byte_above _ _ (by omega : st.background.filled ≤ a / 4)]
    exact Background.byte_above _ _ (h.trans_eq ha.symm)
  · refine cellsRead_filter_of_le h ?_ _
    rw [Background.condition_above _ _ (by omega : st.background.filled ≤ w)]
    exact Background.condition_above _ _ h

/-! ### The commands of reset sequencing, by the state they find -/

section
variable {s : State}

theorem exec_pwrokFall (s : State) : exec .pwrokFall s = .next s.coldReset := rfl

theorem exec_pwrokRise_of_cold (h : s.seqState = .cold) :
    exec .pwrokRise s = .next { s with seqState := if s.hrst then .fillHeld else .fill } := by
  rw [exec, execPwrokRise, h]

theorem exec_initComplete_of_fill (h : s.seqState = .fill) :
    exec .initComplete s = .next (s.setStore s.store.initialised).enterRun := by
  rw [exec, execInitComplete, h]

theorem exec_initComplete_of_fillHeld (h : s.seqState = .fillHeld) :
    exec .initComplete s = .next { s.setStore s.store.initialised with seqState := .held } := by
  rw [exec, execInitComplete, h]

theorem exec_hrstAssert_of_fill (h : s.seqState = .fill) :
    exec .hrstAssert s = .next (s.warmReset.setStore (s.store.stopInit s.fresh)) := by
  rw [exec, execHrstAssert, h]

theorem exec_hrstAssert_of_run (h : s.seqState = .run) : exec .hrstAssert s = .next s.warmReset := by
  rw [exec, execHrstAssert, h]

theorem exec_hrstAssert_of_elsewhere (hfill : s.seqState ≠ .fill) (hrun : s.seqState ≠ .run) :
    exec .hrstAssert s = .next { s with hrst := true } := by
  rw [exec, execHrstAssert]
  split
  · next h => exact absurd h hfill
  · next h => exact absurd h hrun
  all_goals rfl

theorem exec_hrstRelease_of_held (h : s.seqState = .held) :
    exec .hrstRelease s = .next ({ s with hrst := false } : State).enterRun := by
  rw [exec, execHrstRelease, h]

theorem exec_hrstRelease_of_fillHeld (h : s.seqState = .fillHeld) :
    exec .hrstRelease s = .next { s with hrst := false, seqState := .fill } := by
  rw [exec, execHrstRelease, h]

theorem exec_hrstRelease_of_elsewhere (hheld : s.seqState ≠ .held) (hfillHeld : s.seqState ≠ .fillHeld) :
    exec .hrstRelease s = .next { s with hrst := false } := by
  rw [exec, execHrstRelease]
  split
  · next h => exact absurd h hheld
  · next h => exact absurd h hfillHeld
  all_goals rfl

theorem exec_supselChange_of_run (h : s.seqState = .run) (q : Port) :
    exec (.supselChange q) s = .next { s with straps := q } := by
  rw [exec, execSupselChange, h]

theorem exec_supselChange_of_not_run (h : s.seqState ≠ .run) (q : Port) :
    exec (.supselChange q) s = .next { s with straps := q, settings := { s.settings with supervisor := q } } := by
  rw [exec, execSupselChange]
  split
  · next hrun => exact absurd hrun h
  all_goals rfl

end

/-! ### O1 -/

/-- Settles O1: by whether a command is waiting. -/
theorem stepTakesTheFrontCommand : Obligations.StepTakesTheFrontCommand :=
  ⟨step_of_pending, fun _ h => ⟨_, step_of_nothing_pending h, rfl, State.idle_timebase_of_none,
    fun _ => State.idle_timebase_of_running⟩⟩

/-! ### O3 -/

theorem Arbiter.reset_lastMember (p : Port) : Arbiter.reset.lastMember[p] = .chan 7 := Vector.getElem_replicate ..

/-- Settles O3: every block is as after reset, and the store lists nothing. -/
theorem coldResetResetsEveryBlock : Obligations.ColdResetResetsEveryBlock := by
  intro s
  have hreset := s.coldReset_blocksReset
  have hlink : ∀ p, s.coldReset.link p = LinkController.reset (s.link p).prst := State.link_hubReset rfl
  exact ⟨_, exec_pwrokFall s, rfl, rfl, rfl, rfl, rfl, Store.unknown_byte s.fresh, Store.unknown_condition s.fresh, rfl, rfl, rfl,
    Arbiter.reset_lastMember, fun c => ⟨Vector.getElem_replicate .., Vector.getElem_replicate ..⟩, State.entry_reset, rfl,
    hreset.chan, fun p => ⟨hlink p, hreset.queue p, hreset.claims p, hreset.portDown p⟩, rfl, rfl, rfl, rfl, rfl⟩

/-! ### O5 -/

/-- With no access in progress warm reset cuts nothing (R9). -/
theorem State.cutStore_of_idle {s : State} (h : s.arbiter.inProgress = none) : s.cutStore = s.store := by
  rw [State.cutStore, h]

theorem State.cutPoison_of_idle {s : State} (h : s.arbiter.inProgress = none) : s.cutPoison = s.poison := by
  rw [State.cutPoison, h]

/-- A generation advances at warm reset where the slot was in use (R51). -/
theorem LockEntry.warmReset_eq (e : LockEntry) : e.warmReset = ⟨if e.state = .free then e.gen else e.gen + 1, .free⟩ := by
  obtain ⟨gen, state⟩ := e
  cases state <;> rfl

theorem LockUnit.warmReset_entry_eq (u : LockUnit) (k : LockSlot) : u.warmReset.entry k = (u.entry k).warmReset := by
  simp [LockUnit.warmReset, LockUnit.entry, mapVector]

/-- Settles O5: every block is as after reset but the store, the poison set and the generations of the lock slots. -/
theorem warmResetKeepsTheStore : Obligations.WarmResetKeepsTheStore := by
  intro s hrun hidle
  have hreset := s.warmReset_blocksReset
  have hlink : ∀ p, s.warmReset.link p = LinkController.reset (s.link p).prst := State.link_hubReset rfl
  exact ⟨_, exec_hrstAssert_of_run hrun, rfl, rfl, rfl, rfl, State.cutStore_of_idle hidle, State.cutPoison_of_idle hidle, rfl, rfl,
    fun k => (s.locks.warmReset_entry_eq k).trans (LockEntry.warmReset_eq _), rfl, hreset.chan,
    fun p => ⟨hlink p, hreset.queue p, hreset.claims p, hreset.portDown p⟩, rfl, rfl, rfl, rfl⟩

/-! ### O4 -/

/-- INIT has filled nothing while it runs (log entry 6). -/
theorem State.memoryLawful.unfilled {s : State} (h : s.memoryLawful) (hfill : s.seqState = .fill) :
    s.store.background.filled = 0 := by
  obtain ⟨_, _, _, hfilled⟩ := h
  exact hfilled (.inr (.inl hfill))

/-- Settles O4, by the rows of Table 9.6; INIT stopped splits the store at `stoppedAt`. -/
theorem resetSequencingFillsTheStore : Obligations.ResetSequencingFillsTheStore := by
  refine ⟨fun s => exec_pwrokRise_of_cold, fun s hfill => ?_, fun s hheld => ?_, fun s hfill hmem => ?_,
    fun s => exec_hrstAssert_of_elsewhere, fun s => exec_hrstRelease_of_held, fun s => exec_hrstRelease_of_fillHeld,
    fun s => exec_hrstRelease_of_elsewhere⟩
  · exact ⟨_, exec_initComplete_of_fill hfill, rfl, rfl, rfl, rfl, fun w => s.store.initialised_word, rfl⟩
  · exact ⟨_, exec_initComplete_of_fillHeld hheld, rfl, rfl, fun w => s.store.initialised_word, rfl⟩
  · exact ⟨_, exec_hrstAssert_of_fill hfill, rfl, rfl, rfl, stoppedAt s.fresh, stoppedAt_lt _,
      fun w => s.store.stopInit_word_below, fun w => Store.stopInit_word_above (hmem.unfilled hfill)⟩

/-! ### O7 -/

/-- The hub's HELLO names the supervisor port in bits 25 and 24 of word 0 (R150, R184). -/
theorem helloPacket_supervisor (p sup : Port) : ∃ w rest, (helloPacket p sup).kind = 0x60#8
    ∧ (helloPacket p sup).payload = w :: rest ∧ field w 24 2 = sup.val := by
  refine ⟨_, _, rfl, rfl, ?_⟩
  revert p sup
  decide

/-- A link that answers HELLO in RUN sends the hub's (R150). -/
theorem State.receiveHello_sends {s : State} {p : Port} (hrun : s.seqState = .run)
    (hlink : (s.link p).link = .down ∨ (s.link p).link = .training) :
    (s.receiveHello p).sentTo p = s.sentTo p ++ [helloPacket p s.supervisor] := by
  rcases hlink with hdown | htraining
  · rw [State.receiveHello_of_down hdown hrun]
    exact State.send_sentTo_self ..
  · rw [State.receiveHello_of_training htraining]
    exact State.send_sentTo_self ..

/-- Settles O7: each entry to RUN is `State.enterRun`, and the HELLO carries the setting. -/
theorem supervisorFollowsTheStraps : Obligations.SupervisorFollowsTheStraps := by
  refine ⟨fun s q hseq => exec_supselChange_of_not_run hseq q, fun s q hrun => exec_supselChange_of_run hrun q,
    fun s hfill => ⟨_, exec_initComplete_of_fill hfill, rfl, rfl⟩, fun s hheld => ⟨_, exec_hrstRelease_of_held hheld, rfl, rfl⟩,
    fun s p hrun hlink => ?_⟩
  obtain ⟨w, rest, hkind, hpayload, hfield⟩ := helloPacket_supervisor p s.supervisor
  exact ⟨_, _, w, rest, rfl, State.receiveHello_sends hrun hlink, hkind, hpayload, hfield⟩

end Sys2Proof.Machine
end


section
/-! SUPPORT. O10: the timers that a timebase boundary counts, block by block (R41, R125, R152, R158, R179). -/

namespace Sys2Proof.Machine

/-! ### The blocks' parts of a boundary -/

theorem EntryState.tick_held_leased {c : Claim} (h : c.leaseLen ≠ 0) :
    (EntryState.held c).tick = .held { c with leaseLeft := c.leaseLeft - 1 } :=
  congrArg EntryState.held (if_neg h)

/-- A lease length of 0 runs no timer (R42). -/
theorem EntryState.tick_held_unleased {c : Claim} (h : c.leaseLen = 0) : (EntryState.held c).tick = .held c :=
  congrArg EntryState.held (if_pos h)

/-- What a boundary makes of an entry's state is read off the state alone. -/
theorem LockUnit.tick_state {u : LockUnit} {k : LockSlot} {e : EntryState} (h : (u.entry k).state = e) :
    (u.tick.entry k).state = e.tick := by
  rw [u.entry_tick, h]

theorem State.chan_tick {s t : State} (h : t.channels = mapVector ChannelContext.tick s.channels) (c : Channel) :
    t.chan c = (s.chan c).tick := by
  rw [State.chan, h]
  simp [mapVector, State.chan]

theorem LinkController.slot_tick (lc : LinkController) (h : HubSlot) : lc.tick.slots[h] = (lc.slots[h]).tick := by
  simp [LinkController.tick, mapVector]

/-! ### The command -/

/-- The hub after a timebase boundary in RUN (R179). -/
def State.boundary (s : State) : State :=
  { s with locks := s.locks.tick, channels := mapVector ChannelContext.tick s.channels
           links := mapVector LinkController.tick s.links, timebase := some ⟨unitLength s.settings.timebase, 0⟩ }

theorem exec_timebaseBoundary_of_run {s : State} (h : s.seqState = .run) : exec .timebaseBoundary s = .next s.boundary := by
  rw [exec, execTimebaseBoundary]
  split
  · rfl
  all_goals
    next hseq => exact absurd (h.symm.trans hseq) (by decide)

theorem exec_timebaseBoundary_of_not_run {s : State} (h : s.seqState ≠ .run) : exec .timebaseBoundary s = .next s := by
  rw [exec, execTimebaseBoundary]
  split
  · next hrun => exact absurd hrun h
  all_goals rfl

/-! ### O10 -/

/-- Settles O10, block by block. -/
theorem boundaryCountsEveryTimer : Obligations.BoundaryCountsEveryTimer := by
  refine ⟨fun s hrun => ?_, fun s hseq => exec_timebaseBoundary_of_not_run hseq⟩
  have hlink : ∀ p, s.boundary.link p = (s.link p).tick := State.link_tick rfl
  have hentry : ∀ k, s.boundary.locks.entry k = ⟨(s.locks.entry k).gen, (s.locks.entry k).state.tick⟩ := s.locks.entry_tick
  refine ⟨_, exec_timebaseBoundary_of_run hrun, rfl, rfl, rfl, fun k => by rw [hentry],
    fun k => LockUnit.tick_state, fun k c hheld hlen => ?_, fun k c hheld hlen => ?_, fun k c n => LockUnit.tick_state,
    fun k c n a => LockUnit.tick_state, State.chan_tick rfl, fun p => ⟨?_, fun h => ?_⟩⟩
  · exact (LockUnit.tick_state hheld).trans (EntryState.tick_held_leased hlen)
  · exact (LockUnit.tick_state hheld).trans (EntryState.tick_held_unleased hlen)
  · rw [hlink]
    rfl
  · rw [hlink]
    exact (s.link p).slot_tick h

end Sys2Proof.Machine
end


section
/-! SUPPORT. O52: CONFIG_WRITE, its checks in order and the one setting it sets (R172, R173, R176, R177, R179). -/

namespace Sys2Proof.Machine

/-! ### The checks (R176, Table 9.2) -/

/-- The writable settings and their ranges. -/
theorem settingInRange_iff (n v : Nat) : settingInRange n v = true ↔ n = 2 ∧ v ≤ 3 ∨ n = 3 ∧ v ≤ 3 ∨ n = 4 ∧ v ≤ 4
    ∨ 5 ≤ n ∧ n ≤ 8 ∧ 1 ≤ v ∧ v ≤ 32 ∨ n = 9 ∧ 1 ≤ v ∨ n = 10 ∨ n = 11 ∧ 1 ≤ v ∧ v ≤ 255 ∨ n = 12 ∧ 1 ≤ v
    ∨ n = 13 ∧ 1 ≤ v ∧ v ≤ 255 := by
  unfold settingInRange
  split
  case h_13 =>
    simp only [imp_false, Bool.false_eq_true, false_iff] at *
    omega
  all_goals simp

theorem settingInRange_writable {n v : Nat} (h : settingInRange n v = true) : 2 ≤ n ∧ n ≤ 13 := by
  rw [settingInRange_iff] at h
  omega

section
variable {s : State} {p : Port} {n : Byte} {v : Half}

theorem State.writeCheck_of_not_supervisor (h : p ≠ s.supervisor) : s.writeCheck p n v = some .notSupervisor := if_pos h

theorem State.writeCheck_of_out_of_range (h : p = s.supervisor) (hr : ¬settingInRange n.toNat v.toNat = true) :
    s.writeCheck p n v = some .badSetting := by
  rw [State.writeCheck, if_neg (not_not_intro h), if_neg hr]

theorem State.writeCheck_of_in_range (h : p = s.supervisor) (hr : settingInRange n.toNat v.toNat = true) :
    s.writeCheck p n v = none := by
  rw [State.writeCheck, if_neg (not_not_intro h), if_pos hr]

end

/-! ### The settings after a write -/

section
variable (t : Settings) (n : Nat) (v : Half)

theorem Settings.write_supervisor : (t.write n v).supervisor = t.supervisor := by
  unfold Settings.write
  split <;> rfl

theorem Settings.write_timebase : (t.write n v).timebase = t.timebase := by
  unfold Settings.write
  split <;> rfl

theorem Settings.write_priorityPort : (t.write n v).priorityPort = if n = 4 then v else t.priorityPort := by
  unfold Settings.write
  split <;> simp_all

theorem Settings.write_quotaOf (j : Fin 4) : t.write (5 + j.val) v = { t with quota := t.quota.set j v } := by
  fin_cases j <;> rfl

theorem Settings.write_quota_of_other {n : Nat} (h : n < 5 ∨ 8 < n) : (t.write n v).quota = t.quota := by
  unfold Settings.write
  split
  case h_2 | h_3 | h_4 | h_5 => omega
  all_goals rfl

theorem Settings.write_quota (i : Fin 4) : (t.write n v).quota[i] = if n = 5 + i.val then v else t.quota[i] := by
  by_cases h : 5 ≤ n ∧ n ≤ 8
  · obtain ⟨j, rfl⟩ : ∃ j : Fin 4, n = 5 + j.val := ⟨⟨n - 5, by omega⟩, by dsimp only; omega⟩
    rw [Settings.write_quotaOf]
    simp [Vector.getElem_set]
  · rw [Settings.write_quota_of_other _ _ (by omega), if_neg (by omega)]

theorem Settings.write_waitDefault : (t.write n v).waitDefault = if n = 9 then v else t.waitDefault := by
  unfold Settings.write
  split <;> simp_all

theorem Settings.write_orphanHold : (t.write n v).orphanHold = if n = 10 then v else t.orphanHold := by
  unfold Settings.write
  split <;> simp_all

theorem Settings.write_responseTimeout : (t.write n v).responseTimeout = if n = 11 then v else t.responseTimeout := by
  unfold Settings.write
  split <;> simp_all

theorem Settings.write_stallLimit : (t.write n v).stallLimit = if n = 12 then v else t.stallLimit := by
  unfold Settings.write
  split <;> simp_all

theorem Settings.write_trainWindow : (t.write n v).trainWindow = if n = 13 then v else t.trainWindow := by
  unfold Settings.write
  split <;> simp_all

end

/-! ### What CONFIG_READ then finds -/

/-- The writable settings' values are read from the settings alone. -/
theorem settingValue_congr {s t : State} (h : t.settings = s.settings) {m : Nat} (hlow : 2 ≤ m) (hhigh : m ≤ 13) :
    settingValue t m = settingValue s m := by
  interval_cases m <;> simp only [settingValue, h]

/-- Settings in which setting n holds v, and every other writable one what it holds in s. -/
def SetsOnly (s : State) (st : Settings) (n : Nat) (v : Half) : Prop :=
  ∀ m, 2 ≤ m → m ≤ 13 → settingValue (s.setSettings st) m = if n = m then some v else settingValue s m

theorem SetsOnly.timebase (s : State) (v : Half) : SetsOnly s { s.settings with timebase := v } 3 v := by
  intro m hlow hhigh
  interval_cases m <;> rfl

theorem SetsOnly.write (s : State) {n : Nat} (hn : 4 ≤ n) (v : Half) : SetsOnly s (s.settings.write n v) n v := by
  have hfield : ∀ {P : Prop} [Decidable P] {x y : Half}, x = (if P then v else y) → some x = if P then some v else some y :=
    fun h => (congrArg some h).trans (apply_ite some ..)
  intro m hlow hhigh
  interval_cases m
  · rw [if_neg (by omega)]
    exact congrArg (fun q : Port => some (BitVec.ofNat 16 q.val)) (Settings.write_supervisor ..)
  · rw [if_neg (by omega)]
    exact congrArg some (Settings.write_timebase ..)
  · exact hfield (Settings.write_priorityPort ..)
  · exact hfield (Settings.write_quota _ _ _ 0)
  · exact hfield (Settings.write_quota _ _ _ 1)
  · exact hfield (Settings.write_quota _ _ _ 2)
  · exact hfield (Settings.write_quota _ _ _ 3)
  · exact hfield (Settings.write_waitDefault ..)
  · exact hfield (Settings.write_orphanHold ..)
  · exact hfield (Settings.write_responseTimeout ..)
  · exact hfield (Settings.write_stallLimit ..)
  · exact hfield (Settings.write_trainWindow ..)

/-! ### The three rows (log entry 29) -/

/-- The row of the table that takes a CONFIG_WRITE of setting n. -/
def ConfigRow (p : Port) (n : Byte) (c : Instr) : Prop :=
  n = 0x02#8 ∧ c = .configWriteSupervisor p ∨ n = 0x03#8 ∧ c = .configWriteTimebase p
    ∨ n ≠ 0x02#8 ∧ n ≠ 0x03#8 ∧ c = .configWrite p

section
variable {s : State} {p : Port} {n : Byte} {v : Half}

/-- Whichever row takes it, a request that fails a check is answered with that check's status. -/
theorem exec_configRow_of_refused {c : Instr} {st : Status} (hreq : s.request p = some (.configWrite n v))
    (hrow : ConfigRow p n c) (hcheck : s.writeCheck p n v = some st) : exec c s = .next (s.answer p st none []) := by
  rcases hrow with ⟨hn, rfl⟩ | ⟨hn, rfl⟩ | ⟨hnot2, hnot3, rfl⟩
  · simp only [exec, execConfigWriteSupervisor, hreq, if_pos hn, hcheck]
  · simp only [exec, execConfigWriteTimebase, hreq, if_pos hn, hcheck]
  · simp only [exec, execConfigWrite, hreq, if_neg (not_or.mpr ⟨hnot2, hnot3⟩), hcheck]

theorem exec_configWriteSupervisor_of_passed (hreq : s.request p = some (.configWrite 0x02#8 v))
    (hcheck : s.writeCheck p 0x02#8 v = none) :
    exec (.configWriteSupervisor p) s = .next (s.writeSupervisor p (Fin.ofNat 4 v.toNat)) := by
  simp only [exec, execConfigWriteSupervisor, hreq, if_true, hcheck]

/-- In a row other than SUPERVISOR's, a request that passes sets its setting alone and is answered OK. -/
theorem exec_configRow_of_passed {c : Instr} (hreq : s.request p = some (.configWrite n v)) (hrow : ConfigRow p n c)
    (hn : n ≠ 0x02#8) (hp : p = s.supervisor) (hr : settingInRange n.toNat v.toNat = true) :
    ∃ st, exec c s = .next ((s.setSettings st).answer p .ok none []) ∧ SetsOnly s st n.toNat v := by
  have hcheck := State.writeCheck_of_in_range hp hr
  rcases hrow with ⟨hn2, _⟩ | ⟨rfl, rfl⟩ | ⟨_, hn3, rfl⟩
  · exact absurd hn2 hn
  · refine ⟨_, ?_, .timebase s v⟩
    simp only [exec, execConfigWriteTimebase, hreq, if_true, hcheck]
  · refine ⟨_, ?_, .write s ?_ v⟩
    · simp only [exec, execConfigWrite, hreq, if_neg (not_or.mpr ⟨hn, hn3⟩), hcheck]
    · obtain ⟨hlow, _⟩ := settingInRange_writable hr
      bv_omega

end

/-! ### The request answered beside a change of the settings -/

section
variable {s : State} {p : Port} {sv : Service} (hsv : (s.link p).service = some sv)
include hsv

theorem State.setSettings_answered (st : Settings) : AnsweredAs s ((s.setSettings st).answer p .ok none []) p .ok none []
    ∧ DispatcherOnly s ((s.setSettings st).answer p .ok none []) p
    ∧ (s.setSettings st).answer p .ok none [] = { s with
        settings := st, links := ((s.setSettings st).answer p .ok none []).links } :=
  ⟨State.answer_answeredAs (u := s.setSettings st) hsv rfl .., State.answer_dispatcherOnly (fun _ => rfl) .., State.answer_frame ..⟩

/-- A CONFIG_WRITE of SUPERVISOR that names the supervisor itself changes nothing (R173). -/
theorem State.writeSupervisor_of_self (hp : p = s.supervisor) : AnsweredOnly s (s.writeSupervisor p p) p .ok none [] := by
  rw [State.writeSupervisor, if_pos hp]
  exact State.answer_answeredOnly hsv ..

theorem State.writeSupervisor_of_not_up (hp : p = s.supervisor) {q : Port} (hq : q ≠ p) (hup : (s.link q).link ≠ .up) :
    AnsweredOnly s (s.writeSupervisor p q) p .notReady none [] := by
  rw [State.writeSupervisor, if_neg (hp ▸ hq), if_neg hup]
  exact State.answer_answeredOnly hsv ..

end

theorem State.writeSupervisor_of_up {s : State} {p q : Port} (hp : p = s.supervisor) (hq : q ≠ p)
    (hup : (s.link q).link = .up) :
    s.writeSupervisor p q = (s.setSettings { s.settings with supervisor := q }).answer p .ok none [] := by
  rw [State.writeSupervisor, if_neg (hp ▸ hq), if_pos hup]

theorem State.answer_settings (s : State) (p : Port) (st : Status) (d : Option Half) (w : List Word) :
    (s.answer p st d w).settings = s.settings := by
  rw [State.answer_frame]

/-! ### O52 -/

/-- Settles O52: the checks are the same in every row; past them SUPERVISOR's row asks for a link that is UP. -/
theorem configWriteSetsOneSetting : Obligations.ConfigWriteSetsOneSetting := by
  intro s p n v c hreq hrow
  obtain ⟨sv, hsv, _⟩ := State.request_eq_some hreq
  have hrefused : ∀ st, s.writeCheck p n v = some st → ∃ t, exec c s = .next t ∧ AnsweredOnly s t p st none [] :=
    fun st hcheck => ⟨_, exec_configRow_of_refused hreq hrow hcheck, State.answer_answeredOnly hsv ..⟩
  refine ⟨fun hp => hrefused _ (State.writeCheck_of_not_supervisor hp), fun good hgood => ?_⟩
  have hrange : good ↔ settingInRange n.toNat v.toNat = true := hgood.trans (settingInRange_iff ..).symm
  refine ⟨fun hp hbad => hrefused _ (State.writeCheck_of_out_of_range hp (hrange.not.mp hbad)), fun hp hok hn => ?_,
    fun hp hok hn q hq => ?_⟩
  · have hr := hrange.mp hok
    obtain ⟨hlow, hhigh⟩ := settingInRange_writable hr
    obtain ⟨st, hexec, hsets⟩ := exec_configRow_of_passed hreq hrow hn hp hr
    obtain ⟨hanswered, honly, hframe⟩ := State.setSettings_answered hsv st
    have hvalue : ∀ m, 2 ≤ m → m ≤ 13 → settingValue ((s.setSettings st).answer p .ok none []) m
        = if n.toNat = m then some v else settingValue s m := fun m hml hmh =>
      (settingValue_congr (State.answer_settings ..) hml hmh).trans (hsets m hml hmh)
    refine ⟨_, hexec, hanswered, honly, ?_, (hvalue _ hlow hhigh).trans (if_pos rfl), fun m hml hmh hne =>
      (hvalue m hml hmh).trans (if_neg hne.symm)⟩
    rw [State.answer_settings]
    exact hframe
  · subst hn
    have hport : Fin.ofNat 4 v.toNat = q := Fin.ext (by rw [Fin.val_ofNat]; omega)
    have hc : c = .configWriteSupervisor p := by
      rcases hrow with ⟨_, hc⟩ | ⟨h23, _⟩ | ⟨h22, _⟩
      · exact hc
      · exact absurd h23 (by decide)
      · exact absurd rfl h22
    have hexec : exec c s = .next (s.writeSupervisor p q) := by
      rw [hc, exec_configWriteSupervisor_of_passed hreq (State.writeCheck_of_in_range hp (hrange.mp hok)), hport]
    refine ⟨fun hself => ⟨_, hself ▸ hexec, State.writeSupervisor_of_self hsv hp⟩,
      fun hother hup => ⟨_, hexec, State.writeSupervisor_of_not_up hsv hp hother hup⟩, fun hother hup => ?_⟩
    obtain ⟨hanswered, honly, hframe⟩ := State.setSettings_answered hsv { s.settings with supervisor := q }
    rw [State.writeSupervisor_of_up hp hother hup] at hexec
    exact ⟨_, hexec, hanswered, honly, hframe, by rw [State.supervisor, State.answer_settings]; rfl⟩

end Sys2Proof.Machine
end


section
/-! SUPPORT. O53: FENCE and UNFENCE, by the state of the link they name (R163, R166, R172, R180, R181). -/

namespace Sys2Proof.Machine

/-! ### What LCq does with them (R166) -/

section
variable {s : State} {q : Port}

theorem State.fenceLink_of_fenced (h : (s.link q).link = .fenced) : s.fenceLink q = s := by
  rw [State.fenceLink, h]

theorem State.fenceLink_of_up (h : (s.link q).link = .up) : s.fenceLink q = s.portDownEvent q .fenced .fence .hard := by
  rw [State.fenceLink, h]

theorem State.fenceLink_of_not_up (h : (s.link q).link = .off ∨ (s.link q).link = .down ∨ (s.link q).link = .training) :
    s.fenceLink q = s.setLink q ((s.link q).moveTo .fenced) := by
  rcases h with h | h | h <;> rw [State.fenceLink, h]

theorem State.unfenceLink_of_fenced (h : (s.link q).link = .fenced) :
    s.unfenceLink q = s.setLink q ((s.link q).moveTo (if (s.link q).prst then .off else .down)) := by
  rw [State.unfenceLink, h]

theorem State.unfenceLink_of_not_fenced (h : (s.link q).link ≠ .fenced) : s.unfenceLink q = s := by
  unfold State.unfenceLink
  split
  · next hf => exact absurd hf h
  all_goals rfl

end

/-! ### The commands, check by check (R172, R180, R181) -/

section
variable {s : State} {p q : Port}

theorem exec_fence_of_not_supervisor (hreq : s.request p = some (.fence q)) (hp : p ≠ s.supervisor) :
    exec (.fence p) s = .next (s.answer p .notSupervisor none []) := by
  simp only [exec, execFence, hreq, if_pos hp]

theorem exec_fence_of_self (hreq : s.request p = some (.fence q)) (hp : p = s.supervisor) (hq : q = p) :
    exec (.fence p) s = .next (s.answer p .badSetting none []) := by
  simp only [exec, execFence, hreq, if_neg (not_not_intro hp), if_pos (hq.trans hp)]

theorem exec_fence_of_other (hreq : s.request p = some (.fence q)) (hp : p = s.supervisor) (hq : q ≠ p) :
    exec (.fence p) s = .next ((s.fenceLink q).answer p .ok none []) := by
  simp only [exec, execFence, hreq, if_neg (not_not_intro hp), if_neg (hp ▸ hq)]

theorem exec_unfence_of_not_supervisor (hreq : s.request p = some (.unfence q)) (hp : p ≠ s.supervisor) :
    exec (.unfence p) s = .next (s.answer p .notSupervisor none []) := by
  simp only [exec, execUnfence, hreq, if_pos hp]

theorem exec_unfence_of_supervisor (hreq : s.request p = some (.unfence q)) (hp : p = s.supervisor) :
    exec (.unfence p) s = .next ((s.unfenceLink q).answer p .ok none []) := by
  simp only [exec, execUnfence, hreq, if_neg (not_not_intro hp)]

end

/-! ### An answer beside a change of another port's link -/

/-- The answer to port p leaves the loss of another port's link as it is. -/
theorem LinkLost.answer {s t : State} {p q : Port} {dest : LinkState} {cause : DownCause} {loss : Loss}
    (h : LinkLost s t q dest cause loss) (hq : q ≠ p) (st : Status) (d : Option Half) (w : List Word) :
    LinkLost s (t.answer p st d w) q dest cause loss := by
  have hlink : (t.answer p st d w).link q = t.link q := State.answer_link_other _ _ _ _ _ _ hq
  have hclaims : ∀ r, (t.answer p st d w).claimsOf r = t.claimsOf r := fun r => by rw [State.answer_frame]; rfl
  have hdown : ∀ r, (t.answer p st d w).portDown r = t.portDown r := fun r => by rw [State.answer_frame]; rfl
  unfold LinkLost at h ⊢
  simp only [hlink, hclaims, hdown, State.answer_events]
  exact h

/-- Port q's link moves without a port-down event, and port p is answered: what is left of every Link Controller. -/
theorem State.moveTo_answered {s : State} {p q : Port} {sv : Service} (hsv : (s.link p).service = some sv) (hq : q ≠ p)
    (dest : LinkState) : let t := (s.setLink q ((s.link q).moveTo dest)).answer p .ok none []
    AnsweredAs s t p .ok none [] ∧ t = { s with links := t.links }
      ∧ t.link q = { s.link q with link := dest, trainTimer := none, readyTaken := none }
      ∧ ∀ r, r ≠ p → r ≠ q → t.link r = s.link r := by
  refine ⟨State.answer_answeredAs hsv (State.setLink_link_other _ _ hq.symm) .., State.answer_frame .., ?_, fun r hrp hrq => ?_⟩
  · rw [State.answer_link_other _ _ _ _ _ _ hq, State.setLink_link_self]
    rfl
  · rw [State.answer_link_other _ _ _ _ _ _ hrp, State.setLink_link_other _ _ hrq]

/-- Port q's link is lost, and port p is answered. -/
theorem State.portDownEvent_answered {s : State} {p q : Port} {sv : Service} (hsv : (s.link p).service = some sv) (hq : q ≠ p)
    (dest : LinkState) (cause : DownCause) (loss : Loss) :
    let t := (s.portDownEvent q dest cause loss).answer p .ok none []
    AnsweredAs s t p .ok none []
      ∧ t = { s with links := t.links, claims := t.claims, portDowns := t.portDowns, events := t.events }
      ∧ LinkLost s t q dest cause loss ∧ (t.link q).prst = (s.link q).prst ∧ ∀ r, r ≠ p → r ≠ q → t.link r = s.link r := by
  obtain ⟨hlinkp, _⟩ := s.portDownEvent_others q dest cause loss hq.symm
  refine ⟨State.answer_answeredAs hsv hlinkp .., ?_, (s.portDownEvent_linkLost ..).answer hq .., ?_, fun r hrp hrq => ?_⟩
  · have hframe := s.portDownEvent_frame q dest cause loss
    generalize s.portDownEvent q dest cause loss = u at hframe ⊢
    have hanswer := u.answer_frame p .ok none []
    generalize u.answer p .ok none [] = t at hanswer ⊢
    rw [hanswer, hframe]
  · rw [State.answer_link_other _ _ _ _ _ _ hq, State.portDownEvent_prst]
  · rw [State.answer_link_other _ _ _ _ _ _ hrp]
    exact (s.portDownEvent_others q dest cause loss hrq).1

/-! ### O53 -/

/-- Settles O53, by the checks and then by the state of the link named. -/
theorem fenceShutsAPortOut : Obligations.FenceShutsAPortOut := by
  refine ⟨fun s p q hreq => ?_, fun s p q hreq => ?_⟩ <;> obtain ⟨sv, hsv, _⟩ := State.request_eq_some hreq
  · refine ⟨fun hp => ⟨_, exec_fence_of_not_supervisor hreq hp, State.answer_answeredOnly hsv ..⟩,
      fun hp hq => ⟨_, exec_fence_of_self hreq hp hq, State.answer_answeredOnly hsv ..⟩, fun hp hq => ?_⟩
    have hexec := exec_fence_of_other hreq hp hq
    refine ⟨fun hfenced => ?_, fun hnot => ?_, fun hup => ?_⟩
    · rw [State.fenceLink_of_fenced hfenced] at hexec
      exact ⟨_, hexec, State.answer_answeredOnly hsv ..⟩
    · rw [State.fenceLink_of_not_up hnot] at hexec
      exact ⟨_, hexec, State.moveTo_answered hsv hq .fenced⟩
    · rw [State.fenceLink_of_up hup] at hexec
      exact ⟨_, hexec, State.portDownEvent_answered hsv hq .fenced .fence .hard⟩
  · refine ⟨fun hp => ⟨_, exec_unfence_of_not_supervisor hreq hp, State.answer_answeredOnly hsv ..⟩, fun hp hnot => ?_,
      fun hp hq hfenced => ?_⟩
    · have hexec := exec_unfence_of_supervisor hreq hp
      rw [State.unfenceLink_of_not_fenced hnot] at hexec
      exact ⟨_, hexec, State.answer_answeredOnly hsv ..⟩
    · have hexec := exec_unfence_of_supervisor hreq hp
      rw [State.unfenceLink_of_fenced hfenced] at hexec
      exact ⟨_, hexec, State.moveTo_answered hsv hq _⟩

end Sys2Proof.Machine
end
